-- ==== Sys2Proof/Word.lean ====
section
/-! DEFINITION. The 32-bit word, the byte and their plainest arithmetic. -/

namespace Sys2Proof

/-- A 32-bit word: what a scalar register holds (R24). -/
abbrev Word := BitVec 32

/-- A byte of memory. -/
abbrev Byte := BitVec 8

end Sys2Proof
end

