-- ==== Sys2Proof/Machine/Flags.lean ====
section
/-! DEFINITION. The floating-point flags of FFLAGS (Table 4.3), and results that carry flags. -/

namespace Sys2Proof.Machine

/-- FFLAGS bits [4:0]: NV, DZ, OF, UF, NX (Table 4.3). -/
abbrev FFlags := BitVec 5

/-- No flag. -/
def fNone : FFlags := 0#5
/-- Invalid. -/
def fNV : FFlags := 0x10#5
/-- Divide-by-zero. -/
def fDZ : FFlags := 0x08#5
/-- Overflow. -/
def fOF : FFlags := 0x04#5
/-- Underflow. -/
def fUF : FFlags := 0x02#5
/-- Inexact. -/
def fNX : FFlags := 0x01#5

/-- A flag set when a condition holds. -/
def fWhen (c : Bool) (f : FFlags) : FFlags := if c then f else fNone

/-- A 32-bit result with the flags its computation raises (R135). -/
structure FRes where
  bits : Word
  flags : FFlags
  deriving DecidableEq, Repr

/-- The flags the matrix array can set: NV and OF only (R136). -/
def arrayFlags (f : FFlags) : FFlags := f &&& (fNV ||| fOF)

end Sys2Proof.Machine
end

