-- ==== Sys2Proof/Machine/Float.lean ====
section
/-! DEFINITION. FP32 and BF16: exact values, RoundRNE (R133), and the scalar operations of R272 to R274. -/

namespace Sys2Proof.Machine

/-- An exact value before rounding: NaN (signalling or not), an infinity, or (-1)^neg × m × 2^e, where `more` says
that the magnitude lies strictly between m and m + 1 units. -/
inductive FVal where
  | nan (signalling : Bool)
  | inf (neg : Bool)
  | fin (neg : Bool) (m : Nat) (e : Int) (more : Bool)
  deriving DecidableEq, Repr

/-- A target format: significand bits p and total width. FP32 has p = 24, BF16 p = 8; both have bias 127 (R129). -/
structure FFormat where
  p : Nat
  width : Nat
  deriving DecidableEq, Repr

/-- FP32 (Table 4.1). -/
def f32 : FFormat := ⟨24, 32⟩
/-- BF16 (Table 4.1). -/
def bf16 : FFormat := ⟨8, 16⟩

/-- The bits of ±∞. -/
def FFormat.infBits (f : FFormat) (neg : Bool) : Nat :=
  neg.toNat * 2 ^ (f.width - 1) + 255 * 2 ^ (f.p - 1)

/-- The canonical NaN (R130). -/
def FFormat.nanBits (f : FFormat) : Nat := 255 * 2 ^ (f.p - 1) + 2 ^ (f.p - 2)

/-- The exact value of a bit pattern (R129). -/
def FFormat.decode (f : FFormat) (b : Nat) : FVal :=
  let neg := b / 2 ^ (f.width - 1) % 2 == 1
  let ex := b / 2 ^ (f.p - 1) % 256
  let fr := b % 2 ^ (f.p - 1)
  if ex = 255 then
    if fr = 0 then .inf neg else .nan (fr / 2 ^ (f.p - 2) % 2 == 0)
  else if ex = 0 then .fin neg fr (-126 - (f.p - 1 : Nat)) false
  else .fin neg (fr + 2 ^ (f.p - 1)) ((ex : Int) - 127 - (f.p - 1 : Nat)) false

/-- m × 2^e (plus a part below one unit when more) rounded to an integer number of units 2^q, ties to even;
the second component says that the rounding was inexact. -/
def roundUnits (m : Nat) (e : Int) (more : Bool) (q : Int) : Nat × Bool :=
  if q ≤ e then (m * 2 ^ (e - q).toNat, more)
  else
    let s := (q - e).toNat
    let n := m / 2 ^ s
    let r := m % 2 ^ s
    let half := 2 ^ (s - 1)
    let up := decide (half < r) || (r == half && (more || n % 2 == 1))
    (n + up.toNat, r != 0 || more)

/-- RoundRNE into a format, for a non-zero magnitude or a zero with a part below (R133, Table 4.2). -/
def FFormat.roundMag (f : FFormat) (neg : Bool) (m : Nat) (e : Int) (more : Bool) : Nat × FFlags :=
  let sign := neg.toNat * 2 ^ (f.width - 1)
  if m = 0 then
    if more then (sign, fUF ||| fNX) else (sign, fNone)
  else
    let top := e + Nat.log2 m
    let qFree := top - (f.p - 1 : Nat)
    let q := max qFree (-126 - (f.p - 1 : Nat))
    let (n, inexact) := roundUnits m e more q
    let (nFree, _) := roundUnits m e more qFree
    -- below 2^-126 when rounded with an unbounded exponent
    let tiny := decide (top + (if nFree = 2 ^ f.p then 1 else 0) < -126)
    let (n, q) := if n = 2 ^ f.p then (2 ^ (f.p - 1), q + 1) else (n, q)
    if 127 < q + (f.p - 1 : Nat) then (f.infBits neg, fOF ||| fNX)
    else
      let body := if n < 2 ^ (f.p - 1) then n
        else (q + (f.p - 1 : Nat) + 127).toNat * 2 ^ (f.p - 1) + (n - 2 ^ (f.p - 1))
      (sign + body, fWhen inexact fNX ||| fWhen (inexact && tiny) fUF)

/-- RoundRNE of an exact value into a format (R133); a NaN becomes the canonical NaN, without a flag. -/
def FFormat.round (f : FFormat) (v : FVal) : Nat × FFlags :=
  match v with
  | .nan _ => (f.nanBits, fNone)
  | .inf neg => (f.infBits neg, fNone)
  | .fin neg m e more => f.roundMag neg m e more

/-- Whether a value is a signalling NaN (R131). -/
def FVal.isSignalling : FVal → Bool
  | .nan s => s
  | _ => false

/-- Whether a value is a NaN. -/
def FVal.isNaN : FVal → Bool
  | .nan _ => true
  | _ => false

/-- Whether a value is an infinity. -/
def FVal.isInf : FVal → Bool
  | .inf _ => true
  | _ => false

/-- Whether a value is ±0. -/
def FVal.isZero : FVal → Bool
  | .fin _ m _ more => m == 0 && !more
  | _ => false

/-- The sign of a value; a NaN counts as positive. -/
def FVal.neg? : FVal → Bool
  | .nan _ => false
  | .inf n => n
  | .fin n _ _ _ => n

/-- The value with its sign inverted. -/
def FVal.negate : FVal → FVal
  | .nan s => .nan s
  | .inf n => .inf (!n)
  | .fin n m e k => .fin (!n) m e k

/-- A signed integer number of units 2^e as a value; zero is +0. -/
def FVal.ofInt (n : Int) (e : Int) : FVal := .fin (decide (n < 0)) n.natAbs e false

/-- The signed number of units 2^q of a finite value that is a whole number of them. -/
def FVal.units (v : FVal) (q : Int) : Int :=
  match v with
  | .fin neg m e _ => let n : Int := m * 2 ^ (e - q).toNat; if neg then -n else n
  | _ => 0

/-- The exponent of the unit of a finite value. -/
def FVal.unitExp : FVal → Int
  | .fin _ _ e _ => e
  | _ => 0

/-- The exact sum of two values, with the invalid flag of R131; an exact zero sum is +0 unless both are -0 (R133). -/
def FVal.add (a b : FVal) : FVal × FFlags :=
  let sig := fWhen (a.isSignalling || b.isSignalling) fNV
  match a, b with
  | .nan _, _ => (.nan false, sig)
  | _, .nan _ => (.nan false, sig)
  | .inf x, .inf y => if x = y then (.inf x, fNone) else (.nan false, fNV)
  | .inf x, _ => (.inf x, fNone)
  | _, .inf y => (.inf y, fNone)
  | .fin x m1 e1 k1, .fin y m2 e2 k2 =>
    if m1 = 0 ∧ m2 = 0 then (.fin (x && y) 0 0 false, fNone)
    else
      let q := min e1 e2
      (.ofInt ((FVal.fin x m1 e1 k1).units q + (FVal.fin y m2 e2 k2).units q) q, fNone)

/-- The exact product of two values, with the invalid flag of R131. -/
def FVal.mul (a b : FVal) : FVal × FFlags :=
  let sig := fWhen (a.isSignalling || b.isSignalling) fNV
  match a, b with
  | .nan _, _ => (.nan false, sig)
  | _, .nan _ => (.nan false, sig)
  | .inf x, v => if v.isZero then (.nan false, fNV) else (.inf (x != v.neg?), fNone)
  | v, .inf y => if v.isZero then (.nan false, fNV) else (.inf (y != v.neg?), fNone)
  | .fin x m1 e1 _, .fin y m2 e2 _ => (.fin (x != y) (m1 * m2) (e1 + e2) false, fNone)

/-- The quotient to at least 64 bits below its leading bit, with a part below when it is not exact (R272). -/
def FVal.div (a b : FVal) : FVal × FFlags :=
  let sig := fWhen (a.isSignalling || b.isSignalling) fNV
  match a, b with
  | .nan _, _ => (.nan false, sig)
  | _, .nan _ => (.nan false, sig)
  | .inf _, .inf _ => (.nan false, fNV)
  | .inf x, v => (.inf (x != v.neg?), fNone)
  | v, .inf y => (.fin (v.neg? != y) 0 0 false, fNone)
  | .fin x m1 e1 _, .fin y m2 e2 _ =>
    if m2 = 0 then
      if m1 = 0 then (.nan false, fNV) else (.inf (x != y), fDZ)
    else
      let s := 64 + Nat.log2 m2
      (.fin (x != y) (m1 * 2 ^ s / m2) (e1 - e2 - s) (m1 * 2 ^ s % m2 != 0), fNone)

/-- The greatest r with r × r ≤ n, found bit by bit from the given bit down. -/
def isqrtFrom : Nat → Nat → Nat → Nat
  | 0, n, r => if (r + 1) * (r + 1) ≤ n then r + 1 else r
  | k + 1, n, r => isqrtFrom k n (if (r + 2 ^ (k + 1)) * (r + 2 ^ (k + 1)) ≤ n then r + 2 ^ (k + 1) else r)

/-- The integer square root. -/
def isqrt (n : Nat) : Nat := isqrtFrom (Nat.log2 n / 2 + 1) n 0

/-- The square root to at least 64 bits, with a part below when it is not exact (R272). -/
def FVal.sqrt (a : FVal) : FVal × FFlags :=
  match a with
  | .nan s => (.nan false, fWhen s fNV)
  | .inf neg => if neg then (.nan false, fNV) else (.inf false, fNone)
  | .fin neg m e _ =>
    if m = 0 then (.fin neg 0 0 false, fNone)
    else if neg then (.nan false, fNV)
    else
      let par : Nat := (e % 2).toNat
      let n := m * 2 ^ (128 + par)
      let r := isqrt n
      (.fin false r ((e - par) / 2 - 64) (r * r != n), fNone)

/-- The value of an FP32 word (R254: F(v)). -/
def fOf (w : Word) : FVal := f32.decode w.toNat

/-- The value of a BF16 pattern. -/
def bOf (h : Nat) : FVal := bf16.decode h

/-- RoundRNE_F32 of an exact result, with flags gathered before the rounding. -/
def toF32 (r : FVal × FFlags) : FRes :=
  let (b, f) := f32.round r.1
  ⟨BitVec.ofNat 32 b, r.2 ||| f⟩

/-- RoundRNE_BF16 of an exact result into the low half of a word. -/
def toBF16 (r : FVal × FFlags) : FRes :=
  let (b, f) := bf16.round r.1
  ⟨BitVec.ofNat 32 b, r.2 ||| f⟩

/-- FADD (Table 9.5). -/
def fAdd (a b : Word) : FRes := toF32 ((fOf a).add (fOf b))
/-- FSUB (Table 9.5). -/
def fSub (a b : Word) : FRes := toF32 ((fOf a).add (fOf b).negate)
/-- FMUL (Table 9.5). -/
def fMul (a b : Word) : FRes := toF32 ((fOf a).mul (fOf b))
/-- FDIV (Table 9.5). -/
def fDiv (a b : Word) : FRes := toF32 ((fOf a).div (fOf b))
/-- FSQRT (Table 9.5). -/
def fSqrt (a : Word) : FRes := toF32 (fOf a).sqrt

/-- a × b + c with one rounding to follow; 0 × ∞ is invalid whatever the addend (Table 9.6). -/
def FVal.fma (a b c : FVal) : FVal × FFlags :=
  let sig := fWhen (a.isSignalling || b.isSignalling || c.isSignalling) fNV
  let (p, f) := a.mul b
  if p.isNaN then (.nan false, f ||| sig)
  else
    let (r, g) := p.add c
    (r, f ||| g ||| sig)

/-- FFMA (Table 9.6). -/
def fFma (a b d : Word) : FRes := toF32 ((fOf a).fma (fOf b) (fOf d))
/-- FFMS (Table 9.6). -/
def fFms (a b d : Word) : FRes := toF32 ((fOf a).fma (fOf b) (fOf d).negate)

/-- Whether a < b, for two values neither of which is a NaN; -0 equals +0 (R274). -/
def FVal.lt (a b : FVal) : Bool :=
  match a, b with
  | .inf x, .inf y => x && !y
  | .inf x, _ => x
  | _, .inf y => !y
  | a, b => let q := min a.unitExp b.unitExp; decide (a.units q < b.units q)

/-- Whether a = b, for two values neither of which is a NaN. -/
def FVal.eq (a b : FVal) : Bool := !a.lt b && !b.lt a

/-- The flag of a comparison or a min or max: NV for a signalling operand (R131). -/
def sigFlag (a b : FVal) : FFlags := fWhen (a.isSignalling || b.isSignalling) fNV

/-- FMIN and FMAX over a format (R131): a single NaN loses, two give the canonical NaN, and -0 is below +0. -/
def minMaxBits (f : FFormat) (max : Bool) (a b : Nat) : Nat × FFlags :=
  let x := f.decode a
  let y := f.decode b
  let less := x.lt y || (x.eq y && x.neg? && !y.neg?)
  let r := if x.isNaN && y.isNaN then f.nanBits
    else if x.isNaN then b
    else if y.isNaN then a
    else if less == max then b else a
  (r, sigFlag x y)

/-- FMIN (Table 9.5). -/
def fMin (a b : Word) : FRes :=
  let r := minMaxBits f32 false a.toNat b.toNat
  ⟨BitVec.ofNat 32 r.1, r.2⟩
/-- FMAX (Table 9.5). -/
def fMax (a b : Word) : FRes :=
  let r := minMaxBits f32 true a.toNat b.toNat
  ⟨BitVec.ofNat 32 r.1, r.2⟩
/-- FSGN (Table 9.5): the magnitude of A with the sign of B; bits pass unchanged. -/
def fSgn (a b : Word) : FRes := ⟨(a &&& 0x7FFFFFFF#32) ||| (b &&& 0x80000000#32), fNone⟩

/-- The truth value of a comparison as a word. -/
def boolWord (b : Bool) : Word := if b then 1#32 else 0#32

/-- FEQ (R274): NV only for a signalling NaN. -/
def fEq (a b : Word) : FRes :=
  ⟨boolWord (!(fOf a).isNaN && !(fOf b).isNaN && (fOf a).eq (fOf b)), sigFlag (fOf a) (fOf b)⟩
/-- FLT (R274): NV for any NaN. -/
def fLt (a b : Word) : FRes :=
  ⟨boolWord (!(fOf a).isNaN && !(fOf b).isNaN && (fOf a).lt (fOf b)), fWhen ((fOf a).isNaN || (fOf b).isNaN) fNV⟩
/-- FLE (R274): NV for any NaN. -/
def fLe (a b : Word) : FRes :=
  ⟨boolWord (!(fOf a).isNaN && !(fOf b).isNaN && !(fOf b).lt (fOf a)), fWhen ((fOf a).isNaN || (fOf b).isNaN) fNV⟩
/-- FUNORD (R274): NV only for a signalling NaN. -/
def fUnord (a b : Word) : FRes :=
  ⟨boolWord ((fOf a).isNaN || (fOf b).isNaN), sigFlag (fOf a) (fOf b)⟩

/-- FCVTFI (Table 9.6): FP32 from a signed integer. -/
def fCvtFi (a : Word) : FRes := toF32 (.ofInt a.toInt 0, fNone)

/-- A finite magnitude m × 2^e as an integer, rounded to nearest even or truncated; with inexactness. -/
def toIntMag (rne : Bool) (m : Nat) (e : Int) : Nat × Bool :=
  if rne then roundUnits m e false 0
  else if 0 ≤ e then (m * 2 ^ e.toNat, false)
  else (m / 2 ^ (-e).toNat, m % 2 ^ (-e).toNat != 0)

/-- FCVTIF and FCVTIFZ (Table 9.6): NX is never set together with NV. -/
def fCvtInt (rne : Bool) (a : Word) : FRes :=
  match fOf a with
  | .nan _ => ⟨0#32, fNV⟩
  | .inf neg => ⟨if neg then 0x80000000#32 else 0x7FFFFFFF#32, fNV⟩
  | .fin neg m e _ =>
    let (n, inexact) := toIntMag rne m e
    if neg then
      if 2 ^ 31 < n then ⟨0x80000000#32, fNV⟩ else ⟨BitVec.ofInt 32 (-(n : Int)), fWhen inexact fNX⟩
    else
      if 2 ^ 31 ≤ n then ⟨0x7FFFFFFF#32, fNV⟩ else ⟨BitVec.ofNat 32 n, fWhen inexact fNX⟩

/-- FCLASS (Table 9.6): a one-hot class word. -/
def fClass (a : Word) : FRes :=
  let ex := a.toNat / 2 ^ 23 % 256
  let bit : Nat :=
    match fOf a with
    | .nan s => if s then 8 else 9
    | .inf neg => if neg then 0 else 7
    | .fin neg m _ _ =>
      if m = 0 then (if neg then 3 else 4)
      else if ex = 0 then (if neg then 2 else 5)
      else (if neg then 1 else 6)
  ⟨BitVec.ofNat 32 (2 ^ bit), fNone⟩

/-- FBF (Table 9.6): BF16 from FP32, NV for a signalling NaN. -/
def fBf (a : Word) : FRes := toBF16 (fOf a, fWhen (fOf a).isSignalling fNV)
/-- FBFX (Table 9.6): the bits pass unchanged. -/
def fBfx (a : Word) : FRes := ⟨a <<< 16, fNone⟩

end Sys2Proof.Machine
end

