-- ==== Sys2Proof/Machine/Numbers.lean ====
section
/-! DEFINITION. The L6 format, block sums, compensated sums and BADDQ (R137 to R148). -/

namespace Sys2Proof.Machine

/-- T[f] of Table 4.4. -/
def l6T (f : Nat) : Nat :=
  match f with
  | 0 => 32768
  | 1 => 38968
  | 2 => 46341
  | _ => 55109

/-- C[f] of Table 4.4. -/
def l6C (f : Nat) : Nat :=
  match f with
  | 0 => 120645
  | 1 => 143472
  | 2 => 170618
  | _ => 202900

/-- L6Value (R138): the exact value of a code at an E8M0 scale; NaR and scale 0xFF are a quiet NaN. -/
def l6Value (code e : Nat) : FVal :=
  let m := code % 32
  if code % 64 = 0x20 ∨ e = 0xFF then .nan false
  else if m = 0 then .fin false 0 0 false
  else
    let i : Int := ((m : Int) - 16) / 4
    .fin (code / 32 % 2 == 1) (l6T (m % 4)) (i - 15 + ((e : Int) - 127)) false

/-- L6Product (R138): the product in units of 2^-23, or none for NaR. -/
def l6Product (c1 c2 : Nat) : Option Int :=
  let m1 := c1 % 32
  let m2 := c2 % 32
  if c1 % 64 = 0x20 ∨ c2 % 64 = 0x20 then none
  else if m1 = 0 ∨ m2 = 0 then some 0
  else
    let q : Int := (m1 : Int) + m2 - 32
    let mag : Int := l6T (q % 4).toNat * 2 ^ (q / 4 + 8).toNat
    some (if (c1 / 32 + c2 / 32) % 2 = 1 then -mag else mag)

/-- Whether the threshold θ(m) of R139 lies below the non-negative dyadic y × 2^q; eq asks for equality instead. -/
def thetaCmp (eq : Bool) (m : Nat) (y : Nat) (q : Int) : Bool :=
  let (c, e) : Nat × Int := if m = 1 then (19484, -19) else (l6C (m % 4), ((m : Int) - 16) / 4 - 17)
  let b := min e q
  let t := c * 2 ^ (e - b).toNat
  let v := y * 2 ^ (q - b).toNat
  if eq then t == v else decide (t < v)

/-- The greatest m in 1..k with θ(m) < y × 2^q, or 0 (R139). -/
def l6Code : Nat → Nat → Int → Nat
  | 0, _, _ => 0
  | k + 1, y, q => if thetaCmp false (k + 1) y q then k + 1 else l6Code k y q

/-- Whether x1 × 2^e1 ≤ x2 × 2^e2. -/
def dyadicLe (x1 : Nat) (e1 : Int) (x2 : Nat) (e2 : Int) : Bool :=
  let b := min e1 e2
  decide (x1 * 2 ^ (e1 - b).toNat ≤ x2 * 2 ^ (e2 - b).toNat)

/-- The greatest magnitude of a list of finite values, as m × 2^e. -/
def maxMag : List FVal → Nat × Int
  | [] => (0, 0)
  | .fin _ m e _ :: vs => let r := maxMag vs; if dyadicLe m e r.1 r.2 then r else (m, e)
  | _ :: vs => maxMag vs

/-- The least scale code from e on with M × 2^(127 - e) ≤ T[3] × 2^-12 (R139); 254 always serves. -/
def l6Scale : Nat → Nat → Nat × Int → Nat
  | 0, e, _ => e
  | fuel + 1, e, mx =>
    if dyadicLe mx.1 (mx.2 + 127 - (e : Int)) 55109 (-12) then e else l6Scale fuel (e + 1) mx

/-- One element of L6Quantise: its code and flags at scale e. -/
def l6Element (e : Nat) (x : FVal) : Nat × FFlags :=
  match x with
  | .fin neg y q _ =>
    let q' := q + 127 - (e : Int)
    let m := l6Code 31 y q'
    let m := if m < 31 ∧ thetaCmp true (m + 1) y q' ∧ (m + 1) % 2 = 0 then m + 1 else m
    let code := if m = 0 then 0 else neg.toNat * 32 + m
    let exact := (l6Value code e).eq x
    (code, fWhen (!exact) fNX ||| fWhen (m == 0 && y != 0) fUF)
  | _ => (0x20, fNone)

/-- L6Quantise (R139): codes, scale and flags of 32 FP32 values. -/
def l6Quantise (xs : List Word) : List Nat × Nat × FFlags :=
  let vs := xs.map fOf
  if vs.any (fun v => v.isNaN || v.isInf) then
    (xs.map fun _ => 0x20, 0xFF, fWhen (vs.any fun v => v.isSignalling || v.isInf) fNV)
  else
    let mx := maxMag vs
    if mx.1 = 0 then (xs.map fun _ => 0, 127, fNone)
    else
      let e := l6Scale 254 0 mx
      let cs := vs.map (l6Element e)
      (cs.map (·.1), e, cs.foldl (fun f c => f ||| c.2) fNone)

/-- BADDQ of two blocks of 32 codes with their scales (R148). -/
def l6Badd (a : List Nat) (sa : Nat) (b : List Nat) (sb : Nat) : List Nat × Nat × FFlags :=
  let z := (a.zip b).map fun (x, y) => toF32 ((l6Value x sa).add (l6Value y sb))
  let fl := z.foldl (fun f r => f ||| r.flags) fNone
  let (codes, e, g) := l6Quantise (z.map (·.bits))
  (codes, e, fl ||| g)

/-- A BF16 pattern entering or leaving the array: a subnormal becomes zero of its sign (R141). -/
def flushBf (h : Nat) : Nat := if h / 128 % 256 = 0 then h / 32768 % 2 * 32768 else h

/-- An accumulator element entering by the feedback path (R146). -/
def feedbackBf (w : Word) : Nat := flushBf ((fOf w |> bf16.round).1)

/-- BF16 of an accumulator element leaving the array (R141). -/
def drainBf (w : Word) : Nat := feedbackBf w

/-- One product truncated toward zero to a multiple of 2^q, in units (R142). -/
def truncUnits (v : FVal) (q : Int) : Int :=
  match v with
  | .fin neg m e _ =>
    let n : Nat := if q ≤ e then m * 2 ^ (e - q).toNat else m / 2 ^ (q - e).toNat
    if neg then -(n : Int) else n
  | _ => 0

/-- floor(log2 |v|) of the greatest non-zero finite product, when there is one. -/
def maxExp : List FVal → Option Int
  | [] => none
  | .fin _ m e _ :: vs =>
    if m = 0 then maxExp vs
    else some (match maxExp vs with
      | none => e + Nat.log2 m
      | some x => max x (e + Nat.log2 m))
  | _ :: vs => maxExp vs

/-- BlockSum of BF16 operands (R142), operands already flushed by R141. -/
def blockSumBf (a b : List Nat) : FRes :=
  let av := a.map bOf
  let bv := b.map bOf
  let p := (av.zip bv).map fun (x, y) => x.mul y
  let vs := p.map (·.1)
  if (av ++ bv).any (·.isNaN) then ⟨BitVec.ofNat 32 f32.nanBits, fNone⟩
  else if vs.any (·.isNaN) || (vs.any (fun v => v.isInf && v.neg?) && vs.any (fun v => v.isInf && !v.neg?)) then
    ⟨BitVec.ofNat 32 f32.nanBits, fNV⟩
  else if vs.any (fun v => v.isInf) then ⟨BitVec.ofNat 32 (f32.infBits (vs.any fun v => v.isInf && v.neg?)), fNone⟩
  else match maxExp vs with
    | none => ⟨0#32, fNone⟩
    | some x =>
      let q := x - 46
      let s := vs.foldl (fun t v => t + truncUnits v q) 0
      let r := toF32 (.ofInt s q, fNone)
      ⟨r.bits, arrayFlags r.flags⟩

/-- BlockSum of L6 operands with their block scales (R142). -/
def blockSumL6 (a b : List Nat) (sa sb : Nat) : FRes :=
  let p := (a.zip b).map fun (x, y) => l6Product x y
  if sa = 0xFF ∨ sb = 0xFF ∨ p.any (·.isNone) then ⟨BitVec.ofNat 32 f32.nanBits, fNone⟩
  else
    let s := p.foldl (fun t v => t + v.getD 0) 0
    let r := toF32 (.ofInt s (-23 + ((sa : Int) - 127) + ((sb : Int) - 127)), fNone)
    ⟨r.bits, arrayFlags r.flags⟩

/-- An accumulator addition (R144): NV for ∞ - ∞ and OF only (R136). -/
def accAdd (x y : Word) : FRes :=
  let r := fAdd x y
  let nv := (fOf x).isInf && (fOf y).isInf && (fOf x).neg? != (fOf y).neg?
  ⟨r.bits, (r.flags &&& fOF) ||| fWhen nv fNV⟩

/-- TwoSum (R147): the rounded sum and its exact error, +0 when the sum is not finite. -/
def twoSum (x y : Word) : FRes × Word :=
  let s := accAdd x y
  match fOf s.bits with
  | .fin .. =>
    let e := ((fOf x).add (fOf y)).1.add (fOf s.bits).negate
    (s, BitVec.ofNat 32 (f32.round e.1).1)
  | _ => (s, 0#32)

/-- One compensated accumulation step (R147): sum, compensation and flags. -/
def compensate (s c v : Word) : Word × Word × FFlags :=
  let (r, e) := twoSum s v
  let c' := accAdd c e
  (r.bits, c'.bits, r.flags ||| c'.flags)

end Sys2Proof.Machine
end

