-- ==== Sys2Proof/Machine/MatMath.lean ====
section
/-! DEFINITION. The arithmetic of the matrix array on 64 × 64 accumulators, as lists of 4,096 words in row order (R141 to R147,
R185 to R188, R192, R195 to R197, R347, R354). -/

namespace Sys2Proof.Machine

/-- An element of an accumulator. -/
def accAt (a : List Word) (r c : Nat) : Word := a.getD (64 * r + c) 0#32

/-- An accumulator by its elements. -/
def accOf (f : Nat → Nat → Word) : List Word := (List.range 4096).map fun i => f (i / 64) (i % 64)

/-- A row, or a column under transpose, of an accumulator as BF16 operands (R146). -/
def feedbackRow (a : List Word) (t : Bool) (j : Nat) : List Nat :=
  (List.range 64).map fun k => feedbackBf (if t then accAt a k j else accAt a j k)

/-- A matrix's rows below m as BF16 operands, padded with zero rows (R195). -/
def feedbackRows (a : List Word) (t : Bool) (m : Nat) : List (List Nat) :=
  (List.range 64).map fun j => (List.range 64).map fun k =>
    if t then (if k < m then feedbackBf (accAt a k j) else 0) else if j < m then feedbackBf (accAt a j k) else 0

/-- The columns of a plane whose element (k, n) is element (k, n) of some rows. -/
def columnsOf (rows : List (List Nat)) : List (List Nat) :=
  (List.range 64).map fun n => rows.map fun r => r.getD n 0

/-! ## Block sums and their accumulation (R142 to R147) -/

/-- The elements 32b to 32b + 31 of a list, zero beyond its end. -/
def block32 (xs : List Nat) (b : Nat) : List Nat := (List.range 32).map fun i => xs.getD (32 * b + i) 0

/-- One BF16 product rounded on its own (R145). One that rounds to ±∞ sets OF as a sum does, which R136 leaves open (log entry 59). -/
def productBf (x y : Nat) : FRes :=
  let a := bOf x
  let b := bOf y
  if a.isNaN || b.isNaN then ⟨BitVec.ofNat 32 f32.nanBits, fNone⟩
  else let r := toF32 (a.mul b); ⟨r.bits, arrayFlags r.flags⟩

/-- One L6 product times both scales, rounded on its own (R145). -/
def productL6 (x y sa sb : Nat) : FRes := blockSumL6 [x] [y] sa sb

/-- The addends of one element of a product, in ascending K: block sums (R144), or products in W2 decode mode (R145). `sc` gives
the plane's scale of a block. -/
def addends (w2 l6 : Bool) (depth : Nat) (row scales col : List Nat) (sc : Nat → Nat) : List FRes :=
  (List.range (depth / 32)).flatMap fun b =>
    let a := block32 row b
    let c := block32 col b
    let sa := scales.getD b 127
    if w2 then (a.zip c).map fun (x, y) => if l6 then productL6 x y sa (sc b) else productBf x y
    else if l6 then [blockSumL6 a c sa (sc b)]
    else [blockSumBf a c]

/-- Adds addends to a sum (R144). -/
def accumulate (s : Word) (vs : List FRes) : Word × FFlags :=
  vs.foldl (fun (acc : Word × FFlags) v => let r := accAdd acc.1 v.bits; (r.bits, acc.2 ||| v.flags ||| r.flags)) (s, fNone)

/-- Adds addends to a sum and its compensation (R147). -/
def accumulateComp (s c : Word) (vs : List FRes) : Word × Word × FFlags :=
  vs.foldl (fun (acc : Word × Word × FFlags) v =>
    let r := compensate acc.1 acc.2.1 v.bits
    (r.1, r.2.1, acc.2.2 ||| v.flags ||| r.2.2)) (s, c, fNone)

/-- The physical scale block of a dense K-block: with N kept values in each group of 64, physical block 32 values long (R187). -/
def scaleBlock (width b : Nat) : Nat := if width = 0 then b else b / 2 * width / 32

/-- The dense K depth of a plane (R185, R187). -/
def planeDepth (l6 : Bool) (width : Nat) : Nat :=
  let k := if l6 then 128 else 64
  if width = 0 then k else k * (64 / width)

/-- An MMA's effect on accumulator ad, and on ad + 1 when compensated (R144 to R147, R347), row by row: rows at and beyond the
row count are untouched. -/
def mmaApply (w2 l6 zero comp : Bool) (width : Nat) (cols scales : List (List Nat)) (rows rowScales : List (List Nat))
    (s c : List Word) : List Word × List Word × FFlags :=
  let depth := planeDepth l6 width
  let cell (j n : Nat) : Word × Word × FFlags :=
    let vs := addends w2 l6 depth (rows.getD j []) (rowScales.getD j []) (cols.getD n []) fun b =>
      (scales.getD (scaleBlock width b) []).getD n 127
    let s0 := if zero then 0#32 else accAt s j n
    if comp then accumulateComp s0 (if zero then 0#32 else accAt c j n) vs
    else let r := accumulate s0 vs; (r.1, accAt c j n, r.2)
  let done := (List.range (64 * rows.length)).map fun i => cell (i / 64) (i % 64)
  (done.map (·.1) ++ s.drop done.length, if comp then done.map (·.2.1) ++ c.drop done.length else c,
   done.foldl (fun f r => f ||| r.2.2) fNone)

/-! ## Resident iteration (R195 to R197) -/

/-- A product of an accumulator's first m rows and a plane, zero-initialised (R195): rows at and beyond m are those given. -/
def iterProduct (m : Nat) (rows cols : List (List Nat)) (old : List Word) : List Word × FFlags :=
  let r := mmaApply false false true false 0 cols [] (rows.take m) [] old []
  (r.1, r.2.2)

/-- The flags that the array keeps of an operation on two words (R136). -/
def iterFlags (a b : Word) (r : FRes) : FFlags :=
  (r.flags &&& fOF) ||| fWhen ((fOf r.bits).isNaN && !(fOf a).isNaN && !(fOf b).isNaN) fNV

/-- A rounded product in the array. -/
def iterMul (a b : Word) : FRes := let r := fMul a b; ⟨r.bits, iterFlags a b r⟩
/-- A rounded sum in the array. -/
def iterAdd (a b : Word) : FRes := let r := fAdd a b; ⟨r.bits, iterFlags a b r⟩

/-- The combination of one element (R196): Σ COEF[i] × term i, rounded at each step. -/
def combine (coefs terms : List Word) : FRes :=
  match coefs.zip terms with
  | [] => ⟨0#32, fNone⟩
  | p :: ps => ps.foldl (fun acc q =>
      let x := iterMul q.1 q.2
      let y := iterAdd acc.bits x.bits
      ⟨y.bits, acc.flags ||| x.flags ||| y.flags⟩) (iterMul p.1 p.2)

/-- Adds pairs of a list (R197). -/
def pairSums : List FRes → List FRes
  | x :: y :: rest => let r := iterAdd x.bits y.bits; ⟨r.bits, x.flags ||| y.flags ||| r.flags⟩ :: pairSums rest
  | xs => xs

/-- The pairwise tree over 64 values (R197). -/
def rowTree (xs : List FRes) : FRes :=
  (pairSums (pairSums (pairSums (pairSums (pairSums (pairSums xs)))))).headD ⟨0#32, fNone⟩

/-- The residual of a step over m rows (R197). -/
def residual (m : Nat) (new old : List Word) : FRes :=
  (List.range m).foldl (fun acc j =>
    let row := rowTree ((List.range 64).map fun n =>
      let d := iterAdd (accAt new j n) (accAt old j n ^^^ 0x80000000#32)
      let e := iterMul d.bits d.bits
      ⟨e.bits, d.flags ||| e.flags⟩)
    let r := iterAdd acc.bits row.bits
    ⟨r.bits, acc.flags ||| row.flags ||| r.flags⟩) ⟨0#32, fNone⟩

/-- Whether FP32 bits are finite. -/
def isFinite (w : Word) : Bool := w.toNat / 2 ^ 23 % 256 != 255

/-- What a step of an iteration computes: X after it, the workspace products, r, and the flags it delivers. -/
structure IterOut where
  x : List Word
  w : List Word
  p : List Word
  r : Word
  flags : FFlags

/-- One step of NS3, NS5 or INV (Table 6.2, R196, R197): form, coefficients, row count, X, A, and the old workspace. -/
def iterStep (form : Nat) (coefs : List Word) (m : Nat) (x a w0 p0 : List Word) : IterOut :=
  let xr := feedbackRows x false m
  let (w, f1) := if form = 2 then iterProduct m xr (columnsOf (feedbackRows a false 64)) w0
                 else iterProduct m xr (columnsOf (feedbackRows x true m)) w0
  let (p, f2) := iterProduct m (feedbackRows w false m) (columnsOf xr) p0
  let (q, f3) := if form = 1 then iterProduct m (feedbackRows w false m) (columnsOf (feedbackRows p false m)) [] else ([], fNone)
  let cell (j n : Nat) : FRes :=
    combine (coefs.take (if form = 1 then 3 else 2)) ([accAt x j n, accAt p j n] ++ if form = 1 then [accAt q j n] else [])
  let cells := (List.range (64 * m)).map fun i => cell (i / 64) (i % 64)
  let x' := cells.map (·.bits) ++ x.drop (64 * m)
  let r := residual m x' x
  ⟨x', w, p, r.bits, f1 ||| f2 ||| f3 ||| cells.foldl (fun f c => f ||| c.flags) fNone ||| r.flags⟩

/-- One Horner step of MPOLY (Table 6.2, R196): P := Y·X, and Y := P + c·I. -/
def hornerStep (c : Word) (x y p0 : List Word) : IterOut :=
  let (p, f) := iterProduct 64 (feedbackRows y false 64) (columnsOf (feedbackRows x false 64)) p0
  let d (j : Nat) : FRes := iterAdd (accAt p j j) c
  ⟨accOf fun j n => if j = n then (d j).bits else accAt p j n, p, p, 0#32,
   f ||| (List.range 64).foldl (fun g j => g ||| (d j).flags) fNone⟩

/-- The first Y of MPOLY: a multiple of the identity. -/
def diagonal (c : Word) : List Word := accOf fun j n => if j = n then c else 0#32

/-! ## What leaves the array (R354, R355) -/

/-- An element that MDRAIN pushes, with its flags (R354): summed, rounded to BF16, or as it stands. -/
def drainElement (sum bf : Bool) (s c : Word) : FRes :=
  let v : FRes := if sum then accAdd s c else ⟨s, fNone⟩
  ⟨if bf then BitVec.ofNat 32 (drainBf v.bits) else v.bits, v.flags⟩

/-! ## Sparse planes (R187) -/

/-- The dense values of one group of 64 positions from its mask and kept values, and the kept values after it. -/
def sparseGroup (mask : Nat) (width : Nat) : Nat → Nat → List Nat → List Nat
  | _, 0, _ => []
  | used, left + 1, kept =>
    let k := 64 - (left + 1)
    if mask / 2 ^ k % 2 = 1 ∧ used < width then kept.headD 0 :: sparseGroup mask width (used + 1) left (kept.drop 1)
    else 0 :: sparseGroup mask width used left kept

/-- A column's dense values from its kept values, group after group of `width`, and its masks. -/
def sparseColumn (width : Nat) (kept masks : List Nat) : List Nat :=
  masks.zipIdx.flatMap fun p => sparseGroup p.1 width 0 64 ((kept.drop (width * p.2)).take width)

end Sys2Proof.Machine
end

