-- ==== Sys2Proof/Syntax.lean ====
section
/-! DEFINITION. The instructions, host commands and events of the Zaben W3: one constructor for each row of the opcode table. -/

namespace Sys2Proof

/-- A 7-bit scalar register field of an instruction word; R232 says what a code names. -/
abbrev XField := BitVec 7
/-- A 5-bit vector register field. -/
abbrev VReg := BitVec 5
/-- A 3-bit mask register field. -/
abbrev KReg := BitVec 3
/-- A 6-bit layout entry or channel field. -/
abbrev LEntry := BitVec 6

/-- The operation of an AMO (R242). -/
inductive AmoOp where
  | swap | add | and | or | xor | min | max | minn | maxn | cas | fadd
  deriving DecidableEq, Repr

/-- The o field of LD and ST (Table 8.6). -/
inductive MemOrd where
  | rlx | ord | ordw | nt
  deriving DecidableEq, Repr

/-- The scope of a fence or of a layout entry (Table 3.2): tile, gang, grid, device, system. -/
inductive Scope where
  | tile | gang | grid | device | system
  deriving DecidableEq, Repr

/-- The number of words of a message (Table 8.6): 1, 2, 4 or 8. -/
inductive MsgSize where
  | w1 | w2 | w4 | w8
  deriving DecidableEq, Repr

/-- The element width of a VINT instruction (R244). -/
inductive VWidth where
  | b32 | b16 | b8
  deriving DecidableEq, Repr

/-- The element width of a VFLT instruction (R244). -/
inductive FWidth where
  | f32 | bf16
  deriving DecidableEq, Repr

/-- The result a predicate comparison forms (Table 8.4, conditions 0 to 7). -/
inductive Cond where
  | eq | ne | lt | ge | ltn | gen | anyBit | noBit
  deriving DecidableEq, Repr

/-- The comparison of a VCMP (Table 8.8). -/
inductive VCond where
  | eq | ne | lt | ge | ltn | gen | feq | flt
  deriving DecidableEq, Repr

/-- The decode mode of a thread context (R250). -/
inductive DMode where
  | w3 | w2 | w1
  deriving DecidableEq, Repr

/-- A tile named by its launch and its virtual tile number (R13, R435): partition, launch slot, tile number. -/
structure TileId where
  part : Nat
  slot : Nat
  num : Nat
  deriving DecidableEq, Repr

/-- A thread slot of a tile: its THRID, 64 for each of 8 cores (R24, R25). -/
structure ThreadId where
  tile : TileId
  thr : Nat
  deriving DecidableEq, Repr

/-- What one access meets (R81, R476): nothing, a corrected bit, an uncorrectable word, or a host that refuses it or completes it with
an error. -/
inductive Ecc where
  | clean | corrected | bad | refused
  deriving DecidableEq, Repr

/-- The uncorrectable error that a restore meets in an image (R456): none, a word of a register, of the scratchpad, of a vector register or
of an accumulator of one of the gang's tiles, or one in another section. -/
inductive ImageFault where
  | clean
  | register (tile thr reg : Nat)
  | scratch (tile word : Nat)
  | vector (tile ctx reg slot : Nat)
  | accumulator (tile acc elem : Nat)
  | other (tile : Nat)
  deriving DecidableEq, Repr

/-- An error in protected storage that has struck and that no agent has met yet (R455, R456, R476; log entry 37): in the words of a RECV,
uncorrectable or not; in elements of a plane that is reloaded; in the image of a gang; or at the image location that a tile's next save
writes. -/
inductive SoftError where
  | result (tile : TileId) (core entry : Nat) (bad : Bool)
  | plane (tile : TileId) (elems : List Nat)
  | image (part slot gang : Nat) (err : ImageFault)
  | location (tile : TileId)
  deriving DecidableEq, Repr

/-- A 64-byte host command as the dispatcher takes it from a queue (R432, R433). -/
structure HostCmd where
  queue : Nat
  words : List Word
  deriving DecidableEq, Repr

/-- A register without behaviour of its own, as REGISTER_WRITE names it: of a function (port, function), a queue, the module, a
partition or a berth (Tables 22.2 to 22.4, 23.3, 26.1, 26.2). -/
inductive RegName where
  | intstat (port func : Nat)
  | intmask (port func : Nat)
  | qmap (port group : Nat)
  | base (queue : Nat)
  | qctl (queue : Nat)
  | qstat (queue : Nat)
  | ttripset
  | itripset
  | triplim
  | phasetbl (n : Nat)
  | towkey (n : Nat)
  | towdom
  | modid
  | cwsel
  | pctl (part : Nat)
  | prank (part : Nat)
  | pfloor (part : Nat)
  | capt (part n : Nat)
  | ckctl (part : Nat)
  | ckslot (part n : Nat)
  | pqjob (part : Nat)
  | pqid (part : Nat)
  | ckrgn (part n : Nat)
  | bstat (berth : Nat)
  | moored (berth : Nat)
  | fwdr (berth : Nat)
  | savebase (berth : Nat)
  | ckpts (berth : Nat)
  | niinv (berth : Nat)
  | numvfs (port : Nat)
  | bar0 (port func off : Nat)
  | berthReg (berth off : Nat)
  deriving DecidableEq, Repr

/-- One instruction, host command or event: one constructor for each row of spec/opcode_table.json, in its order. -/
inductive Instr where
  /-- R257: Adds two registers modulo 2^32, and transforms or combines pending operands. -/
  | add (s : BitVec 2) (d : XField) (a : XField) (b : XField)
  /-- R257: Subtracts two registers modulo 2^32, and transforms or combines pending operands. -/
  | sub (s : BitVec 2) (d : XField) (a : XField) (b : XField)
  /-- R257: Bitwise AND of two registers. -/
  | and (s : BitVec 2) (d : XField) (a : XField) (b : XField)
  /-- R257: Bitwise OR of two registers. -/
  | or (s : BitVec 2) (d : XField) (a : XField) (b : XField)
  /-- R257: Bitwise XOR of two registers. -/
  | xor (s : BitVec 2) (d : XField) (a : XField) (b : XField)
  /-- R257: AND of A with NOT B. -/
  | andn (s : BitVec 2) (d : XField) (a : XField) (b : XField)
  /-- R257: Sets 1 when A is less than B, compared signed. -/
  | slt (s : BitVec 2) (d : XField) (a : XField) (b : XField)
  /-- R257: Sets 1 when A is less than B, compared unsigned. -/
  | sltn (s : BitVec 2) (d : XField) (a : XField) (b : XField)
  /-- R257: Shifts A left by B[4:0]. -/
  | sll (s : BitVec 2) (d : XField) (a : XField) (b : XField)
  /-- R257: Shifts A right logically by B[4:0]. -/
  | srl (s : BitVec 2) (d : XField) (a : XField) (b : XField)
  /-- R257: Shifts A right arithmetically by B[4:0]. -/
  | sra (s : BitVec 2) (d : XField) (a : XField) (b : XField)
  /-- R257: Lesser of A and B, compared signed. -/
  | min (s : BitVec 2) (d : XField) (a : XField) (b : XField)
  /-- R257: Greater of A and B, compared signed. -/
  | max (s : BitVec 2) (d : XField) (a : XField) (b : XField)
  /-- R257: Lesser of A and B, compared unsigned. -/
  | minn (s : BitVec 2) (d : XField) (a : XField) (b : XField)
  /-- R257: Greater of A and B, compared unsigned. -/
  | maxn (s : BitVec 2) (d : XField) (a : XField) (b : XField)
  /-- R257: Rotates A right by B[4:0]. -/
  | rotr (s : BitVec 2) (d : XField) (a : XField) (b : XField)
  /-- R258: Low 32 bits of A times B; transforms a pending operand. -/
  | mul (s : BitVec 2) (d : XField) (a : XField) (b : XField)
  /-- R258: High 32 bits of the signed 64-bit product. -/
  | mulh (s : BitVec 2) (d : XField) (a : XField) (b : XField)
  /-- R258: High 32 bits of the unsigned 64-bit product. -/
  | mulhn (s : BitVec 2) (d : XField) (a : XField) (b : XField)
  /-- R258: Adds A times B into X[d]. -/
  | mac (s : BitVec 2) (d : XField) (a : XField) (b : XField)
  /-- R258: Signed quotient truncated toward zero, with defined results for divide by zero and overflow. -/
  | div (s : BitVec 2) (d : XField) (a : XField) (b : XField)
  /-- R258: Unsigned quotient. -/
  | divn (s : BitVec 2) (d : XField) (a : XField) (b : XField)
  /-- R258: Signed remainder with the sign of the dividend. -/
  | rem (s : BitVec 2) (d : XField) (a : XField) (b : XField)
  /-- R258: Unsigned remainder. -/
  | remn (s : BitVec 2) (d : XField) (a : XField) (b : XField)
  /-- R259: Counts leading zero bits of A. -/
  | clz (s : BitVec 2) (d : XField) (a : XField)
  /-- R259: Counts trailing zero bits of A. -/
  | ctz (s : BitVec 2) (d : XField) (a : XField)
  /-- R259: Counts one bits of A. -/
  | popc (s : BitVec 2) (d : XField) (a : XField)
  /-- R259: Reverses the bits of A. -/
  | brev (s : BitVec 2) (d : XField) (a : XField)
  /-- R259: Extracts a bit field of A described by B, optionally sign-extended. -/
  | extr (s : BitVec 2) (d : XField) (a : XField) (b : XField)
  /-- R259: Inserts the low bits of A into a field of X[d]. -/
  | ins (s : BitVec 2) (d : XField) (a : XField) (b : XField)
  /-- R259: Reverses the bytes of A. -/
  | bswap (s : BitVec 2) (d : XField) (a : XField)
  /-- R260: Adds a sign-extended immediate; transforms a pending operand. -/
  | addi (s : BitVec 2) (d : XField) (a : XField) (i : BitVec 10)
  /-- R260: AND with a sign-extended immediate. -/
  | andi (s : BitVec 2) (d : XField) (a : XField) (i : BitVec 10)
  /-- R260: OR with a zero-extended immediate. -/
  | ori (s : BitVec 2) (d : XField) (a : XField) (i : BitVec 10)
  /-- R260: XOR with a sign-extended immediate. -/
  | xori (s : BitVec 2) (d : XField) (a : XField) (i : BitVec 10)
  /-- R260: Shifts left by an immediate amount; transforms a pending operand. -/
  | slli (s : BitVec 2) (d : XField) (a : XField) (k : BitVec 5)
  /-- R260: Shifts right logically by an immediate amount. -/
  | srli (s : BitVec 2) (d : XField) (a : XField) (k : BitVec 5)
  /-- R260: Shifts right arithmetically by an immediate amount. -/
  | srai (s : BitVec 2) (d : XField) (a : XField) (k : BitVec 5)
  /-- R260: Rotates right by an immediate amount. -/
  | rotri (s : BitVec 2) (d : XField) (a : XField) (k : BitVec 5)
  /-- R260: Signed compare with an immediate. -/
  | slti (s : BitVec 2) (d : XField) (a : XField) (i : BitVec 10)
  /-- R260: Unsigned compare with a sign-extended immediate. -/
  | sltni (s : BitVec 2) (d : XField) (a : XField) (i : BitVec 10)
  /-- R261: Loads a sign-extended 17-bit immediate into X[d]. -/
  | li (s : BitVec 2) (d : XField) (i : BitVec 17)
  /-- R263: Selects A or B by a predicate. -/
  | sel (s : BitVec 2) (d : XField) (a : XField) (b : XField) (p : BitVec 3)
  /-- R262: Writes a predicate from a register compare, optionally ANDed. -/
  | pcmp (s : BitVec 2) (g : Bool) (c : Cond) (p : BitVec 3) (a : XField) (b : XField)
  /-- R262: Writes a predicate from a compare with an immediate. -/
  | pcmpi (s : BitVec 2) (g : Bool) (c : Cond) (p : BitVec 3) (a : XField) (i : BitVec 10)
  /-- R264: Branches when A equals B. -/
  | beq (s : BitVec 2) (a : XField) (b : XField) (o : BitVec 10)
  /-- R264: Branches when A differs from B. -/
  | bne (s : BitVec 2) (a : XField) (b : XField) (o : BitVec 10)
  /-- R264: Branches when A is less than B, signed. -/
  | blt (s : BitVec 2) (a : XField) (b : XField) (o : BitVec 10)
  /-- R264: Branches when A is at least B, signed. -/
  | bge (s : BitVec 2) (a : XField) (b : XField) (o : BitVec 10)
  /-- R264: Branches when A is less than B, unsigned. -/
  | bltn (s : BitVec 2) (a : XField) (b : XField) (o : BitVec 10)
  /-- R264: Branches when A is at least B, unsigned. -/
  | bgen (s : BitVec 2) (a : XField) (b : XField) (o : BitVec 10)
  /-- R265: Branches when a predicate equals the sense bit. -/
  | bp (s : BitVec 2) (p : BitVec 3) (n : Bool) (o : BitVec 20)
  /-- R266: Writes the return address to x2 and jumps by a 24-bit word offset. -/
  | jal (s : BitVec 2) (o : BitVec 24)
  /-- R267: Jumps to A plus an immediate and writes the return address to X[d]. -/
  | jalr (s : BitVec 2) (d : XField) (a : XField) (i : BitVec 10)
  /-- R269: Pushes a counted loop level over a body ending off10 words ahead, or skips the body for a zero count. -/
  | loop (s : BitVec 2) (a : XField) (b : XField) (o : BitVec 10)
  /-- R272: FP32 addition rounded once; transforms or combines pending operands. -/
  | fadd (s : BitVec 2) (d : XField) (a : XField) (b : XField)
  /-- R272: FP32 subtraction rounded once; transforms or combines pending operands. -/
  | fsub (s : BitVec 2) (d : XField) (a : XField) (b : XField)
  /-- R272: FP32 multiplication rounded once; transforms a pending operand. -/
  | fmul (s : BitVec 2) (d : XField) (a : XField) (b : XField)
  /-- R272: FP32 minimum by the NaN rules of R131. -/
  | fmin (s : BitVec 2) (d : XField) (a : XField) (b : XField)
  /-- R272: FP32 maximum by the NaN rules of R131. -/
  | fmax (s : BitVec 2) (d : XField) (a : XField) (b : XField)
  /-- R272: FP32 division rounded once, gap 2. -/
  | fdiv (s : BitVec 2) (d : XField) (a : XField) (b : XField)
  /-- R272: FP32 square root rounded once, gap 2. -/
  | fsqrt (s : BitVec 2) (d : XField) (a : XField)
  /-- R272: Takes the sign of B and the other bits of A. -/
  | fsgn (s : BitVec 2) (d : XField) (a : XField) (b : XField)
  /-- R273: Fused multiply-add with X[d] as addend, rounded once. -/
  | ffma (s : BitVec 2) (d : XField) (a : XField) (b : XField)
  /-- R273: Fused multiply-subtract of X[d], rounded once. -/
  | ffms (s : BitVec 2) (d : XField) (a : XField) (b : XField)
  /-- R273: Converts a signed integer to FP32. -/
  | fcvtfi (s : BitVec 2) (d : XField) (a : XField)
  /-- R273: Converts FP32 to a signed integer by RNE, saturating. -/
  | fcvtif (s : BitVec 2) (d : XField) (a : XField)
  /-- R273: Converts FP32 to a signed integer toward zero, saturating. -/
  | fcvtifz (s : BitVec 2) (d : XField) (a : XField)
  /-- R273: Writes a one-hot class word of A. -/
  | fclass (s : BitVec 2) (d : XField) (a : XField)
  /-- R273: Rounds FP32 to BF16 in the low half. -/
  | fbf (s : BitVec 2) (d : XField) (a : XField)
  /-- R273: Widens BF16 to FP32 without change of bits. -/
  | fbfx (s : BitVec 2) (d : XField) (a : XField)
  /-- R274: Writes 1 when A equals B as FP32. -/
  | feq (s : BitVec 2) (d : XField) (a : XField) (b : XField)
  /-- R274: Writes 1 when A is less than B as FP32. -/
  | flt (s : BitVec 2) (d : XField) (a : XField) (b : XField)
  /-- R274: Writes 1 when A is at most B as FP32. -/
  | fle (s : BitVec 2) (d : XField) (a : XField) (b : XField)
  /-- R274: Writes 1 when either operand is a NaN. -/
  | funord (s : BitVec 2) (d : XField) (a : XField) (b : XField)
  /-- R275: Posts an exp2 request to the special-function unit and makes xd pending. -/
  | sfunExp2 (s : BitVec 2) (d : XField) (a : XField)
  /-- R275: Posts a log2 request to the special-function unit. -/
  | sfunLog2 (s : BitVec 2) (d : XField) (a : XField)
  /-- R275: Posts a reciprocal request to the special-function unit. -/
  | sfunRcp (s : BitVec 2) (d : XField) (a : XField)
  /-- R275: Posts a reciprocal square root request to the special-function unit. -/
  | sfunRsqrt (s : BitVec 2) (d : XField) (a : XField)
  /-- R275: Posts a sin(pi x) request to the special-function unit. -/
  | sfunSinpi (s : BitVec 2) (d : XField) (a : XField)
  /-- R275: Posts a cos(pi x) request to the special-function unit. -/
  | sfunCospi (s : BitVec 2) (d : XField) (a : XField)
  /-- R275: Posts a tanh request to the special-function unit. -/
  | sfunTanh (s : BitVec 2) (d : XField) (a : XField)
  /-- R275: Posts a sigmoid request to the special-function unit. -/
  | sfunSigmoid (s : BitVec 2) (d : XField) (a : XField)
  /-- R248: Copies X[a] to X[d] and begins translation of a rim page into the uTLB. -/
  | pref (s : BitVec 2) (d : XField) (a : XField) (b : XField)
  /-- R248: Copies X[a] to X[d] and records the gang's preferred column class. -/
  | tclass (s : BitVec 2) (d : XField) (a : XField) (b : XField)
  /-- R248: Copies X[a] to X[d] and begins fetch of the code line at X[b]. -/
  | brhint (s : BitVec 2) (d : XField) (a : XField) (b : XField)
  /-- R247: An unassigned hint word copies the whole state of X[a] to X[d] and never traps. -/
  | hintFallback (s : BitVec 2) (d : XField) (a : XField) (b : XField) (f : BitVec 3) (hi : Bool)
  /-- R281: Loads one element through a layout entry into a pending register, with ordering, widening and migration options. -/
  | ld (s : BitVec 2) (d : XField) (c : XField) (l : LEntry) (m : Bool) (z : Bool) (o : MemOrd)
  /-- R285: Stores the low bits of X[d] to one element through a layout entry. -/
  | st (s : BitVec 2) (d : XField) (c : XField) (l : LEntry) (o : MemOrd)
  /-- R286: Relaxed atomic read-modify-write selected by op, returning the old value pending. -/
  | amoRlx (s : BitVec 2) (d : XField) (c : XField) (l : LEntry) (op : AmoOp)
  /-- R286: Acquire atomic read-modify-write selected by op. -/
  | amoAcq (s : BitVec 2) (d : XField) (c : XField) (l : LEntry) (op : AmoOp)
  /-- R286: Release atomic read-modify-write selected by op. -/
  | amoRel (s : BitVec 2) (d : XField) (c : XField) (l : LEntry) (op : AmoOp)
  /-- R286: Acquire-release atomic read-modify-write selected by op. -/
  | amoAr (s : BitVec 2) (d : XField) (c : XField) (l : LEntry) (op : AmoOp)
  /-- R290: Full fence at a scope, parking the thread until it completes. -/
  | fenceFull (s : BitVec 2) (q : Scope)
  /-- R290: Acquire-only fence at a scope. -/
  | fenceAcq (s : BitVec 2) (q : Scope)
  /-- R290: Release-only fence at a scope, with probes to touched bank groups. -/
  | fenceRel (s : BitVec 2) (q : Scope)
  /-- R290: Full fence that also ends combining-buffer forwarding for virtual aliases. -/
  | fenceAlias (s : BitVec 2) (q : Scope)
  /-- R292: Enqueues a message of 1 to 8 words to a channel of a tile in the core's outbound queue. -/
  | send (s : BitVec 2) (d : XField) (c : XField) (l : LEntry) (w : MsgSize)
  /-- R292: Completes a grid-scope release and then enqueues a message. -/
  | sendRel (s : BitVec 2) (d : XField) (c : XField) (l : LEntry) (w : MsgSize)
  /-- R294: Posts a receive on a channel and makes its destination registers pending. -/
  | recv (s : BitVec 2) (d : XField) (l : LEntry) (w : MsgSize)
  /-- R294: Posts an acquiring receive on a channel. -/
  | recvAcq (s : BitVec 2) (d : XField) (l : LEntry) (w : MsgSize)
  /-- R296: Releases and then enters a box copy into a copy queue, returning a pending token. -/
  | cpy (s : BitVec 2) (d : XField) (c : XField)
  /-- R299: Binds a stream register to a read pattern over a layout entry and registers its range. -/
  | sbindR (s : BitVec 2) (m : BitVec 3) (c : XField) (l : LEntry)
  /-- R299: Binds a stream register to a write pattern over a layout entry. -/
  | sbindW (s : BitVec 2) (m : BitVec 3) (c : XField) (l : LEntry)
  /-- R301: Ends a stream binding, draining writes and releasing the registration. -/
  | sctlUnbind (s : BitVec 2) (m : BitVec 3)
  /-- R301: Returns the position of a stream. -/
  | sctlPos (s : BitVec 2) (d : XField) (m : BitVec 3)
  /-- R302: Arrives at the core barrier after a tile-scope full fence and parks until the count is reached. -/
  | barCore (s : BitVec 2) (a : XField)
  /-- R302: Arrives at the tile barrier after a tile-scope full fence and parks. -/
  | barTile (s : BitVec 2) (a : XField)
  /-- R303: Records a tile's grid-barrier arrival after a grid-scope full fence and parks until the generation completes. -/
  | barGrid (s : BitVec 2)
  /-- R278: Computes the owning tile and local element index of a coordinate without accessing memory. -/
  | gaddr (s : BitVec 2) (d : XField) (c : XField) (l : LEntry)
  /-- R236: A word that fails decode, including majors 0x00, 0x2F and MCODE in W3.0, traps ILLEGAL. -/
  | illegal (w : Word)
  /-- R307: Takes the lowest free vector context, clears it and returns the granted slots G. -/
  | vclaim (s : BitVec 2) (d : XField) (a : XField)
  /-- R309: Waits for the claim's queue to empty and ends the claim. -/
  | vyield (s : BitVec 2)
  /-- R308: Renegotiates weight, lane groups and vector length of the claim. -/
  | vreneg (s : BitVec 2) (d : XField) (a : XField)
  /-- R316: Pushes an element-wise integer addition. -/
  | vadd (s : BitVec 2) (d : VReg) (a : VReg) (b : VReg) (w : VWidth) (k : KReg)
  /-- R316: Pushes an element-wise integer subtraction. -/
  | vsub (s : BitVec 2) (d : VReg) (a : VReg) (b : VReg) (w : VWidth) (k : KReg)
  /-- R316: Pushes an element-wise low-half multiplication. -/
  | vmul (s : BitVec 2) (d : VReg) (a : VReg) (b : VReg) (w : VWidth) (k : KReg)
  /-- R316: Pushes an element-wise signed high-half multiplication. -/
  | vmulh (s : BitVec 2) (d : VReg) (a : VReg) (b : VReg) (w : VWidth) (k : KReg)
  /-- R316: Pushes an element-wise AND. -/
  | vand (s : BitVec 2) (d : VReg) (a : VReg) (b : VReg) (w : VWidth) (k : KReg)
  /-- R316: Pushes an element-wise OR. -/
  | vor (s : BitVec 2) (d : VReg) (a : VReg) (b : VReg) (w : VWidth) (k : KReg)
  /-- R316: Pushes an element-wise XOR. -/
  | vxor (s : BitVec 2) (d : VReg) (a : VReg) (b : VReg) (w : VWidth) (k : KReg)
  /-- R316: Pushes an element-wise left shift. -/
  | vsll (s : BitVec 2) (d : VReg) (a : VReg) (b : VReg) (w : VWidth) (k : KReg)
  /-- R316: Pushes an element-wise logical right shift. -/
  | vsrl (s : BitVec 2) (d : VReg) (a : VReg) (b : VReg) (w : VWidth) (k : KReg)
  /-- R316: Pushes an element-wise arithmetic right shift. -/
  | vsra (s : BitVec 2) (d : VReg) (a : VReg) (b : VReg) (w : VWidth) (k : KReg)
  /-- R316: Pushes an element-wise signed minimum. -/
  | vmin (s : BitVec 2) (d : VReg) (a : VReg) (b : VReg) (w : VWidth) (k : KReg)
  /-- R316: Pushes an element-wise signed maximum. -/
  | vmax (s : BitVec 2) (d : VReg) (a : VReg) (b : VReg) (w : VWidth) (k : KReg)
  /-- R316: Pushes an element-wise unsigned minimum. -/
  | vminn (s : BitVec 2) (d : VReg) (a : VReg) (b : VReg) (w : VWidth) (k : KReg)
  /-- R316: Pushes an element-wise unsigned maximum. -/
  | vmaxn (s : BitVec 2) (d : VReg) (a : VReg) (b : VReg) (w : VWidth) (k : KReg)
  /-- R316: Pushes an element-wise saturating signed addition. -/
  | vadds (s : BitVec 2) (d : VReg) (a : VReg) (b : VReg) (w : VWidth) (k : KReg)
  /-- R316: Pushes an element-wise saturating signed subtraction. -/
  | vsubs (s : BitVec 2) (d : VReg) (a : VReg) (b : VReg) (w : VWidth) (k : KReg)
  /-- R317: Pushes an element-wise FP addition. -/
  | vfadd (s : BitVec 2) (d : VReg) (a : VReg) (b : VReg) (w : FWidth) (k : KReg)
  /-- R317: Pushes an element-wise FP subtraction. -/
  | vfsub (s : BitVec 2) (d : VReg) (a : VReg) (b : VReg) (w : FWidth) (k : KReg)
  /-- R317: Pushes an element-wise FP multiplication. -/
  | vfmul (s : BitVec 2) (d : VReg) (a : VReg) (b : VReg) (w : FWidth) (k : KReg)
  /-- R317: Pushes an element-wise fused multiply-add into vd. -/
  | vffma (s : BitVec 2) (d : VReg) (a : VReg) (b : VReg) (w : FWidth) (k : KReg)
  /-- R317: Pushes an element-wise fused multiply-subtract of vd. -/
  | vffms (s : BitVec 2) (d : VReg) (a : VReg) (b : VReg) (w : FWidth) (k : KReg)
  /-- R317: Pushes an element-wise FP minimum. -/
  | vfmin (s : BitVec 2) (d : VReg) (a : VReg) (b : VReg) (w : FWidth) (k : KReg)
  /-- R317: Pushes an element-wise FP maximum. -/
  | vfmax (s : BitVec 2) (d : VReg) (a : VReg) (b : VReg) (w : FWidth) (k : KReg)
  /-- R317: Pushes an element-wise FP division. -/
  | vfdiv (s : BitVec 2) (d : VReg) (a : VReg) (b : VReg) (w : FWidth) (k : KReg)
  /-- R317: Pushes an element-wise FP square root. -/
  | vfsqrt (s : BitVec 2) (d : VReg) (a : VReg) (w : FWidth) (k : KReg)
  /-- R317: Pushes an element-wise clear of the sign bit. -/
  | vfabs (s : BitVec 2) (d : VReg) (a : VReg) (w : FWidth) (k : KReg)
  /-- R317: Pushes an element-wise inversion of the sign bit. -/
  | vfneg (s : BitVec 2) (d : VReg) (a : VReg) (w : FWidth) (k : KReg)
  /-- R317: Pushes an element-wise correctly rounded exp2. -/
  | vfexp2 (s : BitVec 2) (d : VReg) (a : VReg) (w : FWidth) (k : KReg)
  /-- R317: Pushes an element-wise correctly rounded log2. -/
  | vflog2 (s : BitVec 2) (d : VReg) (a : VReg) (w : FWidth) (k : KReg)
  /-- R317: Pushes an element-wise correctly rounded reciprocal. -/
  | vfrcp (s : BitVec 2) (d : VReg) (a : VReg) (w : FWidth) (k : KReg)
  /-- R317: Pushes an element-wise correctly rounded reciprocal square root. -/
  | vfrsqrt (s : BitVec 2) (d : VReg) (a : VReg) (w : FWidth) (k : KReg)
  /-- R318: Pushes a write of X[b] to every active slot of vd. -/
  | vsplat (s : BitVec 2) (d : VReg) (b : XField) (k : KReg)
  /-- R318: Waits for the claim's queue and writes one slot of va to X[b]. -/
  | vextr (s : BitVec 2) (i : BitVec 5) (a : VReg) (b : XField) (j : BitVec 3)
  /-- R318: Pushes a write of X[b] to one slot of vd. -/
  | vins (s : BitVec 2) (d : VReg) (i : BitVec 5) (b : XField) (j : BitVec 3)
  /-- R319: Computes owner tile and element index per active slot. -/
  | vgaddr (s : BitVec 2) (d : VReg) (a : VReg) (b : XField) (k : KReg)
  /-- R320: Pushes a packed contiguous vector load. -/
  | vld (s : BitVec 2) (d : VReg) (l : LEntry) (c : XField) (k : KReg)
  /-- R320: Pushes a packed contiguous vector store. -/
  | vst (s : BitVec 2) (d : VReg) (l : LEntry) (c : XField) (k : KReg)
  /-- R320: Pushes a strided single-element vector load. -/
  | vlds (s : BitVec 2) (d : VReg) (l : LEntry) (c : XField) (k : KReg)
  /-- R320: Pushes a strided single-element vector store. -/
  | vsts (s : BitVec 2) (d : VReg) (l : LEntry) (c : XField) (k : KReg)
  /-- R320: Pushes an indexed gather. -/
  | vgath (s : BitVec 2) (d : VReg) (l : LEntry) (c : XField) (k : KReg)
  /-- R320: Pushes an indexed scatter. -/
  | vscat (s : BitVec 2) (d : VReg) (l : LEntry) (c : XField) (k : KReg)
  /-- R322: Pushes a pop of VL stream elements into vd. -/
  | vpop (s : BitVec 2) (d : VReg) (m : BitVec 3) (k : KReg)
  /-- R322: Pushes a push of VL slots of vd into a write stream. -/
  | vpush (s : BitVec 2) (d : VReg) (m : BitVec 3)
  /-- R323: Pushes an integer tree reduction into slot 0 of vd. -/
  | vrsum (s : BitVec 2) (d : VReg) (a : VReg) (b : VReg) (k : KReg)
  /-- R323: Pushes an FP32 fixed-tree sum into slot 0 of vd. -/
  | vrfsum (s : BitVec 2) (d : VReg) (a : VReg) (b : VReg) (k : KReg)
  /-- R323: Pushes a signed minimum reduction. -/
  | vrmin (s : BitVec 2) (d : VReg) (a : VReg) (b : VReg) (k : KReg)
  /-- R323: Pushes a signed maximum reduction. -/
  | vrmax (s : BitVec 2) (d : VReg) (a : VReg) (b : VReg) (k : KReg)
  /-- R323: Pushes an FP minimum reduction. -/
  | vrfmin (s : BitVec 2) (d : VReg) (a : VReg) (b : VReg) (k : KReg)
  /-- R323: Pushes an FP maximum reduction. -/
  | vrfmax (s : BitVec 2) (d : VReg) (a : VReg) (b : VReg) (k : KReg)
  /-- R324: Adds words of messages on a channel into vd slot by slot, resumable from a progress word. -/
  | vrecvadd (s : BitVec 2) (d : VReg) (n : XField)
  /-- R325: Packs L6 codes four to three bytes. -/
  | vpackl6 (s : BitVec 2) (d : VReg) (a : VReg)
  /-- R325: Unpacks packed L6 bytes to one code per byte. -/
  | vunpkl6 (s : BitVec 2) (d : VReg) (a : VReg)
  /-- R326: Quantises FP32 blocks of 32 to L6 codes and scales. -/
  | vquant (s : BitVec 2) (d : VReg) (a : VReg)
  /-- R326: Dequantises L6 codes with block scales to FP32. -/
  | vdeq (s : BitVec 2) (d : VReg) (a : VReg) (b : VReg)
  /-- R327: Converts FP32 slots to BF16 elements. -/
  | vcvtbf (s : BitVec 2) (d : VReg) (a : VReg)
  /-- R327: Widens BF16 elements to FP32 slots. -/
  | vcvtf (s : BitVec 2) (d : VReg) (a : VReg)
  /-- R328: Adds two L6 blocks and requantises each block. -/
  | baddq (s : BitVec 2) (d : VReg) (a : VReg) (b : VReg)
  /-- R329: Permutes slots of va by indices in vb. -/
  | vpermv (s : BitVec 2) (d : VReg) (a : VReg) (b : VReg) (k : KReg)
  /-- R329: Slides slots up by an amount. -/
  | vslup (s : BitVec 2) (d : VReg) (a : VReg) (n : BitVec 5) (k : KReg)
  /-- R329: Slides slots down by an amount. -/
  | vsldn (s : BitVec 2) (d : VReg) (a : VReg) (n : BitVec 5) (k : KReg)
  /-- R329: Merges va and vb under a mask. -/
  | vmerge (s : BitVec 2) (d : VReg) (a : VReg) (b : VReg) (k : KReg)
  /-- R329: ANDs two mask registers. -/
  | vkand (s : BitVec 2) (d : BitVec 3) (a : BitVec 3) (b : BitVec 3)
  /-- R329: ORs two mask registers. -/
  | vkor (s : BitVec 2) (d : BitVec 3) (a : BitVec 3) (b : BitVec 3)
  /-- R329: XORs two mask registers. -/
  | vkxor (s : BitVec 2) (d : BitVec 3) (a : BitVec 3) (b : BitVec 3)
  /-- R329: Inverts a mask register. -/
  | vknot (s : BitVec 2) (d : BitVec 3) (a : BitVec 3)
  /-- R330: Compares 32-bit slots into a mask register by one of eight conditions. -/
  | vcmp (s : BitVec 2) (d : BitVec 3) (a : VReg) (b : VReg) (c : VCond) (k : KReg)
  /-- R331: Issues a block of up to 16 vector words N times with register fields stepped per run. -/
  | repf (s : BitVec 2) (d : XField) (n : BitVec 4) (x : BitVec 2) (y : BitVec 2) (z : BitVec 2)
  /-- R336: Makes the thread a lease member of its core. -/
  | mlease (s : BitVec 2)
  /-- R336: Waits for the thread's matrix commands and leaves lease membership. -/
  | mleaseRel (s : BitVec 2)
  /-- R341: Loads the shadow plane from a layout entry, dense or sparse, BF16 or L6. -/
  | mloads (s : BitVec 2) (x : XField) (l : Bool) (p : Bool)
  /-- R341: Loads the shadow plane from an accumulator through feedback, optionally transposed. -/
  | mloadsFb (s : BitVec 2) (b : BitVec 3) (t : Bool)
  /-- R344: Exchanges the active and shadow planes and their records. -/
  | mswap (s : BitVec 2)
  /-- R345: Accumulates 1 to 64 activation rows from a stream against the active plane. -/
  | mma (s : BitVec 2) (d : BitVec 3) (x : XField) (m : BitVec 3) (l : Bool) (z : Bool) (c : Bool) (p : Bool)
  /-- R345: Accumulates rows taken from an accumulator through feedback. -/
  | mmaFb (s : BitVec 2) (d : BitVec 3) (b : BitVec 3) (x : XField) (z : Bool) (t : Bool)
  /-- R349: Runs resident Newton-Schulz order-3 iteration in the array. -/
  | miterNs3 (s : BitVec 2) (d : BitVec 3) (x : XField) (n : Bool)
  /-- R349: Runs resident Newton-Schulz order-5 iteration. -/
  | miterNs5 (s : BitVec 2) (d : BitVec 3) (x : XField) (n : Bool)
  /-- R349: Runs resident inverse iteration against accumulator A. -/
  | miterInv (s : BitVec 2) (d : BitVec 3) (b : BitVec 3) (x : XField) (n : Bool)
  /-- R351: Evaluates a matrix polynomial by Horner's rule in the array. -/
  | mpoly (s : BitVec 2) (d : BitVec 3) (x : XField) (n : Bool)
  /-- R353: Sets every element of an accumulator to +0. -/
  | mzero (s : BitVec 2) (d : BitVec 3)
  /-- R354: Pushes rows of an accumulator to a write stream, optionally summed, rounded, transposed and cleared. -/
  | mdrain (s : BitVec 2) (d : BitVec 3) (x : XField) (m : BitVec 3) (z : Bool) (t : Bool) (h : Bool) (u : Bool)
  /-- R355: Writes accumulator rows into a vector register at the instruction's place in the claim queue. -/
  | mtov (s : BitVec 2) (d : BitVec 3) (x : XField) (t : Bool) (h : Bool)
  /-- R338: Writes a coefficient register from X[a]. -/
  | mcoef (s : BitVec 2) (n : BitVec 3) (x : XField)
  /-- R338: Reads a coefficient register into X[d]. -/
  | mcoefR (s : BitVec 2) (n : BitVec 3) (x : XField)
  /-- R339: Blocks until every matrix command of the thread has completed. -/
  | mstatWait (s : BitVec 2) (x : XField)
  /-- R339: Returns the base and size of the accumulator group. -/
  | mstatGrp (s : BitVec 2) (x : XField)
  /-- R339: Returns the projected plane record codes. -/
  | mstatPlane (s : BitVec 2) (x : XField)
  /-- R339: Returns the count of accepted commands not completed. -/
  | mstatCmds (s : BitVec 2) (x : XField)
  /-- R337: Allocates a zeroed group of n accumulators. -/
  | macca (s : BitVec 2) (n : BitVec 3)
  /-- R362: Raises BREAK with TVAL from X[a] and TEPC at the next PC. -/
  | trap (s : BitVec 2) (a : XField)
  /-- R363: Returns from a handler to TEPC and restores STEP. -/
  | eret (s : BitVec 2)
  /-- R364: Reads a CSR into X[d]. -/
  | csrr (s : BitVec 2) (d : XField) (h : BitVec 7) (g : BitVec 5)
  /-- R364: Writes X[a] to a CSR, with the effects of that CSR. -/
  | csrw (s : BitVec 2) (h : BitVec 7) (a : XField) (g : BitVec 5)
  /-- R370: Creates a child thread from a spawn block and returns its THRID. -/
  | tspawn (s : BitVec 2) (d : XField) (a : XField)
  /-- R371: Parks until the thread's outstanding work drains and then ends it, retiring its task. -/
  | texit (s : BitVec 2)
  /-- R372: Removes the thread from its position to be dealt afresh. -/
  | tyield (s : BitVec 2)
  /-- R373: Retires the current task and takes the head packet of the work list. -/
  | taskget (s : BitVec 2) (d : XField)
  /-- R374: Releases and sends a work packet from scratchpad to a tile's work list. -/
  | taskput (s : BitVec 2) (d : XField) (a : XField)
  /-- R375: Moves an eligible thread to another tile as one fabric message. -/
  | migrate (s : BitVec 2) (a : XField)
  /-- R376: Makes the thread a follower of a leader in the same tile. -/
  | follow (s : BitVec 2) (a : XField)
  /-- R376: Ends following for the followers that execute it. -/
  | unfollow (s : BitVec 2)
  /-- R377: Parks until a register is ready or symbols are freed. -/
  | symwait (s : BitVec 2) (d : XField) (a : XField) (y : Bool)
  /-- R378: Reports the pending and poison state of a register without waiting. -/
  | symq (s : BitVec 2) (d : XField) (a : XField)
  /-- R368: Writes the field or global time into a register pair. -/
  | time (s : BitVec 2) (d : XField) (g : Bool)
  /-- R369: Returns FMT and replaces it from X[a]. -/
  | setfmt (s : BitVec 2) (d : XField) (a : XField)
  /-- R304: Parks until a range-lock table entry is released. -/
  | rlwait (s : BitVec 2) (a : XField)
  /-- R379: Privileged invalidation of uTLB and field TLB entries. -/
  | tlbinv (s : BitVec 2) (a : XField) (f : Bool) (u : Bool)
  /-- R379: Privileged stop of issue on the core. -/
  | halt (s : BitVec 2)
  /-- R380: Cancels the issuing thread's launch. -/
  | cancelLaunch (s : BitVec 2)
  /-- R380: Cancels the issuing thread's graph. -/
  | cancelGraph (s : BitVec 2)
  /-- R380: Privileged cancel of the issuing thread's phase. -/
  | cancelPhase (s : BitVec 2)
  /-- R380: Privileged cancel of the issuing thread's job. -/
  | cancelJob (s : BitVec 2)
  /-- R227: Prefix supplying the high 22 bits of the next instruction's immediate. -/
  | imx (i : BitVec 22) (w : Word)
  /-- R35: A thread's stall count is spent and it becomes eligible again. -/
  | stallCountExpiry (t : ThreadId)
  /-- R403: A fixed-latency result is delivered 8(g+1) tile cycles after issue. -/
  | fixedLatencyDelivery (t : ThreadId)
  /-- R39: The head work packet is taken into a new thread when a core has a free slot and register range. -/
  | dispatch (tile : TileId)
  /-- R52: Under cancel, a thread is killed at its next turn. -/
  | threadKill (t : ThreadId)
  /-- R42: At each balancing interval a tile compares its work list length with its neighbours and ships packets. -/
  | levellerSample (tile : TileId)
  /-- R43: A target appends shipped packets up to its free space and returns the rest. -/
  | levellerShipmentArrival (item : Nat)
  /-- R46: An arrived migrating thread is created when a slot and register range are free. -/
  | migrantCreate (tile : TileId)
  /-- R208: After the field's phase-table offset, root threads start or barrier threads are released. -/
  | fieldOffsetRelease (part slot field : Nat)
  /-- R78: An eDRAM slice closes for refresh for 400 field nanoseconds. -/
  | refreshWindowOpen (berth : Nat) (bad : List Nat)
  /-- R78: The refresh window closes and waiting reads start. -/
  | refreshWindowClose (berth : Nat)
  /-- R445: The network interface takes an item from an outbound queue, reads the translation entry and sends or moors it. -/
  | niSend (berth : Nat)
  /-- R446: An item reaches a berth and is taken in, forwarded by FWDR, or sent back to its source. -/
  | itemArrival (item : Nat)
  /-- R446: A bounced item reaches its source NI, which rereads the entry and sends or moors it. -/
  | itemReturn (item : Nat)
  /-- R83: The spillway thread appends a message that found no inbox room to the heap. -/
  | spillwayAppend (tile : TileId)
  /-- R83: The spillway thread replays the oldest heap message into the inbox as slots free. -/
  | spillwayReplay (tile : TileId)
  /-- R83: The oldest message held behind the heap moves into the heap or inbox as room frees. -/
  | heldMessageMove (tile : TileId)
  /-- R87: A memory access is performed at the visibility point of its location. -/
  | accessPerformed (access : Nat) (ecc : Ecc)
  /-- R160: A long-latency result reaches the core and resolves every register holding its symbol. -/
  | resultDelivery (tile : TileId) (core entry : Nat)
  /-- R102: An owning tile acknowledges a peer store or atomic and the peer-write counter falls. -/
  | peerWriteAck (item : Nat)
  /-- R88: A combining-buffer line drains 512 tile cycles after its last store. -/
  | combiningBufferTimeout (t : ThreadId)
  /-- R103: A bank group echoes a fence probe after earlier writes are performed. -/
  | probeEcho (t : ThreadId) (group : Nat)
  /-- R113: A waiting engine registration takes a range-lock table entry. -/
  | registrationEnter (tile : TileId) (reg : Nat)
  /-- R172: The access half fetches the next element of a read stream into its queue. -/
  | streamFetch (t : ThreadId) (stream : Nat) (ecc : Ecc)
  /-- R172: The access half drains an element of a write stream to memory. -/
  | streamDrain (t : ThreadId) (stream : Nat) (ecc : Ecc)
  /-- R297: A copy queue accepts its head command, checks it and registers its ranges. -/
  | copyAccept (tile : TileId) (queue : Nat)
  /-- R298: A copy ends, releases its ranges and resolves its token with status and count. -/
  | copyComplete (tile : TileId) (queue : Nat)
  /-- R276: The special-function unit starts the request at the head of its FIFO. -/
  | sfuStart (tile : TileId)
  /-- R276: The special-function unit delivers a result 16 tile cycles after its start. -/
  | sfuResult (tile : TileId)
  /-- R314: A vector instruction's last slot group completes and its results and flags are written. -/
  | vectorComplete (tile : TileId) (ctx : Nat) (bad : Option Nat)
  /-- R178: A lease budget of 32 commands or 16,384 cycles is spent and the lease passes or restarts. -/
  | leaseBudgetSpent (tile : TileId)
  /-- R191: A recorded plane has been reloaded after the core regained the lease, and PLOST is set. -/
  | planeReloadComplete (tile : TileId) (shadow : Bool)
  /-- R343: The plane loader completes an MLOADS and sets the shadow record. -/
  | planeLoadComplete (tile : TileId) (bad : List Nat)
  /-- R181: The array completes a command, delivers its flags and starts the next accepted command. -/
  | matrixCommandComplete (tile : TileId)
  /-- R193: An MMA operand fetch faults; the accumulator is restored, streams rewound and the thread trapped. -/
  | mmaOperandFault (tile : TileId)
  /-- R198: A resident iteration step completes and the divergence, tolerance and cap tests run. -/
  | miterStepComplete (tile : TileId)
  /-- R205: At each Weir step boundary the Weir grants up to its limit of requests. -/
  | weirStep (field : Nat)
  /-- R206: An array completes ramp-down and becomes cold. -/
  | rampDownEnd (tile : TileId)
  /-- R504: A wake request takes an inrush token of its field in global-time order. -/
  | wakeTokenTake (field : Nat)
  /-- R504: A woken segment returns its token after 2,000 field nanoseconds. -/
  | wakeComplete (field seg : Nat)
  /-- R504: A segment unused for 100 us is powered down. -/
  | segmentPowerDown (seg : Nat)
  /-- R430: A TAIL write to BAR2 makes commands of a queue available. -/
  | doorbell (port func queue : Nat) (tail : Word)
  /-- R432: The partition dispatcher takes the head command of the queue with the highest effective priority. -/
  | dispatcherTake (part : Nat) (hostError : Bool)
  /-- R433: Host command that starts a launch or parks it until its predecessors complete. -/
  | launch (cmd : HostCmd)
  /-- R438: Host command that cancels a launch. -/
  | hostCancelLaunch (cmd : HostCmd)
  /-- R438: Host command that cancels a graph. -/
  | hostCancelGraph (cmd : HostCmd)
  /-- R438: Host command that cancels a phase. -/
  | hostCancelPhase (cmd : HostCmd)
  /-- R438: Host command that cancels a job. -/
  | hostCancelJob (cmd : HostCmd)
  /-- R439: Host command that opens a phase of a job, waiting while one is open. -/
  | phase (cmd : HostCmd)
  /-- R439: Host command that admits no further command of a job. -/
  | endjob (cmd : HostCmd)
  /-- R441: Host command that completes when taken. -/
  | nop (cmd : HostCmd)
  /-- R435: A launch takes a free launch slot and is checked before any tile starts. -/
  | admission (part : Nat) (fit : Bool)
  /-- R495: A PQKIND write of 0 finds a job's counter block. -/
  | counterQueryJob (part : Nat)
  /-- R495: A PQKIND write of 1 finds a phase's counter block. -/
  | counterQueryPhase (part : Nat)
  /-- R495: A PQKIND write of 2 finds a graph's counter block. -/
  | counterQueryGraph (part : Nat)
  /-- R495: A W1C write to PCAUSE clears sticky PWRCAUSE bits for every thread of the partition. -/
  | pcauseClear (part : Nat) (v : Word)
  /-- R448: A write to NIINV drops the NI's cached translation entry. -/
  | niinv (berth slot : Nat) (num : Nat)
  /-- R494: A write to MODCAP changes the module cap setting. -/
  | modcapWrite (v : Word)
  /-- R9: A write to a register without behaviour of its own sets its writable fields. -/
  | registerWrite (reg : RegName) (v : BitVec 64) (secure : Bool)
  /-- R18: A gang's time slice ends and it is swapped out or its slice restarts. -/
  | sliceEnd (part slot gang : Nat)
  /-- R450: The Harbourmaster serves the earliest summons, restoring or choosing an idle gang to swap out. -/
  | summons (part : Nat)
  /-- R454: Once every save write is acknowledged, CREC is written, entries cleared and berths freed. -/
  | saveComplete (part slot gang : Nat)
  /-- R455: An uncorrectable error on a save write aborts the save and the gang resumes. -/
  | saveAbort (part slot gang : Nat) (berth : Nat)
  /-- R456: Planes, streams, receives and moored traffic are reinstalled and the gang becomes resident. -/
  | restoreComplete (part slot gang : Nat)
  /-- R458: An incremental checkpoint write is acknowledged and its line or group becomes clean. -/
  | checkpointWriteAck (berth : Nat) (line : Nat)
  /-- R461: The Harbourmaster begins streaming a running tile's image to a new berth. -/
  | relocationStart (tile : TileId) (berth : Nat)
  /-- R461: The tile's wheel stops, it drains, FWDR is set and its entry rewritten and invalidated. -/
  | relocationCutover (tile : TileId)
  /-- R461: After the delta and inbox are copied, the tile is restored at the new berth. -/
  | relocationRestore (tile : TileId)
  /-- R461: When every NI has acknowledged, forwarding ends and the old berth is freed. -/
  | relocationEnd (tile : TileId)
  /-- R447: An NI receives an entry invalidation, drops the entry and acknowledges. -/
  | invalidation (berth : Nat) (tile : TileId)
  /-- R468: A field walker completes a translation walk and fills the TLBs or faults. -/
  | walkComplete (field : Nat) (walk : Nat)
  /-- R473: Firmware resumes a parked thread at TEPC after resolving its fault. -/
  | fwResume (t : ThreadId) (clean : Bool)
  /-- R473: Firmware forwards a parked trap to TVEC with FWD set. -/
  | fwForward (t : ThreadId)
  /-- R473: Firmware kills a parked thread and fails its launch. -/
  | fwKill (t : ThreadId)
  /-- R480: One pair member presents an item the other has not matched within 65,536 cycles. -/
  | pairTimeout (t : ThreadId)
  /-- R118: A write or message arrives over a link; duplicates are dropped and writes acknowledged once performed. -/
  | linkItemArrival (link : Nat)
  /-- R118: A remote module's acknowledgement of a performed write arrives. -/
  | remoteWriteAck (link : Nat) (id : Nat)
  /-- R482: A link flit fails its CRC and is retransmitted. -/
  | flitCrcFail (link : Nat)
  /-- R482: After 8 failed retransmissions the link retrains, possibly narrowed. -/
  | linkRetrain (link : Nat) (lanes : Nat)
  /-- R119: A link fails and unacknowledged traffic is re-sent on another link. -/
  | linkFailure (link : Nat)
  /-- R483: A write without acknowledgement or path for 100 ms is abandoned and its launch faulted. -/
  | remoteWriteAbandon (id : Nat)
  /-- R488: A router failing in service faults every launch routed through it. -/
  | routerFailure (berth : Nat)
  /-- R484: Power-on or module reset starts boot in every field. -/
  | moduleReset (powerOn : Bool) (verified : BitVec 30)
  /-- R485: Boot stage 2 tests berths, routers, wires and lanes and records defects. -/
  | selfTest (field : Nat) (failed : List (Nat × Nat))
  /-- R487: Boot stage 3 replaces failed seam wires and remaps rim lanes. -/
  | laneRepair (field : Nat) (channels granules : List Nat)
  /-- R488: Boot stage 4 chooses every source route avoiding holes. -/
  | routeTableBuild (field : Nat)
  /-- R491: Boot stage 5 starts every field time counter at zero. -/
  | timeCounterStart
  /-- R492: Boot stage 6 measures seam latencies into SEAMLAT. -/
  | seamMeasurement (lat : List (Nat × Nat × Nat))
  /-- R493: Boot stage 7 assigns worlds, publishes FREEB and opens partitions. -/
  | worldAssignment
  /-- R491: Once per millisecond a field controller sends an offset probe to its tree neighbour. -/
  | timeProbe (field : Nat)
  /-- R491: A probe arrives at the neighbour field, which replies. -/
  | timeProbeArrival (field : Nat)
  /-- R491: A probe reply arrives, the offset is computed and TOFF published. -/
  | timeReplyArrival (field : Nat)
  /-- R485: A signed operator command removes a defect map entry at the current boot count. -/
  | defectReinstate (index count : Nat) (verified : Bool)
  /-- R490: The module returns a signed report over a verifier's nonce. -/
  | attestationReport (nonce : Nat)
  /-- R493: Secure firmware zeros a granule, invalidates TLBs and rewrites its world entry. -/
  | granuleReassign (granule : Nat) (entry : BitVec 16)
  /-- R422: A firmware update takes effect in a partition with no running launch, possibly changing MINOR. -/
  | firmwareUpdate (part : Nat) (version : Word) (verified : Bool)
  /-- R379: The field controller restarts issue on a halted core. -/
  | coreRestart (tile : TileId) (core : Nat)
  /-- R499: A towpath frame is checked and, if accepted, sets the module's cap level. -/
  | towpathFrame (payload : List Byte)
  /-- R500: The state machine applies per-partition hall settings within 1 ms of an accepted frame. -/
  | hallSettingApply
  /-- R498: A changed setting in force takes effect at turn and Weir step boundaries. -/
  | settingChange (part field : Nat)
  /-- R497: Every 100 us firmware compares partition power with BUDGET and steps positions or Weir. -/
  | budgetCheck (part : Nat) (power : Nat)
  /-- R501: Power firmware feeds its watchdog, ending a floor fallback. -/
  | watchdogFeed (field : Nat)
  /-- R501: After 50 ms unfed, PFLOOR joins the settings and FW_FALLBACK is set. -/
  | watchdogTimeout (field : Nat)
  /-- R502: Every 100 us sensor readings are checked for plausibility and thermal trips. -/
  | sensorCheck (field : Nat) (readings : List Int)
  /-- R502: A field trips for current within 10 us of its sum reaching ITRIP. -/
  | currentTrip (field : Nat)
  /-- R502: A trip ends after readings have stayed below threshold for 1 ms. -/
  | tripEnd (field : Nat)
  /-- R506: A peer's STOP flit for a phase arrives and may complete the global stop. -/
  | stopFlitArrival (flit : Nat)
  /-- R507: The checkpoint timer expires, so the next phase boundary takes a checkpoint. -/
  | checkpointTimer (part : Nat)
  /-- R508: The zeroed commit record is acknowledged and the regions are copied. -/
  | checkpointSlotCleared (part : Nat)
  /-- R508: The commit record is acknowledged, CKSTAT set committed and PHASE released. -/
  | checkpointCommit (part : Nat)
  /-- R509: A checkpoint is abandoned on timeout, write error or cancel. -/
  | checkpointAbort (part : Nat)
  /-- R447: The berth that took in an item acknowledges it to the sending NI, which may then release items it held after dropping that tile's entry. -/
  | itemAcknowledgement (item : Nat)
  /-- R509: The module loses power, abandoning any checkpoint write in flight and leaving the partly written slot invalid. -/
  | powerLoss
  /-- R109: A quay-tile queue command completes and its source and destination registrations are released. -/
  | quayTileQueueCompletion (id : Nat)
  deriving DecidableEq, Repr

end Sys2Proof
end

