-- ==== Sys2Proof/Config.lean ====
section
/-! DEFINITION. What an implementation fixes, and the free values: constants without a body, so that no proof can see them. -/

namespace Sys2Proof

/-- Which of n possible happenings comes next at a step: 0 is a turn of a wheel, k + 1 the k-th enabled event.
The interleaving of agents is free (R5, R93, R151; log entry 1). -/
opaque Config.schedule : Nat → Nat → Nat

/-- Whether the host's translation refuses an address of a port at a step (R81; log entry 34). -/
opaque Config.hostRefuses : Nat → Nat → Nat → Bool

/-- Which resident tile's core takes the next turn, among n (log entry 1). -/
opaque Config.tileChoice : Nat → Nat → Nat

/-- Field nanoseconds that a step takes in a field (R7; log entry 5). -/
opaque Config.elapsed : Nat → Nat → Nat

/-- Where firmware has laid the control region of a partition, in units of 4 MiB of rim store (R495; log entry 61). -/
opaque Config.controlAddress : Nat → Nat

/-- The link that the link table of firmware selects for a module (R505; log entry 62). -/
opaque Config.linkTable : Nat → Nat

/-- How much later than the first the second member of a checked pair reads the time at a step, in field nanoseconds (R151, R152; log entry
64). -/
opaque Config.pairSkew : Nat → Nat

/-- A soft error that no check finds, in a register of the second member of a checked pair at a step: the register and the bits (R480; log
entry 64). -/
opaque Config.upset : Nat → Option (Nat × Word)

/-- The error that strikes protected storage at a step, if any does (R476; log entry 37). -/
opaque Config.softError : Nat → Option SoftError

/-- The privileged address of the context image of a launch's tile: partition, slot and index of the tile, and how many images of the tile
have been withdrawn (R453, R455; log entry 13). -/
opaque Config.imageAddress : Nat → Nat → Nat → Nat → Nat

/-- Whether firmware's step under BUDGET at a time moves a position rather than WEIR (R497; log entry 18). -/
opaque Config.budgetChoice : Nat → Bool

/-- SHA-384 of the boot ROM, and of a field's firmware, whose contents the model does not hold (R490; log entry 25). -/
opaque Config.romDigest : BitVec 384
/-- SHA-384 of a field's firmware. -/
opaque Config.firmwareDigest : Nat → BitVec 384

/-- The security version of the firmware (R489; log entry 25). -/
opaque Config.securityVersion : Nat

/-- The detail, less one, of a launch that a router's failure faults (R488; log entry 21). -/
opaque Config.routerDetail : Nat

end Sys2Proof
end

