-- ==== Sys2Proof/WellFormed.lean ====
section
/-! DEFINITION. Which instructions are well formed: field combinations that no encoding admits, and subjects of events that do not exist. -/

namespace Sys2Proof

/-- Whether the field values of an encoded instruction stand together: the combinations that R246, R192, R269, R319,
R326, R328 and R354 make ILLEGAL by the encoding alone, and the hint words of major 0x1E that Table 8.10 names otherwise. -/
def Instr.encodable (i : Instr) : Bool :=
  match i with
  | .hintFallback _ _ _ _ f hi => hi || decide (3 ≤ f.toNat)
  | .loop _ _ _ o => decide (1 ≤ o.toInt)
  | .mma _ d _ m l _ c p => !(c && (p || d.toNat % 2 == 1)) && !(l && m == 7#3)
  | .mdrain _ d _ _ _ _ _ u => !(u && d.toNat % 2 == 1)
  | .vquant _ d _ => d != 31#5
  | .baddq _ d a b => d != 31#5 && a != 31#5 && b != 31#5
  | .vgaddr _ d _ _ _ => d != 31#5
  | _ => true

/-- A tile number that Chagil can bind (R13, R435): 30 partitions of 256 launch slots, grids of at most 4,096 by 4,096. -/
def TileId.wf (t : TileId) : Bool := t.part < 30 && t.slot < 256 && t.num < 2 ^ 24

/-- A thread slot that exists (R24): 512 in a tile. -/
def ThreadId.wf (t : ThreadId) : Bool := t.tile.wf && t.thr < 512

/-- Whether the parts of the machine that an event names exist. -/
def Instr.subjectExists (i : Instr) : Bool :=
  match i with
  | .stallCountExpiry t => t.wf
  | .fixedLatencyDelivery t => t.wf
  | .dispatch tile => tile.wf
  | .threadKill t => t.wf
  | .levellerSample tile => tile.wf
  | .migrantCreate tile => tile.wf
  | .fieldOffsetRelease part slot field => decide (part < 30) && decide (slot < 256) && decide (field < 30)
  | .refreshWindowOpen berth _ => decide (berth < 5040)
  | .refreshWindowClose berth => decide (berth < 5040)
  | .niSend berth => decide (berth < 5040)
  | .spillwayAppend tile => tile.wf
  | .spillwayReplay tile => tile.wf
  | .heldMessageMove tile => tile.wf
  | .resultDelivery tile core entry => tile.wf && decide (core < 8) && decide (entry < 256)
  | .combiningBufferTimeout t => t.wf
  | .probeEcho t _ => t.wf
  | .registrationEnter tile _ => tile.wf
  | .streamFetch t stream _ => t.wf && decide (stream < 8)
  | .streamDrain t stream _ => t.wf && decide (stream < 8)
  | .copyAccept tile queue => tile.wf && decide (queue < 4)
  | .copyComplete tile queue => tile.wf && decide (queue < 4)
  | .sfuStart tile => tile.wf
  | .sfuResult tile => tile.wf
  | .vectorComplete tile ctx _ => tile.wf && decide (ctx < 16)
  | .leaseBudgetSpent tile => tile.wf
  | .planeReloadComplete tile _ => tile.wf
  | .planeLoadComplete tile _ => tile.wf
  | .matrixCommandComplete tile => tile.wf
  | .mmaOperandFault tile => tile.wf
  | .miterStepComplete tile => tile.wf
  | .weirStep field => decide (field < 30)
  | .rampDownEnd tile => tile.wf
  | .wakeTokenTake field => decide (field < 30)
  | .wakeComplete field seg => decide (field < 30) && decide (seg < 30240)
  | .segmentPowerDown seg => decide (seg < 30240)
  | .doorbell port _ _ _ => decide (port < 2)
  | .dispatcherTake part _ => decide (part < 30)
  | .admission part _ => decide (part < 30)
  | .counterQueryJob part => decide (part < 30)
  | .counterQueryPhase part => decide (part < 30)
  | .counterQueryGraph part => decide (part < 30)
  | .pcauseClear part _ => decide (part < 30)
  | .niinv berth slot num => decide (berth < 5040) && decide (slot < 256) && decide (num < 2 ^ 24)
  | .sliceEnd part slot gang => decide (part < 30) && decide (slot < 256) && decide (gang < 2 ^ 24)
  | .summons part => decide (part < 30)
  | .saveComplete part slot gang => decide (part < 30) && decide (slot < 256) && decide (gang < 2 ^ 24)
  | .saveAbort part slot gang berth => decide (part < 30) && decide (slot < 256) && decide (gang < 2 ^ 24) && decide (berth < 5040)
  | .restoreComplete part slot gang => decide (part < 30) && decide (slot < 256) && decide (gang < 2 ^ 24)
  | .checkpointWriteAck berth _ => decide (berth < 5040)
  | .relocationStart tile berth => tile.wf && decide (berth < 5040)
  | .relocationCutover tile => tile.wf
  | .relocationRestore tile => tile.wf
  | .relocationEnd tile => tile.wf
  | .invalidation berth tile => decide (berth < 5040) && tile.wf
  | .walkComplete field _ => decide (field < 30)
  | .fwResume t _ => t.wf
  | .fwForward t => t.wf
  | .fwKill t => t.wf
  | .pairTimeout t => t.wf
  | .linkItemArrival link => decide (link < 96)
  | .remoteWriteAck link _ => decide (link < 96)
  | .flitCrcFail link => decide (link < 96)
  | .linkRetrain link _ => decide (link < 96)
  | .linkFailure link => decide (link < 96)
  | .routerFailure berth => decide (berth < 5040)
  | .selfTest field _ => decide (field < 30)
  | .laneRepair field _ _ => decide (field < 30)
  | .routeTableBuild field => decide (field < 30)
  | .timeProbe field => decide (field < 30)
  | .timeProbeArrival field => decide (field < 30)
  | .timeReplyArrival field => decide (field < 30)
  | .granuleReassign granule _ => decide (granule < 2560)
  | .firmwareUpdate part _ _ => decide (part < 30)
  | .coreRestart tile core => tile.wf && decide (core < 8)
  | .settingChange part field => decide (part < 30) && decide (field < 30)
  | .budgetCheck part _ => decide (part < 30)
  | .watchdogFeed field => decide (field < 30)
  | .watchdogTimeout field => decide (field < 30)
  | .sensorCheck field _ => decide (field < 30)
  | .currentTrip field => decide (field < 30)
  | .tripEnd field => decide (field < 30)
  | .checkpointTimer part => decide (part < 30)
  | .checkpointSlotCleared part => decide (part < 30)
  | .checkpointCommit part => decide (part < 30)
  | .checkpointAbort part => decide (part < 30)
  | _ => true

/-- Whether an instruction is an event or a host command: a row of the opcode table without an encoding. -/
def Instr.isEvent (i : Instr) : Bool :=
  match i with
  | .stallCountExpiry ..
  | .fixedLatencyDelivery ..
  | .dispatch ..
  | .threadKill ..
  | .levellerSample ..
  | .levellerShipmentArrival ..
  | .migrantCreate ..
  | .fieldOffsetRelease ..
  | .refreshWindowOpen ..
  | .refreshWindowClose ..
  | .niSend ..
  | .itemArrival ..
  | .itemReturn ..
  | .spillwayAppend ..
  | .spillwayReplay ..
  | .heldMessageMove ..
  | .accessPerformed ..
  | .resultDelivery ..
  | .peerWriteAck ..
  | .combiningBufferTimeout ..
  | .probeEcho ..
  | .registrationEnter ..
  | .streamFetch ..
  | .streamDrain ..
  | .copyAccept ..
  | .copyComplete ..
  | .sfuStart ..
  | .sfuResult ..
  | .vectorComplete ..
  | .leaseBudgetSpent ..
  | .planeReloadComplete ..
  | .planeLoadComplete ..
  | .matrixCommandComplete ..
  | .mmaOperandFault ..
  | .miterStepComplete ..
  | .weirStep ..
  | .rampDownEnd ..
  | .wakeTokenTake ..
  | .wakeComplete ..
  | .segmentPowerDown ..
  | .doorbell ..
  | .dispatcherTake ..
  | .launch ..
  | .hostCancelLaunch ..
  | .hostCancelGraph ..
  | .hostCancelPhase ..
  | .hostCancelJob ..
  | .phase ..
  | .endjob ..
  | .nop ..
  | .admission ..
  | .counterQueryJob ..
  | .counterQueryPhase ..
  | .counterQueryGraph ..
  | .pcauseClear ..
  | .niinv ..
  | .modcapWrite ..
  | .registerWrite ..
  | .sliceEnd ..
  | .summons ..
  | .saveComplete ..
  | .saveAbort ..
  | .restoreComplete ..
  | .checkpointWriteAck ..
  | .relocationStart ..
  | .relocationCutover ..
  | .relocationRestore ..
  | .relocationEnd ..
  | .invalidation ..
  | .walkComplete ..
  | .fwResume ..
  | .fwForward ..
  | .fwKill ..
  | .pairTimeout ..
  | .linkItemArrival ..
  | .remoteWriteAck ..
  | .flitCrcFail ..
  | .linkRetrain ..
  | .linkFailure ..
  | .remoteWriteAbandon ..
  | .routerFailure ..
  | .moduleReset ..
  | .selfTest ..
  | .laneRepair ..
  | .routeTableBuild ..
  | .timeCounterStart ..
  | .seamMeasurement ..
  | .worldAssignment ..
  | .timeProbe ..
  | .timeProbeArrival ..
  | .timeReplyArrival ..
  | .defectReinstate ..
  | .attestationReport ..
  | .granuleReassign ..
  | .firmwareUpdate ..
  | .coreRestart ..
  | .towpathFrame ..
  | .hallSettingApply ..
  | .settingChange ..
  | .budgetCheck ..
  | .watchdogFeed ..
  | .watchdogTimeout ..
  | .sensorCheck ..
  | .currentTrip ..
  | .tripEnd ..
  | .stopFlitArrival ..
  | .checkpointTimer ..
  | .checkpointSlotCleared ..
  | .checkpointCommit ..
  | .checkpointAbort ..
  | .itemAcknowledgement ..
  | .powerLoss ..
  | .quayTileQueueCompletion .. => true
  | _ => false

/-- A well-formed instruction: fields that stand together, and a subject that the machine has. -/
def Instr.wellFormed (i : Instr) : Bool := i.encodable && i.subjectExists

end Sys2Proof
end

