-- ==== Sys2Proof/Decode.lean ====
section
/-! DEFINITION. The decoder of instruction words (07, 08), rejecting by name, and the encoder from the same tables. -/

namespace Sys2Proof

/-- Bits [lo + n - 1 : lo] of a word. -/
def fld (w lo n : Nat) : Nat := w / 2 ^ lo % 2 ^ n

/-- Bits [lo + n - 1 : lo] of a word as a field of n bits. -/
def bits (n w lo : Nat) : BitVec n := BitVec.ofNat n (w / 2 ^ lo)

/-- Bit lo of a word. -/
def flag (w lo : Nat) : Bool := w / 2 ^ lo % 2 == 1

/-- Code of the AMO op field (R242); 11 to 15 are ILLEGAL. -/
def AmoOp.ofCode : Nat → Option AmoOp
  | 0 => some .swap | 1 => some .add | 2 => some .and | 3 => some .or | 4 => some .xor | 5 => some .min
  | 6 => some .max | 7 => some .minn | 8 => some .maxn | 9 => some .cas | 10 => some .fadd | _ => none

/-- The op field of an AMO operation. -/
def AmoOp.code : AmoOp → Nat
  | .swap => 0 | .add => 1 | .and => 2 | .or => 3 | .xor => 4 | .min => 5
  | .max => 6 | .minn => 7 | .maxn => 8 | .cas => 9 | .fadd => 10

/-- Code of a fence scope (Table 8.7); 5 to 7 are ILLEGAL. -/
def Scope.ofCode : Nat → Option Scope
  | 0 => some .tile | 1 => some .gang | 2 => some .grid | 3 => some .device | 4 => some .system | _ => none

/-- The scope field of a scope. -/
def Scope.code : Scope → Nat
  | .tile => 0 | .gang => 1 | .grid => 2 | .device => 3 | .system => 4

/-- Code of a VINT width (R244); 11 is ILLEGAL. -/
def VWidth.ofCode : Nat → Option VWidth
  | 0 => some .b32 | 1 => some .b16 | 2 => some .b8 | _ => none

/-- The width field of a VINT width. -/
def VWidth.code : VWidth → Nat
  | .b32 => 0 | .b16 => 1 | .b8 => 2

/-- The o field of LD and ST (Table 8.6). -/
def MemOrd.ofCode : Nat → MemOrd
  | 0 => .rlx | 1 => .ord | 2 => .ordw | _ => .nt

/-- The o field of a memory order. -/
def MemOrd.code : MemOrd → Nat
  | .rlx => 0 | .ord => 1 | .ordw => 2 | .nt => 3

/-- The words field of SEND and RECV (Table 8.6). -/
def MsgSize.ofCode : Nat → MsgSize
  | 0 => .w1 | 1 => .w2 | 2 => .w4 | _ => .w8

/-- The words field of a message size. -/
def MsgSize.code : MsgSize → Nat
  | .w1 => 0 | .w2 => 1 | .w4 => 2 | .w8 => 3

/-- The width bit of a VFLT instruction (R244). -/
def FWidth.ofCode : Nat → FWidth
  | 0 => .f32 | _ => .bf16

/-- The width bit of a VFLT width. -/
def FWidth.code : FWidth → Nat
  | .f32 => 0 | .bf16 => 1

/-- Conditions 0 to 7 of Table 8.4. -/
def Cond.ofCode : Nat → Cond
  | 0 => .eq | 1 => .ne | 2 => .lt | 3 => .ge | 4 => .ltn | 5 => .gen | 6 => .anyBit | _ => .noBit

/-- The low three condition bits of a comparison. -/
def Cond.code : Cond → Nat
  | .eq => 0 | .ne => 1 | .lt => 2 | .ge => 3 | .ltn => 4 | .gen => 5 | .anyBit => 6 | .noBit => 7

/-- The low three bits of VCMP's minor code (Table 8.8). -/
def VCond.ofCode : Nat → VCond
  | 0 => .eq | 1 => .ne | 2 => .lt | 3 => .ge | 4 => .ltn | 5 => .gen | 6 => .feq | _ => .flt

/-- The low three bits of VCMP's minor code for a comparison. -/
def VCond.code : VCond → Nat
  | .eq => 0 | .ne => 1 | .lt => 2 | .ge => 3 | .ltn => 4 | .gen => 5 | .feq => 6 | .flt => 7

/-- Why a word or a byte sequence is not an instruction. -/
inductive DecodeError where
  /-- The bytes end inside a word. -/
  | truncated
  /-- Major 0x00 or 0x2F (R237). -/
  | deadMajor
  /-- An MCODE word; W3.0 assigns no function number (R249). -/
  | microcode
  /-- A minor code that no table assigns, or a non-zero unused bit (R224, R236). -/
  | noEntry
  /-- A combination of fields that R246 or a vector entry makes ILLEGAL. -/
  | reservedCombination
  /-- An IMX word with S or bits [23:22] non-zero (R229). -/
  | imxForm
  /-- An IMX word that ends the code section (R229). -/
  | imxEndsCode
  /-- A word that the decode mode makes ILLEGAL (Table 8.11). -/
  | decodeMode
  deriving DecidableEq, Repr

/-- Major 0x01: the minor codes and zero fields of its rows (Table 8.1; R224). -/
def decodeAluA (w : Nat) : Option Instr :=
  if fld w 0 3 = 0 then some (.add (bits 2 w 30) (bits 7 w 17) (bits 7 w 10) (bits 7 w 3)) else
  if fld w 0 3 = 1 then some (.sub (bits 2 w 30) (bits 7 w 17) (bits 7 w 10) (bits 7 w 3)) else
  if fld w 0 3 = 2 then some (.and (bits 2 w 30) (bits 7 w 17) (bits 7 w 10) (bits 7 w 3)) else
  if fld w 0 3 = 3 then some (.or (bits 2 w 30) (bits 7 w 17) (bits 7 w 10) (bits 7 w 3)) else
  if fld w 0 3 = 4 then some (.xor (bits 2 w 30) (bits 7 w 17) (bits 7 w 10) (bits 7 w 3)) else
  if fld w 0 3 = 5 then some (.andn (bits 2 w 30) (bits 7 w 17) (bits 7 w 10) (bits 7 w 3)) else
  if fld w 0 3 = 6 then some (.slt (bits 2 w 30) (bits 7 w 17) (bits 7 w 10) (bits 7 w 3)) else
  if fld w 0 3 = 7 then some (.sltn (bits 2 w 30) (bits 7 w 17) (bits 7 w 10) (bits 7 w 3)) else
  none

/-- Major 0x02: the minor codes and zero fields of its rows (Table 8.1; R224). -/
def decodeAluB (w : Nat) : Option Instr :=
  if fld w 0 3 = 0 then some (.sll (bits 2 w 30) (bits 7 w 17) (bits 7 w 10) (bits 7 w 3)) else
  if fld w 0 3 = 1 then some (.srl (bits 2 w 30) (bits 7 w 17) (bits 7 w 10) (bits 7 w 3)) else
  if fld w 0 3 = 2 then some (.sra (bits 2 w 30) (bits 7 w 17) (bits 7 w 10) (bits 7 w 3)) else
  if fld w 0 3 = 3 then some (.min (bits 2 w 30) (bits 7 w 17) (bits 7 w 10) (bits 7 w 3)) else
  if fld w 0 3 = 4 then some (.max (bits 2 w 30) (bits 7 w 17) (bits 7 w 10) (bits 7 w 3)) else
  if fld w 0 3 = 5 then some (.minn (bits 2 w 30) (bits 7 w 17) (bits 7 w 10) (bits 7 w 3)) else
  if fld w 0 3 = 6 then some (.maxn (bits 2 w 30) (bits 7 w 17) (bits 7 w 10) (bits 7 w 3)) else
  if fld w 0 3 = 7 then some (.rotr (bits 2 w 30) (bits 7 w 17) (bits 7 w 10) (bits 7 w 3)) else
  none

/-- Major 0x03: the minor codes and zero fields of its rows (Table 8.1; R224). -/
def decodeMulDiv (w : Nat) : Option Instr :=
  if fld w 0 3 = 0 then some (.mul (bits 2 w 30) (bits 7 w 17) (bits 7 w 10) (bits 7 w 3)) else
  if fld w 0 3 = 1 then some (.mulh (bits 2 w 30) (bits 7 w 17) (bits 7 w 10) (bits 7 w 3)) else
  if fld w 0 3 = 2 then some (.mulhn (bits 2 w 30) (bits 7 w 17) (bits 7 w 10) (bits 7 w 3)) else
  if fld w 0 3 = 3 then some (.mac (bits 2 w 30) (bits 7 w 17) (bits 7 w 10) (bits 7 w 3)) else
  if fld w 0 3 = 4 then some (.div (bits 2 w 30) (bits 7 w 17) (bits 7 w 10) (bits 7 w 3)) else
  if fld w 0 3 = 5 then some (.divn (bits 2 w 30) (bits 7 w 17) (bits 7 w 10) (bits 7 w 3)) else
  if fld w 0 3 = 6 then some (.rem (bits 2 w 30) (bits 7 w 17) (bits 7 w 10) (bits 7 w 3)) else
  if fld w 0 3 = 7 then some (.remn (bits 2 w 30) (bits 7 w 17) (bits 7 w 10) (bits 7 w 3)) else
  none

/-- Major 0x04: the minor codes and zero fields of its rows (Table 8.1; R224). -/
def decodeBits (w : Nat) : Option Instr :=
  if fld w 0 10 = 0 then some (.clz (bits 2 w 30) (bits 7 w 17) (bits 7 w 10)) else
  if fld w 0 10 = 1 then some (.ctz (bits 2 w 30) (bits 7 w 17) (bits 7 w 10)) else
  if fld w 0 10 = 2 then some (.popc (bits 2 w 30) (bits 7 w 17) (bits 7 w 10)) else
  if fld w 0 10 = 3 then some (.brev (bits 2 w 30) (bits 7 w 17) (bits 7 w 10)) else
  if fld w 0 3 = 4 then some (.extr (bits 2 w 30) (bits 7 w 17) (bits 7 w 10) (bits 7 w 3)) else
  if fld w 0 3 = 5 then some (.ins (bits 2 w 30) (bits 7 w 17) (bits 7 w 10) (bits 7 w 3)) else
  if fld w 0 10 = 6 then some (.bswap (bits 2 w 30) (bits 7 w 17) (bits 7 w 10)) else
  none

/-- Major 0x05: the minor codes and zero fields of its rows (Table 8.1; R224). -/
def decodeAddi (w : Nat) : Option Instr :=
  some (.addi (bits 2 w 30) (bits 7 w 17) (bits 7 w 10) (bits 10 w 0))

/-- Major 0x06: the minor codes and zero fields of its rows (Table 8.1; R224). -/
def decodeAndi (w : Nat) : Option Instr :=
  some (.andi (bits 2 w 30) (bits 7 w 17) (bits 7 w 10) (bits 10 w 0))

/-- Major 0x07: the minor codes and zero fields of its rows (Table 8.1; R224). -/
def decodeOri (w : Nat) : Option Instr :=
  some (.ori (bits 2 w 30) (bits 7 w 17) (bits 7 w 10) (bits 10 w 0))

/-- Major 0x08: the minor codes and zero fields of its rows (Table 8.1; R224). -/
def decodeXori (w : Nat) : Option Instr :=
  some (.xori (bits 2 w 30) (bits 7 w 17) (bits 7 w 10) (bits 10 w 0))

/-- Major 0x09: the minor codes and zero fields of its rows (Table 8.1; R224). -/
def decodeShifti (w : Nat) : Option Instr :=
  if fld w 5 5 = 0 then some (.slli (bits 2 w 30) (bits 7 w 17) (bits 7 w 10) (bits 5 w 0)) else
  if fld w 5 5 = 8 then some (.srli (bits 2 w 30) (bits 7 w 17) (bits 7 w 10) (bits 5 w 0)) else
  if fld w 5 5 = 16 then some (.srai (bits 2 w 30) (bits 7 w 17) (bits 7 w 10) (bits 5 w 0)) else
  if fld w 5 5 = 24 then some (.rotri (bits 2 w 30) (bits 7 w 17) (bits 7 w 10) (bits 5 w 0)) else
  none

/-- Major 0x0a: the minor codes and zero fields of its rows (Table 8.1; R224). -/
def decodeSlti (w : Nat) : Option Instr :=
  some (.slti (bits 2 w 30) (bits 7 w 17) (bits 7 w 10) (bits 10 w 0))

/-- Major 0x0b: the minor codes and zero fields of its rows (Table 8.1; R224). -/
def decodeSltni (w : Nat) : Option Instr :=
  some (.sltni (bits 2 w 30) (bits 7 w 17) (bits 7 w 10) (bits 10 w 0))

/-- Major 0x0c: the minor codes and zero fields of its rows (Table 8.1; R224). -/
def decodeLi (w : Nat) : Option Instr :=
  some (.li (bits 2 w 30) (bits 7 w 17) (bits 17 w 0))

/-- Major 0x0d: the minor codes and zero fields of its rows (Table 8.1; R224). -/
def decodeSel (w : Nat) : Option Instr :=
  some (.sel (bits 2 w 30) (bits 7 w 17) (bits 7 w 10) (bits 7 w 3) (bits 3 w 0))

/-- Major 0x0e: the minor codes and zero fields of its rows (Table 8.1; R224). -/
def decodePcmp (w : Nat) : Option Instr :=
  if fld w 0 3 = 0 then some (.pcmp (bits 2 w 30) (flag w 23) (Cond.ofCode (fld w 20 3)) (bits 3 w 17) (bits 7 w 10) (bits 7 w 3)) else
  none

/-- Major 0x0f: the minor codes and zero fields of its rows (Table 8.1; R224). -/
def decodePcmpi (w : Nat) : Option Instr :=
  some (.pcmpi (bits 2 w 30) (flag w 23) (Cond.ofCode (fld w 20 3)) (bits 3 w 17) (bits 7 w 10) (bits 10 w 0))

/-- Major 0x10: the minor codes and zero fields of its rows (Table 8.1; R224). -/
def decodeBeq (w : Nat) : Option Instr :=
  some (.beq (bits 2 w 30) (bits 7 w 17) (bits 7 w 10) (bits 10 w 0))

/-- Major 0x11: the minor codes and zero fields of its rows (Table 8.1; R224). -/
def decodeBne (w : Nat) : Option Instr :=
  some (.bne (bits 2 w 30) (bits 7 w 17) (bits 7 w 10) (bits 10 w 0))

/-- Major 0x12: the minor codes and zero fields of its rows (Table 8.1; R224). -/
def decodeBlt (w : Nat) : Option Instr :=
  some (.blt (bits 2 w 30) (bits 7 w 17) (bits 7 w 10) (bits 10 w 0))

/-- Major 0x13: the minor codes and zero fields of its rows (Table 8.1; R224). -/
def decodeBge (w : Nat) : Option Instr :=
  some (.bge (bits 2 w 30) (bits 7 w 17) (bits 7 w 10) (bits 10 w 0))

/-- Major 0x14: the minor codes and zero fields of its rows (Table 8.1; R224). -/
def decodeBltn (w : Nat) : Option Instr :=
  some (.bltn (bits 2 w 30) (bits 7 w 17) (bits 7 w 10) (bits 10 w 0))

/-- Major 0x15: the minor codes and zero fields of its rows (Table 8.1; R224). -/
def decodeBgen (w : Nat) : Option Instr :=
  some (.bgen (bits 2 w 30) (bits 7 w 17) (bits 7 w 10) (bits 10 w 0))

/-- Major 0x16: the minor codes and zero fields of its rows (Table 8.1; R224). -/
def decodeBp (w : Nat) : Option Instr :=
  some (.bp (bits 2 w 30) (bits 3 w 21) (flag w 20) (bits 20 w 0))

/-- Major 0x17: the minor codes and zero fields of its rows (Table 8.1; R224). -/
def decodeJal (w : Nat) : Option Instr :=
  some (.jal (bits 2 w 30) (bits 24 w 0))

/-- Major 0x18: the minor codes and zero fields of its rows (Table 8.1; R224). -/
def decodeJalr (w : Nat) : Option Instr :=
  some (.jalr (bits 2 w 30) (bits 7 w 17) (bits 7 w 10) (bits 10 w 0))

/-- Major 0x19: the minor codes and zero fields of its rows (Table 8.1; R224). -/
def decodeLoop (w : Nat) : Option Instr :=
  some (.loop (bits 2 w 30) (bits 7 w 17) (bits 7 w 10) (bits 10 w 0))

/-- Major 0x1a: the minor codes and zero fields of its rows (Table 8.1; R224). -/
def decodeFpA (w : Nat) : Option Instr :=
  if fld w 0 3 = 0 then some (.fadd (bits 2 w 30) (bits 7 w 17) (bits 7 w 10) (bits 7 w 3)) else
  if fld w 0 3 = 1 then some (.fsub (bits 2 w 30) (bits 7 w 17) (bits 7 w 10) (bits 7 w 3)) else
  if fld w 0 3 = 2 then some (.fmul (bits 2 w 30) (bits 7 w 17) (bits 7 w 10) (bits 7 w 3)) else
  if fld w 0 3 = 3 then some (.fmin (bits 2 w 30) (bits 7 w 17) (bits 7 w 10) (bits 7 w 3)) else
  if fld w 0 3 = 4 then some (.fmax (bits 2 w 30) (bits 7 w 17) (bits 7 w 10) (bits 7 w 3)) else
  if fld w 0 3 = 5 then some (.fdiv (bits 2 w 30) (bits 7 w 17) (bits 7 w 10) (bits 7 w 3)) else
  if fld w 0 10 = 6 then some (.fsqrt (bits 2 w 30) (bits 7 w 17) (bits 7 w 10)) else
  if fld w 0 3 = 7 then some (.fsgn (bits 2 w 30) (bits 7 w 17) (bits 7 w 10) (bits 7 w 3)) else
  none

/-- Major 0x1b: the minor codes and zero fields of its rows (Table 8.1; R224). -/
def decodeFpB (w : Nat) : Option Instr :=
  if fld w 0 3 = 0 then some (.ffma (bits 2 w 30) (bits 7 w 17) (bits 7 w 10) (bits 7 w 3)) else
  if fld w 0 3 = 1 then some (.ffms (bits 2 w 30) (bits 7 w 17) (bits 7 w 10) (bits 7 w 3)) else
  if fld w 0 10 = 2 then some (.fcvtfi (bits 2 w 30) (bits 7 w 17) (bits 7 w 10)) else
  if fld w 0 10 = 3 then some (.fcvtif (bits 2 w 30) (bits 7 w 17) (bits 7 w 10)) else
  if fld w 0 10 = 4 then some (.fcvtifz (bits 2 w 30) (bits 7 w 17) (bits 7 w 10)) else
  if fld w 0 10 = 5 then some (.fclass (bits 2 w 30) (bits 7 w 17) (bits 7 w 10)) else
  if fld w 0 10 = 6 then some (.fbf (bits 2 w 30) (bits 7 w 17) (bits 7 w 10)) else
  if fld w 0 10 = 7 then some (.fbfx (bits 2 w 30) (bits 7 w 17) (bits 7 w 10)) else
  none

/-- Major 0x1c: the minor codes and zero fields of its rows (Table 8.1; R224). -/
def decodeFpCmp (w : Nat) : Option Instr :=
  if fld w 0 3 = 0 then some (.feq (bits 2 w 30) (bits 7 w 17) (bits 7 w 10) (bits 7 w 3)) else
  if fld w 0 3 = 1 then some (.flt (bits 2 w 30) (bits 7 w 17) (bits 7 w 10) (bits 7 w 3)) else
  if fld w 0 3 = 2 then some (.fle (bits 2 w 30) (bits 7 w 17) (bits 7 w 10) (bits 7 w 3)) else
  if fld w 0 3 = 3 then some (.funord (bits 2 w 30) (bits 7 w 17) (bits 7 w 10) (bits 7 w 3)) else
  none

/-- Major 0x1d: the minor codes and zero fields of its rows (Table 8.1; R224). -/
def decodeSfun (w : Nat) : Option Instr :=
  if fld w 0 10 = 0 then some (.sfunExp2 (bits 2 w 30) (bits 7 w 17) (bits 7 w 10)) else
  if fld w 0 10 = 1 then some (.sfunLog2 (bits 2 w 30) (bits 7 w 17) (bits 7 w 10)) else
  if fld w 0 10 = 2 then some (.sfunRcp (bits 2 w 30) (bits 7 w 17) (bits 7 w 10)) else
  if fld w 0 10 = 3 then some (.sfunRsqrt (bits 2 w 30) (bits 7 w 17) (bits 7 w 10)) else
  if fld w 0 10 = 4 then some (.sfunSinpi (bits 2 w 30) (bits 7 w 17) (bits 7 w 10)) else
  if fld w 0 10 = 5 then some (.sfunCospi (bits 2 w 30) (bits 7 w 17) (bits 7 w 10)) else
  if fld w 0 10 = 6 then some (.sfunTanh (bits 2 w 30) (bits 7 w 17) (bits 7 w 10)) else
  if fld w 0 10 = 7 then some (.sfunSigmoid (bits 2 w 30) (bits 7 w 17) (bits 7 w 10)) else
  none

/-- Major 0x1e: the minor codes and zero fields of its rows (Table 8.1; R224). -/
def decodeHint0 (w : Nat) : Option Instr :=
  if fld w 0 3 = 0 then some (.pref (bits 2 w 30) (bits 7 w 17) (bits 7 w 10) (bits 7 w 3)) else
  if fld w 0 3 = 1 then some (.tclass (bits 2 w 30) (bits 7 w 17) (bits 7 w 10) (bits 7 w 3)) else
  if fld w 0 3 = 2 then some (.brhint (bits 2 w 30) (bits 7 w 17) (bits 7 w 10) (bits 7 w 3)) else
  some (.hintFallback (bits 2 w 30) (bits 7 w 17) (bits 7 w 10) (bits 7 w 3) (bits 3 w 0) false)

/-- Major 0x1f: the minor codes and zero fields of its rows (Table 8.1; R224). -/
def decodeHint1 (w : Nat) : Option Instr :=
  some (.hintFallback (bits 2 w 30) (bits 7 w 17) (bits 7 w 10) (bits 7 w 3) (bits 3 w 0) true)

/-- Major 0x20: the minor codes and zero fields of its rows (Table 8.1; R224). -/
def decodeLd (w : Nat) : Option Instr :=
  some (.ld (bits 2 w 30) (bits 7 w 17) (bits 7 w 10) (bits 6 w 4) (flag w 3) (flag w 2) (MemOrd.ofCode (fld w 0 2)))

/-- Major 0x21: the minor codes and zero fields of its rows (Table 8.1; R224). -/
def decodeSt (w : Nat) : Option Instr :=
  if fld w 2 2 = 0 then some (.st (bits 2 w 30) (bits 7 w 17) (bits 7 w 10) (bits 6 w 4) (MemOrd.ofCode (fld w 0 2))) else
  none

/-- Major 0x22: the minor codes and zero fields of its rows (Table 8.1; R224). -/
def decodeAmoRlx (w : Nat) : Option Instr :=
  (AmoOp.ofCode (fld w 0 4)).map fun v => .amoRlx (bits 2 w 30) (bits 7 w 17) (bits 7 w 10) (bits 6 w 4) v

/-- Major 0x23: the minor codes and zero fields of its rows (Table 8.1; R224). -/
def decodeAmoAcq (w : Nat) : Option Instr :=
  (AmoOp.ofCode (fld w 0 4)).map fun v => .amoAcq (bits 2 w 30) (bits 7 w 17) (bits 7 w 10) (bits 6 w 4) v

/-- Major 0x24: the minor codes and zero fields of its rows (Table 8.1; R224). -/
def decodeAmoRel (w : Nat) : Option Instr :=
  (AmoOp.ofCode (fld w 0 4)).map fun v => .amoRel (bits 2 w 30) (bits 7 w 17) (bits 7 w 10) (bits 6 w 4) v

/-- Major 0x25: the minor codes and zero fields of its rows (Table 8.1; R224). -/
def decodeAmoAr (w : Nat) : Option Instr :=
  (AmoOp.ofCode (fld w 0 4)).map fun v => .amoAr (bits 2 w 30) (bits 7 w 17) (bits 7 w 10) (bits 6 w 4) v

/-- Major 0x26: the minor codes and zero fields of its rows (Table 8.1; R224). -/
def decodeFence (w : Nat) : Option Instr :=
  if fld w 3 27 = 79691776 then (Scope.ofCode (fld w 0 3)).map fun v => .fenceFull (bits 2 w 30) v else
  if fld w 3 27 = 79691777 then (Scope.ofCode (fld w 0 3)).map fun v => .fenceAcq (bits 2 w 30) v else
  if fld w 3 27 = 79691778 then (Scope.ofCode (fld w 0 3)).map fun v => .fenceRel (bits 2 w 30) v else
  if fld w 3 27 = 79691779 then (Scope.ofCode (fld w 0 3)).map fun v => .fenceAlias (bits 2 w 30) v else
  none

/-- Major 0x27: the minor codes and zero fields of its rows (Table 8.1; R224). -/
def decodeSend (w : Nat) : Option Instr :=
  if fld w 0 2 = 0 then some (.send (bits 2 w 30) (bits 7 w 17) (bits 7 w 10) (bits 6 w 4) (MsgSize.ofCode (fld w 2 2))) else
  if fld w 0 2 = 1 then some (.sendRel (bits 2 w 30) (bits 7 w 17) (bits 7 w 10) (bits 6 w 4) (MsgSize.ofCode (fld w 2 2))) else
  none

/-- Major 0x28: the minor codes and zero fields of its rows (Table 8.1; R224). -/
def decodeRecv (w : Nat) : Option Instr :=
  if fld w 0 2 = 0 ∧ fld w 10 7 = 0 then some (.recv (bits 2 w 30) (bits 7 w 17) (bits 6 w 4) (MsgSize.ofCode (fld w 2 2))) else
  if fld w 0 2 = 1 ∧ fld w 10 7 = 0 then some (.recvAcq (bits 2 w 30) (bits 7 w 17) (bits 6 w 4) (MsgSize.ofCode (fld w 2 2))) else
  none

/-- Major 0x29: the minor codes and zero fields of its rows (Table 8.1; R224). -/
def decodeCpy (w : Nat) : Option Instr :=
  if fld w 0 10 = 0 then some (.cpy (bits 2 w 30) (bits 7 w 17) (bits 7 w 10)) else
  none

/-- Major 0x2a: the minor codes and zero fields of its rows (Table 8.1; R224). -/
def decodeSbind (w : Nat) : Option Instr :=
  if fld w 0 4 = 0 ∧ fld w 20 10 = 672 then some (.sbindR (bits 2 w 30) (bits 3 w 17) (bits 7 w 10) (bits 6 w 4)) else
  if fld w 0 4 = 8 ∧ fld w 20 10 = 672 then some (.sbindW (bits 2 w 30) (bits 3 w 17) (bits 7 w 10) (bits 6 w 4)) else
  none

/-- Major 0x2b: the minor codes and zero fields of its rows (Table 8.1; R224). -/
def decodeSctl (w : Nat) : Option Instr :=
  if fld w 3 27 = 90177536 then some (.sctlUnbind (bits 2 w 30) (bits 3 w 0)) else
  if fld w 3 14 = 4 then some (.sctlPos (bits 2 w 30) (bits 7 w 17) (bits 3 w 0)) else
  none

/-- Major 0x2c: the minor codes and zero fields of its rows (Table 8.1; R224). -/
def decodeBar (w : Nat) : Option Instr :=
  if fld w 0 10 = 0 ∧ fld w 17 13 = 5632 then some (.barCore (bits 2 w 30) (bits 7 w 10)) else
  if fld w 0 10 = 32 ∧ fld w 17 13 = 5632 then some (.barTile (bits 2 w 30) (bits 7 w 10)) else
  if fld w 0 30 = 738197568 then some (.barGrid (bits 2 w 30)) else
  none

/-- Major 0x2d: the minor codes and zero fields of its rows (Table 8.1; R224). -/
def decodeGaddr (w : Nat) : Option Instr :=
  if fld w 0 4 = 0 then some (.gaddr (bits 2 w 30) (bits 7 w 17) (bits 7 w 10) (bits 6 w 4)) else
  none

/-- Major 0x30: the minor codes and zero fields of its rows (Table 8.1; R224). -/
def decodeVctl (w : Nat) : Option Instr :=
  if fld w 0 10 = 0 then some (.vclaim (bits 2 w 30) (bits 7 w 17) (bits 7 w 10)) else
  if fld w 0 30 = 805306400 then some (.vyield (bits 2 w 30)) else
  if fld w 0 10 = 64 then some (.vreneg (bits 2 w 30) (bits 7 w 17) (bits 7 w 10)) else
  none

/-- Major 0x31: the minor codes and zero fields of its rows (Table 8.1; R224). -/
def decodeVint (w : Nat) : Option Instr :=
  if fld w 5 4 = 0 then (VWidth.ofCode (fld w 3 2)).map fun v => .vadd (bits 2 w 30) (bits 5 w 19) (bits 5 w 14) (bits 5 w 9) v (bits 3 w 0) else
  if fld w 5 4 = 1 then (VWidth.ofCode (fld w 3 2)).map fun v => .vsub (bits 2 w 30) (bits 5 w 19) (bits 5 w 14) (bits 5 w 9) v (bits 3 w 0) else
  if fld w 5 4 = 2 then (VWidth.ofCode (fld w 3 2)).map fun v => .vmul (bits 2 w 30) (bits 5 w 19) (bits 5 w 14) (bits 5 w 9) v (bits 3 w 0) else
  if fld w 5 4 = 3 then (VWidth.ofCode (fld w 3 2)).map fun v => .vmulh (bits 2 w 30) (bits 5 w 19) (bits 5 w 14) (bits 5 w 9) v (bits 3 w 0) else
  if fld w 5 4 = 4 then (VWidth.ofCode (fld w 3 2)).map fun v => .vand (bits 2 w 30) (bits 5 w 19) (bits 5 w 14) (bits 5 w 9) v (bits 3 w 0) else
  if fld w 5 4 = 5 then (VWidth.ofCode (fld w 3 2)).map fun v => .vor (bits 2 w 30) (bits 5 w 19) (bits 5 w 14) (bits 5 w 9) v (bits 3 w 0) else
  if fld w 5 4 = 6 then (VWidth.ofCode (fld w 3 2)).map fun v => .vxor (bits 2 w 30) (bits 5 w 19) (bits 5 w 14) (bits 5 w 9) v (bits 3 w 0) else
  if fld w 5 4 = 7 then (VWidth.ofCode (fld w 3 2)).map fun v => .vsll (bits 2 w 30) (bits 5 w 19) (bits 5 w 14) (bits 5 w 9) v (bits 3 w 0) else
  if fld w 5 4 = 8 then (VWidth.ofCode (fld w 3 2)).map fun v => .vsrl (bits 2 w 30) (bits 5 w 19) (bits 5 w 14) (bits 5 w 9) v (bits 3 w 0) else
  if fld w 5 4 = 9 then (VWidth.ofCode (fld w 3 2)).map fun v => .vsra (bits 2 w 30) (bits 5 w 19) (bits 5 w 14) (bits 5 w 9) v (bits 3 w 0) else
  if fld w 5 4 = 10 then (VWidth.ofCode (fld w 3 2)).map fun v => .vmin (bits 2 w 30) (bits 5 w 19) (bits 5 w 14) (bits 5 w 9) v (bits 3 w 0) else
  if fld w 5 4 = 11 then (VWidth.ofCode (fld w 3 2)).map fun v => .vmax (bits 2 w 30) (bits 5 w 19) (bits 5 w 14) (bits 5 w 9) v (bits 3 w 0) else
  if fld w 5 4 = 12 then (VWidth.ofCode (fld w 3 2)).map fun v => .vminn (bits 2 w 30) (bits 5 w 19) (bits 5 w 14) (bits 5 w 9) v (bits 3 w 0) else
  if fld w 5 4 = 13 then (VWidth.ofCode (fld w 3 2)).map fun v => .vmaxn (bits 2 w 30) (bits 5 w 19) (bits 5 w 14) (bits 5 w 9) v (bits 3 w 0) else
  if fld w 5 4 = 14 then (VWidth.ofCode (fld w 3 2)).map fun v => .vadds (bits 2 w 30) (bits 5 w 19) (bits 5 w 14) (bits 5 w 9) v (bits 3 w 0) else
  if fld w 5 4 = 15 then (VWidth.ofCode (fld w 3 2)).map fun v => .vsubs (bits 2 w 30) (bits 5 w 19) (bits 5 w 14) (bits 5 w 9) v (bits 3 w 0) else
  none

/-- Major 0x32: the minor codes and zero fields of its rows (Table 8.1; R224). -/
def decodeVflt (w : Nat) : Option Instr :=
  if fld w 4 5 = 0 then some (.vfadd (bits 2 w 30) (bits 5 w 19) (bits 5 w 14) (bits 5 w 9) (FWidth.ofCode (fld w 3 1)) (bits 3 w 0)) else
  if fld w 4 5 = 1 then some (.vfsub (bits 2 w 30) (bits 5 w 19) (bits 5 w 14) (bits 5 w 9) (FWidth.ofCode (fld w 3 1)) (bits 3 w 0)) else
  if fld w 4 5 = 2 then some (.vfmul (bits 2 w 30) (bits 5 w 19) (bits 5 w 14) (bits 5 w 9) (FWidth.ofCode (fld w 3 1)) (bits 3 w 0)) else
  if fld w 4 5 = 3 then some (.vffma (bits 2 w 30) (bits 5 w 19) (bits 5 w 14) (bits 5 w 9) (FWidth.ofCode (fld w 3 1)) (bits 3 w 0)) else
  if fld w 4 5 = 4 then some (.vffms (bits 2 w 30) (bits 5 w 19) (bits 5 w 14) (bits 5 w 9) (FWidth.ofCode (fld w 3 1)) (bits 3 w 0)) else
  if fld w 4 5 = 5 then some (.vfmin (bits 2 w 30) (bits 5 w 19) (bits 5 w 14) (bits 5 w 9) (FWidth.ofCode (fld w 3 1)) (bits 3 w 0)) else
  if fld w 4 5 = 6 then some (.vfmax (bits 2 w 30) (bits 5 w 19) (bits 5 w 14) (bits 5 w 9) (FWidth.ofCode (fld w 3 1)) (bits 3 w 0)) else
  if fld w 4 5 = 7 then some (.vfdiv (bits 2 w 30) (bits 5 w 19) (bits 5 w 14) (bits 5 w 9) (FWidth.ofCode (fld w 3 1)) (bits 3 w 0)) else
  if fld w 4 10 = 8 then some (.vfsqrt (bits 2 w 30) (bits 5 w 19) (bits 5 w 14) (FWidth.ofCode (fld w 3 1)) (bits 3 w 0)) else
  if fld w 4 10 = 9 then some (.vfabs (bits 2 w 30) (bits 5 w 19) (bits 5 w 14) (FWidth.ofCode (fld w 3 1)) (bits 3 w 0)) else
  if fld w 4 10 = 10 then some (.vfneg (bits 2 w 30) (bits 5 w 19) (bits 5 w 14) (FWidth.ofCode (fld w 3 1)) (bits 3 w 0)) else
  if fld w 4 10 = 11 then some (.vfexp2 (bits 2 w 30) (bits 5 w 19) (bits 5 w 14) (FWidth.ofCode (fld w 3 1)) (bits 3 w 0)) else
  if fld w 4 10 = 12 then some (.vflog2 (bits 2 w 30) (bits 5 w 19) (bits 5 w 14) (FWidth.ofCode (fld w 3 1)) (bits 3 w 0)) else
  if fld w 4 10 = 13 then some (.vfrcp (bits 2 w 30) (bits 5 w 19) (bits 5 w 14) (FWidth.ofCode (fld w 3 1)) (bits 3 w 0)) else
  if fld w 4 10 = 14 then some (.vfrsqrt (bits 2 w 30) (bits 5 w 19) (bits 5 w 14) (FWidth.ofCode (fld w 3 1)) (bits 3 w 0)) else
  none

/-- Major 0x33: the minor codes and zero fields of its rows (Table 8.1; R224). -/
def decodeVsca (w : Nat) : Option Instr :=
  if fld w 3 4 = 0 ∧ fld w 14 5 = 0 then some (.vsplat (bits 2 w 30) (bits 5 w 19) (bits 7 w 7) (bits 3 w 0)) else
  if fld w 3 4 = 1 then some (.vextr (bits 2 w 30) (bits 5 w 19) (bits 5 w 14) (bits 7 w 7) (bits 3 w 0)) else
  if fld w 3 4 = 2 then some (.vins (bits 2 w 30) (bits 5 w 19) (bits 5 w 14) (bits 7 w 7) (bits 3 w 0)) else
  if fld w 3 4 = 3 then some (.vgaddr (bits 2 w 30) (bits 5 w 19) (bits 5 w 14) (bits 7 w 7) (bits 3 w 0)) else
  none

/-- Major 0x34: the minor codes and zero fields of its rows (Table 8.1; R224). -/
def decodeVmem (w : Nat) : Option Instr :=
  if fld w 3 3 = 0 then some (.vld (bits 2 w 30) (bits 5 w 19) (bits 6 w 13) (bits 7 w 6) (bits 3 w 0)) else
  if fld w 3 3 = 1 then some (.vst (bits 2 w 30) (bits 5 w 19) (bits 6 w 13) (bits 7 w 6) (bits 3 w 0)) else
  if fld w 3 3 = 2 then some (.vlds (bits 2 w 30) (bits 5 w 19) (bits 6 w 13) (bits 7 w 6) (bits 3 w 0)) else
  if fld w 3 3 = 3 then some (.vsts (bits 2 w 30) (bits 5 w 19) (bits 6 w 13) (bits 7 w 6) (bits 3 w 0)) else
  if fld w 3 3 = 4 then some (.vgath (bits 2 w 30) (bits 5 w 19) (bits 6 w 13) (bits 7 w 6) (bits 3 w 0)) else
  if fld w 3 3 = 5 then some (.vscat (bits 2 w 30) (bits 5 w 19) (bits 6 w 13) (bits 7 w 6) (bits 3 w 0)) else
  if fld w 3 10 = 6 ∧ fld w 16 3 = 0 then some (.vpop (bits 2 w 30) (bits 5 w 19) (bits 3 w 13) (bits 3 w 0)) else
  if fld w 0 13 = 56 ∧ fld w 16 3 = 0 then some (.vpush (bits 2 w 30) (bits 5 w 19) (bits 3 w 13)) else
  none

/-- Major 0x35: the minor codes and zero fields of its rows (Table 8.1; R224). -/
def decodeVred (w : Nat) : Option Instr :=
  if fld w 3 6 = 0 then some (.vrsum (bits 2 w 30) (bits 5 w 19) (bits 5 w 14) (bits 5 w 9) (bits 3 w 0)) else
  if fld w 3 6 = 1 then some (.vrfsum (bits 2 w 30) (bits 5 w 19) (bits 5 w 14) (bits 5 w 9) (bits 3 w 0)) else
  if fld w 3 6 = 2 then some (.vrmin (bits 2 w 30) (bits 5 w 19) (bits 5 w 14) (bits 5 w 9) (bits 3 w 0)) else
  if fld w 3 6 = 3 then some (.vrmax (bits 2 w 30) (bits 5 w 19) (bits 5 w 14) (bits 5 w 9) (bits 3 w 0)) else
  if fld w 3 6 = 4 then some (.vrfmin (bits 2 w 30) (bits 5 w 19) (bits 5 w 14) (bits 5 w 9) (bits 3 w 0)) else
  if fld w 3 6 = 5 then some (.vrfmax (bits 2 w 30) (bits 5 w 19) (bits 5 w 14) (bits 5 w 9) (bits 3 w 0)) else
  if fld w 0 12 = 48 then some (.vrecvadd (bits 2 w 30) (bits 5 w 19) (bits 7 w 12)) else
  none

/-- Major 0x36: the minor codes and zero fields of its rows (Table 8.1; R224). -/
def decodeVnar (w : Nat) : Option Instr :=
  if fld w 0 14 = 0 then some (.vpackl6 (bits 2 w 30) (bits 5 w 19) (bits 5 w 14)) else
  if fld w 0 14 = 8 then some (.vunpkl6 (bits 2 w 30) (bits 5 w 19) (bits 5 w 14)) else
  if fld w 0 14 = 16 then some (.vquant (bits 2 w 30) (bits 5 w 19) (bits 5 w 14)) else
  if fld w 0 9 = 24 then some (.vdeq (bits 2 w 30) (bits 5 w 19) (bits 5 w 14) (bits 5 w 9)) else
  if fld w 0 14 = 32 then some (.vcvtbf (bits 2 w 30) (bits 5 w 19) (bits 5 w 14)) else
  if fld w 0 14 = 40 then some (.vcvtf (bits 2 w 30) (bits 5 w 19) (bits 5 w 14)) else
  if fld w 0 9 = 48 then some (.baddq (bits 2 w 30) (bits 5 w 19) (bits 5 w 14) (bits 5 w 9)) else
  none

/-- Major 0x37: the minor codes and zero fields of its rows (Table 8.1; R224). -/
def decodeVperm (w : Nat) : Option Instr :=
  if fld w 3 6 = 0 then some (.vpermv (bits 2 w 30) (bits 5 w 19) (bits 5 w 14) (bits 5 w 9) (bits 3 w 0)) else
  if fld w 3 6 = 1 then some (.vslup (bits 2 w 30) (bits 5 w 19) (bits 5 w 14) (bits 5 w 9) (bits 3 w 0)) else
  if fld w 3 6 = 2 then some (.vsldn (bits 2 w 30) (bits 5 w 19) (bits 5 w 14) (bits 5 w 9) (bits 3 w 0)) else
  if fld w 3 6 = 3 then some (.vmerge (bits 2 w 30) (bits 5 w 19) (bits 5 w 14) (bits 5 w 9) (bits 3 w 0)) else
  if fld w 0 9 = 32 ∧ fld w 12 2 = 0 ∧ fld w 17 2 = 0 ∧ fld w 22 8 = 220 then some (.vkand (bits 2 w 30) (bits 3 w 19) (bits 3 w 14) (bits 3 w 9)) else
  if fld w 0 9 = 40 ∧ fld w 12 2 = 0 ∧ fld w 17 2 = 0 ∧ fld w 22 8 = 220 then some (.vkor (bits 2 w 30) (bits 3 w 19) (bits 3 w 14) (bits 3 w 9)) else
  if fld w 0 9 = 48 ∧ fld w 12 2 = 0 ∧ fld w 17 2 = 0 ∧ fld w 22 8 = 220 then some (.vkxor (bits 2 w 30) (bits 3 w 19) (bits 3 w 14) (bits 3 w 9)) else
  if fld w 0 14 = 56 ∧ fld w 17 2 = 0 ∧ fld w 22 8 = 220 then some (.vknot (bits 2 w 30) (bits 3 w 19) (bits 3 w 14)) else
  if fld w 6 3 = 2 ∧ fld w 22 8 = 220 then some (.vcmp (bits 2 w 30) (bits 3 w 19) (bits 5 w 14) (bits 5 w 9) (VCond.ofCode (fld w 3 3)) (bits 3 w 0)) else
  none

/-- Major 0x38: the minor codes and zero fields of its rows (Table 8.1; R224). -/
def decodeRepf (w : Nat) : Option Instr :=
  if fld w 6 7 = 0 then some (.repf (bits 2 w 30) (bits 7 w 17) (bits 4 w 13) (bits 2 w 4) (bits 2 w 2) (bits 2 w 0)) else
  none

/-- Major 0x39: the minor codes and zero fields of its rows (Table 8.1; R224). -/
def decodeMlease (w : Nat) : Option Instr :=
  if fld w 0 30 = 956301312 then some (.mlease (bits 2 w 30)) else
  if fld w 0 30 = 956301313 then some (.mleaseRel (bits 2 w 30)) else
  none

/-- Major 0x3a: the minor codes and zero fields of its rows (Table 8.1; R224). -/
def decodeMloads (w : Nat) : Option Instr :=
  if fld w 0 4 = 0 ∧ fld w 5 2 = 0 ∧ fld w 8 3 = 0 ∧ fld w 18 12 = 3712 then some (.mloads (bits 2 w 30) (bits 7 w 11) (flag w 7) (flag w 4)) else
  if fld w 0 2 = 0 ∧ fld w 3 15 = 1 ∧ fld w 21 9 = 464 then some (.mloadsFb (bits 2 w 30) (bits 3 w 18) (flag w 2)) else
  if fld w 0 30 = 973078529 then some (.mswap (bits 2 w 30)) else
  none

/-- Major 0x3b: the minor codes and zero fields of its rows (Table 8.1; R224). -/
def decodeMma (w : Nat) : Option Instr :=
  if fld w 0 4 = 0 ∧ fld w 18 3 = 0 then some (.mma (bits 2 w 30) (bits 3 w 21) (bits 7 w 11) (bits 3 w 8) (flag w 7) (flag w 6) (flag w 5) (flag w 4)) else
  if fld w 0 2 = 0 ∧ fld w 3 3 = 1 ∧ fld w 7 4 = 0 then some (.mmaFb (bits 2 w 30) (bits 3 w 21) (bits 3 w 18) (bits 7 w 11) (flag w 6) (flag w 2)) else
  none

/-- Major 0x3c: the minor codes and zero fields of its rows (Table 8.1; R224). -/
def decodeMiter (w : Nat) : Option Instr :=
  if fld w 0 3 = 0 ∧ fld w 4 7 = 0 ∧ fld w 18 3 = 0 then some (.miterNs3 (bits 2 w 30) (bits 3 w 21) (bits 7 w 11) (flag w 3)) else
  if fld w 0 3 = 1 ∧ fld w 4 7 = 0 ∧ fld w 18 3 = 0 then some (.miterNs5 (bits 2 w 30) (bits 3 w 21) (bits 7 w 11) (flag w 3)) else
  if fld w 0 3 = 2 ∧ fld w 4 7 = 0 then some (.miterInv (bits 2 w 30) (bits 3 w 21) (bits 3 w 18) (bits 7 w 11) (flag w 3)) else
  if fld w 0 3 = 3 ∧ fld w 4 7 = 0 ∧ fld w 18 3 = 0 then some (.mpoly (bits 2 w 30) (bits 3 w 21) (bits 7 w 11) (flag w 3)) else
  none

/-- Major 0x3d: the minor codes and zero fields of its rows (Table 8.1; R224). -/
def decodeMacc (w : Nat) : Option Instr :=
  if fld w 0 21 = 0 then some (.mzero (bits 2 w 30) (bits 3 w 21)) else
  if fld w 0 3 = 1 ∧ fld w 7 1 = 0 ∧ fld w 18 3 = 0 then some (.mdrain (bits 2 w 30) (bits 3 w 21) (bits 7 w 11) (bits 3 w 8) (flag w 6) (flag w 5) (flag w 4) (flag w 3)) else
  if fld w 0 3 = 2 ∧ fld w 5 6 = 0 ∧ fld w 18 3 = 0 then some (.mtov (bits 2 w 30) (bits 3 w 21) (bits 7 w 11) (flag w 4) (flag w 3)) else
  if fld w 0 11 = 3 ∧ fld w 18 3 = 0 then some (.mcoef (bits 2 w 30) (bits 3 w 21) (bits 7 w 11)) else
  if fld w 0 11 = 11 ∧ fld w 18 3 = 0 then some (.mcoefR (bits 2 w 30) (bits 3 w 21) (bits 7 w 11)) else
  if fld w 0 11 = 4 ∧ fld w 18 12 = 3904 then some (.mstatWait (bits 2 w 30) (bits 7 w 11)) else
  if fld w 0 11 = 12 ∧ fld w 18 12 = 3904 then some (.mstatGrp (bits 2 w 30) (bits 7 w 11)) else
  if fld w 0 11 = 20 ∧ fld w 18 12 = 3904 then some (.mstatPlane (bits 2 w 30) (bits 7 w 11)) else
  if fld w 0 11 = 28 ∧ fld w 18 12 = 3904 then some (.mstatCmds (bits 2 w 30) (bits 7 w 11)) else
  if fld w 0 3 = 5 ∧ fld w 6 24 = 15990784 then some (.macca (bits 2 w 30) (bits 3 w 3)) else
  none

/-- Major 0x3e: the minor codes and zero fields of its rows (Table 8.1; R224). -/
def decodeSys (w : Nat) : Option Instr :=
  if fld w 0 10 = 0 ∧ fld w 17 13 = 7936 then some (.trap (bits 2 w 30) (bits 7 w 10)) else
  if fld w 0 30 = 1040187424 then some (.eret (bits 2 w 30)) else
  if fld w 5 5 = 2 then some (.csrr (bits 2 w 30) (bits 7 w 17) (bits 7 w 10) (bits 5 w 0)) else
  if fld w 5 5 = 3 then some (.csrw (bits 2 w 30) (bits 7 w 17) (bits 7 w 10) (bits 5 w 0)) else
  if fld w 0 10 = 128 then some (.tspawn (bits 2 w 30) (bits 7 w 17) (bits 7 w 10)) else
  if fld w 0 30 = 1040187552 then some (.texit (bits 2 w 30)) else
  if fld w 0 30 = 1040187584 then some (.tyield (bits 2 w 30)) else
  if fld w 0 17 = 224 then some (.taskget (bits 2 w 30) (bits 7 w 17)) else
  if fld w 0 10 = 256 then some (.taskput (bits 2 w 30) (bits 7 w 17) (bits 7 w 10)) else
  if fld w 0 10 = 288 ∧ fld w 17 13 = 7936 then some (.migrate (bits 2 w 30) (bits 7 w 10)) else
  if fld w 0 10 = 320 ∧ fld w 17 13 = 7936 then some (.follow (bits 2 w 30) (bits 7 w 10)) else
  if fld w 0 30 = 1040187744 then some (.unfollow (bits 2 w 30)) else
  if fld w 1 9 = 192 then some (.symwait (bits 2 w 30) (bits 7 w 17) (bits 7 w 10) (flag w 0)) else
  if fld w 0 10 = 416 then some (.symq (bits 2 w 30) (bits 7 w 17) (bits 7 w 10)) else
  if fld w 1 16 = 224 then some (.time (bits 2 w 30) (bits 7 w 17) (flag w 0)) else
  if fld w 0 10 = 480 then some (.setfmt (bits 2 w 30) (bits 7 w 17) (bits 7 w 10)) else
  if fld w 0 10 = 512 ∧ fld w 17 13 = 7936 then some (.rlwait (bits 2 w 30) (bits 7 w 10)) else
  if fld w 2 8 = 136 ∧ fld w 17 13 = 7936 then some (.tlbinv (bits 2 w 30) (bits 7 w 10) (flag w 1) (flag w 0)) else
  if fld w 0 30 = 1040187968 then some (.halt (bits 2 w 30)) else
  if fld w 0 30 = 1040188000 then some (.cancelLaunch (bits 2 w 30)) else
  if fld w 0 30 = 1040188001 then some (.cancelGraph (bits 2 w 30)) else
  if fld w 0 30 = 1040188002 then some (.cancelPhase (bits 2 w 30)) else
  if fld w 0 30 = 1040188003 then some (.cancelJob (bits 2 w 30)) else
  none

/-- R236 steps 2 to 4: the row of OP, its minor code, and its unused fields. -/
def decodeRow (w : Nat) : Option Instr :=
  match fld w 24 6 with
  | 1 => decodeAluA w
  | 2 => decodeAluB w
  | 3 => decodeMulDiv w
  | 4 => decodeBits w
  | 5 => decodeAddi w
  | 6 => decodeAndi w
  | 7 => decodeOri w
  | 8 => decodeXori w
  | 9 => decodeShifti w
  | 10 => decodeSlti w
  | 11 => decodeSltni w
  | 12 => decodeLi w
  | 13 => decodeSel w
  | 14 => decodePcmp w
  | 15 => decodePcmpi w
  | 16 => decodeBeq w
  | 17 => decodeBne w
  | 18 => decodeBlt w
  | 19 => decodeBge w
  | 20 => decodeBltn w
  | 21 => decodeBgen w
  | 22 => decodeBp w
  | 23 => decodeJal w
  | 24 => decodeJalr w
  | 25 => decodeLoop w
  | 26 => decodeFpA w
  | 27 => decodeFpB w
  | 28 => decodeFpCmp w
  | 29 => decodeSfun w
  | 30 => decodeHint0 w
  | 31 => decodeHint1 w
  | 32 => decodeLd w
  | 33 => decodeSt w
  | 34 => decodeAmoRlx w
  | 35 => decodeAmoAcq w
  | 36 => decodeAmoRel w
  | 37 => decodeAmoAr w
  | 38 => decodeFence w
  | 39 => decodeSend w
  | 40 => decodeRecv w
  | 41 => decodeCpy w
  | 42 => decodeSbind w
  | 43 => decodeSctl w
  | 44 => decodeBar w
  | 45 => decodeGaddr w
  | 48 => decodeVctl w
  | 49 => decodeVint w
  | 50 => decodeVflt w
  | 51 => decodeVsca w
  | 52 => decodeVmem w
  | 53 => decodeVred w
  | 54 => decodeVnar w
  | 55 => decodeVperm w
  | 56 => decodeRepf w
  | 57 => decodeMlease w
  | 58 => decodeMloads w
  | 59 => decodeMma w
  | 60 => decodeMiter w
  | 61 => decodeMacc w
  | 62 => decodeSys w
  | _ => none

/-- R236 step 4 for the combinations of R246: an entry's instruction, unless its fields may not stand together. -/
def admitRow : Option Instr → Except DecodeError Instr
  | none => .error .noEntry
  | some i => if i.encodable then .ok i else .error .reservedCombination

/-- Decodes one word in W3 mode; an IMX word needs the word after it (R227), so it is not one of these. -/
def decodeWord (w : Nat) : Except DecodeError Instr :=
  let op := fld w 24 6
  if op = 0x00 ∨ op = 0x2F then .error .deadMajor
  else if op = 0x2E then .error .microcode
  else if op = 0x3F then .error .imxForm
  else admitRow (decodeRow w)

/-- A word of major 0x3F with S and bits [23:22] zero (R227, R229). -/
def isImxWord (w : Nat) : Bool := w / 2 ^ 22 == 0xFC

/-- The word that four bytes in increasing address order make (R220: little-endian). -/
def wordOfBytes (b0 b1 b2 b3 : Byte) : Nat :=
  b0.toNat + b1.toNat * 2 ^ 8 + b2.toNat * 2 ^ 16 + b3.toNat * 2 ^ 24

/-- The four bytes of a word in increasing address order (R220). -/
def bytesOfWord (w : Word) : List Byte :=
  [BitVec.ofNat 8 w.toNat, BitVec.ofNat 8 (w.toNat / 2 ^ 8), BitVec.ofNat 8 (w.toNat / 2 ^ 16),
    BitVec.ofNat 8 (w.toNat / 2 ^ 24)]

/-- Decodes the first instruction of a byte sequence in W3 mode and answers the bytes after it (R220, R227). -/
def decodeBytes : List Byte → Except DecodeError (Instr × List Byte)
  | b0 :: b1 :: b2 :: b3 :: rest =>
    let w := wordOfBytes b0 b1 b2 b3
    if isImxWord w then
      match rest with
      | c0 :: c1 :: c2 :: c3 :: rest' => .ok (.imx (bits 22 w 0) (BitVec.ofNat 32 (wordOfBytes c0 c1 c2 c3)), rest')
      | _ => .error .imxEndsCode
    else (decodeWord w).map fun i => (i, rest)
  | _ => .error .truncated

/-- Whether a decode mode makes a word ILLEGAL that W3 mode decodes (Table 8.11; hint words are exempt, R247). -/
def modeRejects (m : DMode) (w : Nat) : Bool :=
  let op := fld w 24 6
  match m with
  | .w3 => false
  | .w2 => op == 0x38 || op == 0x3C
  | .w1 => (0x30 ≤ op && op ≤ 0x3D) || (fld w 30 2 != 0 && op != 0x1E && op != 0x1F)

/-- Whether the major of a word accepts an IMX prefix word (Table 7.6). -/
def acceptsImx (w : Nat) : Bool :=
  let op := fld w 24 6
  (0x05 ≤ op && op ≤ 0x0C) || op == 0x0F || (0x10 ≤ op && op ≤ 0x15) || op == 0x18

/-- The bytes of an instruction whose bits w are numbered as the opcode table numbers them; bits above nbits are zero. -/
def bytesOfTable (nbits w : Nat) : List Byte :=
  let v := w % 2 ^ nbits
  (List.range 8).map fun n => BitVec.ofNat 8 (v / 2 ^ (8 * n))

/-- The instruction the decoder reads from the bits w of an opcode-table row; none where it refuses. -/
def decodeTableWord (nbits w : Nat) : Option Instr :=
  match decodeBytes (bytesOfTable nbits w) with
  | .ok (i, _) => some i
  | .error _ => none

/-- A word from its fixed bits and its fields, each with the place of its lowest bit. -/
def pack (base : Nat) : List (Nat × Nat) → Nat
  | [] => base
  | f :: fs => pack (base + f.1 * 2 ^ f.2) fs

/-- The first word of an instruction, built from its fields (Tables 7.5 and 8.1 to 8.10); events have no word. -/
def encodeWord (i : Instr) : Nat :=
  match i with
  | .add s d a b => pack 0x01000000 [(s.toNat, 30), (d.toNat, 17), (a.toNat, 10), (b.toNat, 3)]
  | .sub s d a b => pack 0x01000001 [(s.toNat, 30), (d.toNat, 17), (a.toNat, 10), (b.toNat, 3)]
  | .and s d a b => pack 0x01000002 [(s.toNat, 30), (d.toNat, 17), (a.toNat, 10), (b.toNat, 3)]
  | .or s d a b => pack 0x01000003 [(s.toNat, 30), (d.toNat, 17), (a.toNat, 10), (b.toNat, 3)]
  | .xor s d a b => pack 0x01000004 [(s.toNat, 30), (d.toNat, 17), (a.toNat, 10), (b.toNat, 3)]
  | .andn s d a b => pack 0x01000005 [(s.toNat, 30), (d.toNat, 17), (a.toNat, 10), (b.toNat, 3)]
  | .slt s d a b => pack 0x01000006 [(s.toNat, 30), (d.toNat, 17), (a.toNat, 10), (b.toNat, 3)]
  | .sltn s d a b => pack 0x01000007 [(s.toNat, 30), (d.toNat, 17), (a.toNat, 10), (b.toNat, 3)]
  | .sll s d a b => pack 0x02000000 [(s.toNat, 30), (d.toNat, 17), (a.toNat, 10), (b.toNat, 3)]
  | .srl s d a b => pack 0x02000001 [(s.toNat, 30), (d.toNat, 17), (a.toNat, 10), (b.toNat, 3)]
  | .sra s d a b => pack 0x02000002 [(s.toNat, 30), (d.toNat, 17), (a.toNat, 10), (b.toNat, 3)]
  | .min s d a b => pack 0x02000003 [(s.toNat, 30), (d.toNat, 17), (a.toNat, 10), (b.toNat, 3)]
  | .max s d a b => pack 0x02000004 [(s.toNat, 30), (d.toNat, 17), (a.toNat, 10), (b.toNat, 3)]
  | .minn s d a b => pack 0x02000005 [(s.toNat, 30), (d.toNat, 17), (a.toNat, 10), (b.toNat, 3)]
  | .maxn s d a b => pack 0x02000006 [(s.toNat, 30), (d.toNat, 17), (a.toNat, 10), (b.toNat, 3)]
  | .rotr s d a b => pack 0x02000007 [(s.toNat, 30), (d.toNat, 17), (a.toNat, 10), (b.toNat, 3)]
  | .mul s d a b => pack 0x03000000 [(s.toNat, 30), (d.toNat, 17), (a.toNat, 10), (b.toNat, 3)]
  | .mulh s d a b => pack 0x03000001 [(s.toNat, 30), (d.toNat, 17), (a.toNat, 10), (b.toNat, 3)]
  | .mulhn s d a b => pack 0x03000002 [(s.toNat, 30), (d.toNat, 17), (a.toNat, 10), (b.toNat, 3)]
  | .mac s d a b => pack 0x03000003 [(s.toNat, 30), (d.toNat, 17), (a.toNat, 10), (b.toNat, 3)]
  | .div s d a b => pack 0x03000004 [(s.toNat, 30), (d.toNat, 17), (a.toNat, 10), (b.toNat, 3)]
  | .divn s d a b => pack 0x03000005 [(s.toNat, 30), (d.toNat, 17), (a.toNat, 10), (b.toNat, 3)]
  | .rem s d a b => pack 0x03000006 [(s.toNat, 30), (d.toNat, 17), (a.toNat, 10), (b.toNat, 3)]
  | .remn s d a b => pack 0x03000007 [(s.toNat, 30), (d.toNat, 17), (a.toNat, 10), (b.toNat, 3)]
  | .clz s d a => pack 0x04000000 [(s.toNat, 30), (d.toNat, 17), (a.toNat, 10)]
  | .ctz s d a => pack 0x04000001 [(s.toNat, 30), (d.toNat, 17), (a.toNat, 10)]
  | .popc s d a => pack 0x04000002 [(s.toNat, 30), (d.toNat, 17), (a.toNat, 10)]
  | .brev s d a => pack 0x04000003 [(s.toNat, 30), (d.toNat, 17), (a.toNat, 10)]
  | .extr s d a b => pack 0x04000004 [(s.toNat, 30), (d.toNat, 17), (a.toNat, 10), (b.toNat, 3)]
  | .ins s d a b => pack 0x04000005 [(s.toNat, 30), (d.toNat, 17), (a.toNat, 10), (b.toNat, 3)]
  | .bswap s d a => pack 0x04000006 [(s.toNat, 30), (d.toNat, 17), (a.toNat, 10)]
  | .addi s d a i => pack 0x05000000 [(s.toNat, 30), (d.toNat, 17), (a.toNat, 10), (i.toNat, 0)]
  | .andi s d a i => pack 0x06000000 [(s.toNat, 30), (d.toNat, 17), (a.toNat, 10), (i.toNat, 0)]
  | .ori s d a i => pack 0x07000000 [(s.toNat, 30), (d.toNat, 17), (a.toNat, 10), (i.toNat, 0)]
  | .xori s d a i => pack 0x08000000 [(s.toNat, 30), (d.toNat, 17), (a.toNat, 10), (i.toNat, 0)]
  | .slli s d a k => pack 0x09000000 [(s.toNat, 30), (d.toNat, 17), (a.toNat, 10), (k.toNat, 0)]
  | .srli s d a k => pack 0x09000100 [(s.toNat, 30), (d.toNat, 17), (a.toNat, 10), (k.toNat, 0)]
  | .srai s d a k => pack 0x09000200 [(s.toNat, 30), (d.toNat, 17), (a.toNat, 10), (k.toNat, 0)]
  | .rotri s d a k => pack 0x09000300 [(s.toNat, 30), (d.toNat, 17), (a.toNat, 10), (k.toNat, 0)]
  | .slti s d a i => pack 0x0A000000 [(s.toNat, 30), (d.toNat, 17), (a.toNat, 10), (i.toNat, 0)]
  | .sltni s d a i => pack 0x0B000000 [(s.toNat, 30), (d.toNat, 17), (a.toNat, 10), (i.toNat, 0)]
  | .li s d i => pack 0x0C000000 [(s.toNat, 30), (d.toNat, 17), (i.toNat, 0)]
  | .sel s d a b p => pack 0x0D000000 [(s.toNat, 30), (d.toNat, 17), (a.toNat, 10), (b.toNat, 3), (p.toNat, 0)]
  | .pcmp s g c p a b => pack 0x0E000000 [(s.toNat, 30), (g.toNat, 23), (c.code, 20), (p.toNat, 17), (a.toNat, 10), (b.toNat, 3)]
  | .pcmpi s g c p a i => pack 0x0F000000 [(s.toNat, 30), (g.toNat, 23), (c.code, 20), (p.toNat, 17), (a.toNat, 10), (i.toNat, 0)]
  | .beq s a b o => pack 0x10000000 [(s.toNat, 30), (a.toNat, 17), (b.toNat, 10), (o.toNat, 0)]
  | .bne s a b o => pack 0x11000000 [(s.toNat, 30), (a.toNat, 17), (b.toNat, 10), (o.toNat, 0)]
  | .blt s a b o => pack 0x12000000 [(s.toNat, 30), (a.toNat, 17), (b.toNat, 10), (o.toNat, 0)]
  | .bge s a b o => pack 0x13000000 [(s.toNat, 30), (a.toNat, 17), (b.toNat, 10), (o.toNat, 0)]
  | .bltn s a b o => pack 0x14000000 [(s.toNat, 30), (a.toNat, 17), (b.toNat, 10), (o.toNat, 0)]
  | .bgen s a b o => pack 0x15000000 [(s.toNat, 30), (a.toNat, 17), (b.toNat, 10), (o.toNat, 0)]
  | .bp s p n o => pack 0x16000000 [(s.toNat, 30), (p.toNat, 21), (n.toNat, 20), (o.toNat, 0)]
  | .jal s o => pack 0x17000000 [(s.toNat, 30), (o.toNat, 0)]
  | .jalr s d a i => pack 0x18000000 [(s.toNat, 30), (d.toNat, 17), (a.toNat, 10), (i.toNat, 0)]
  | .loop s a b o => pack 0x19000000 [(s.toNat, 30), (a.toNat, 17), (b.toNat, 10), (o.toNat, 0)]
  | .fadd s d a b => pack 0x1A000000 [(s.toNat, 30), (d.toNat, 17), (a.toNat, 10), (b.toNat, 3)]
  | .fsub s d a b => pack 0x1A000001 [(s.toNat, 30), (d.toNat, 17), (a.toNat, 10), (b.toNat, 3)]
  | .fmul s d a b => pack 0x1A000002 [(s.toNat, 30), (d.toNat, 17), (a.toNat, 10), (b.toNat, 3)]
  | .fmin s d a b => pack 0x1A000003 [(s.toNat, 30), (d.toNat, 17), (a.toNat, 10), (b.toNat, 3)]
  | .fmax s d a b => pack 0x1A000004 [(s.toNat, 30), (d.toNat, 17), (a.toNat, 10), (b.toNat, 3)]
  | .fdiv s d a b => pack 0x1A000005 [(s.toNat, 30), (d.toNat, 17), (a.toNat, 10), (b.toNat, 3)]
  | .fsqrt s d a => pack 0x1A000006 [(s.toNat, 30), (d.toNat, 17), (a.toNat, 10)]
  | .fsgn s d a b => pack 0x1A000007 [(s.toNat, 30), (d.toNat, 17), (a.toNat, 10), (b.toNat, 3)]
  | .ffma s d a b => pack 0x1B000000 [(s.toNat, 30), (d.toNat, 17), (a.toNat, 10), (b.toNat, 3)]
  | .ffms s d a b => pack 0x1B000001 [(s.toNat, 30), (d.toNat, 17), (a.toNat, 10), (b.toNat, 3)]
  | .fcvtfi s d a => pack 0x1B000002 [(s.toNat, 30), (d.toNat, 17), (a.toNat, 10)]
  | .fcvtif s d a => pack 0x1B000003 [(s.toNat, 30), (d.toNat, 17), (a.toNat, 10)]
  | .fcvtifz s d a => pack 0x1B000004 [(s.toNat, 30), (d.toNat, 17), (a.toNat, 10)]
  | .fclass s d a => pack 0x1B000005 [(s.toNat, 30), (d.toNat, 17), (a.toNat, 10)]
  | .fbf s d a => pack 0x1B000006 [(s.toNat, 30), (d.toNat, 17), (a.toNat, 10)]
  | .fbfx s d a => pack 0x1B000007 [(s.toNat, 30), (d.toNat, 17), (a.toNat, 10)]
  | .feq s d a b => pack 0x1C000000 [(s.toNat, 30), (d.toNat, 17), (a.toNat, 10), (b.toNat, 3)]
  | .flt s d a b => pack 0x1C000001 [(s.toNat, 30), (d.toNat, 17), (a.toNat, 10), (b.toNat, 3)]
  | .fle s d a b => pack 0x1C000002 [(s.toNat, 30), (d.toNat, 17), (a.toNat, 10), (b.toNat, 3)]
  | .funord s d a b => pack 0x1C000003 [(s.toNat, 30), (d.toNat, 17), (a.toNat, 10), (b.toNat, 3)]
  | .sfunExp2 s d a => pack 0x1D000000 [(s.toNat, 30), (d.toNat, 17), (a.toNat, 10)]
  | .sfunLog2 s d a => pack 0x1D000001 [(s.toNat, 30), (d.toNat, 17), (a.toNat, 10)]
  | .sfunRcp s d a => pack 0x1D000002 [(s.toNat, 30), (d.toNat, 17), (a.toNat, 10)]
  | .sfunRsqrt s d a => pack 0x1D000003 [(s.toNat, 30), (d.toNat, 17), (a.toNat, 10)]
  | .sfunSinpi s d a => pack 0x1D000004 [(s.toNat, 30), (d.toNat, 17), (a.toNat, 10)]
  | .sfunCospi s d a => pack 0x1D000005 [(s.toNat, 30), (d.toNat, 17), (a.toNat, 10)]
  | .sfunTanh s d a => pack 0x1D000006 [(s.toNat, 30), (d.toNat, 17), (a.toNat, 10)]
  | .sfunSigmoid s d a => pack 0x1D000007 [(s.toNat, 30), (d.toNat, 17), (a.toNat, 10)]
  | .pref s d a b => pack 0x1E000000 [(s.toNat, 30), (d.toNat, 17), (a.toNat, 10), (b.toNat, 3)]
  | .tclass s d a b => pack 0x1E000001 [(s.toNat, 30), (d.toNat, 17), (a.toNat, 10), (b.toNat, 3)]
  | .brhint s d a b => pack 0x1E000002 [(s.toNat, 30), (d.toNat, 17), (a.toNat, 10), (b.toNat, 3)]
  | .hintFallback s d a b f hi => pack (if hi then 0x1F000000 else 0x1E000000) [(s.toNat, 30), (d.toNat, 17), (a.toNat, 10), (b.toNat, 3), (f.toNat, 0)]
  | .ld s d c l m z o => pack 0x20000000 [(s.toNat, 30), (d.toNat, 17), (c.toNat, 10), (l.toNat, 4), (m.toNat, 3), (z.toNat, 2), (o.code, 0)]
  | .st s d c l o => pack 0x21000000 [(s.toNat, 30), (d.toNat, 17), (c.toNat, 10), (l.toNat, 4), (o.code, 0)]
  | .amoRlx s d c l op => pack 0x22000000 [(s.toNat, 30), (d.toNat, 17), (c.toNat, 10), (l.toNat, 4), (op.code, 0)]
  | .amoAcq s d c l op => pack 0x23000000 [(s.toNat, 30), (d.toNat, 17), (c.toNat, 10), (l.toNat, 4), (op.code, 0)]
  | .amoRel s d c l op => pack 0x24000000 [(s.toNat, 30), (d.toNat, 17), (c.toNat, 10), (l.toNat, 4), (op.code, 0)]
  | .amoAr s d c l op => pack 0x25000000 [(s.toNat, 30), (d.toNat, 17), (c.toNat, 10), (l.toNat, 4), (op.code, 0)]
  | .fenceFull s q => pack 0x26000000 [(s.toNat, 30), (q.code, 0)]
  | .fenceAcq s q => pack 0x26000008 [(s.toNat, 30), (q.code, 0)]
  | .fenceRel s q => pack 0x26000010 [(s.toNat, 30), (q.code, 0)]
  | .fenceAlias s q => pack 0x26000018 [(s.toNat, 30), (q.code, 0)]
  | .send s d c l w => pack 0x27000000 [(s.toNat, 30), (d.toNat, 17), (c.toNat, 10), (l.toNat, 4), (w.code, 2)]
  | .sendRel s d c l w => pack 0x27000001 [(s.toNat, 30), (d.toNat, 17), (c.toNat, 10), (l.toNat, 4), (w.code, 2)]
  | .recv s d l w => pack 0x28000000 [(s.toNat, 30), (d.toNat, 17), (l.toNat, 4), (w.code, 2)]
  | .recvAcq s d l w => pack 0x28000001 [(s.toNat, 30), (d.toNat, 17), (l.toNat, 4), (w.code, 2)]
  | .cpy s d c => pack 0x29000000 [(s.toNat, 30), (d.toNat, 17), (c.toNat, 10)]
  | .sbindR s m c l => pack 0x2A000000 [(s.toNat, 30), (m.toNat, 17), (c.toNat, 10), (l.toNat, 4)]
  | .sbindW s m c l => pack 0x2A000008 [(s.toNat, 30), (m.toNat, 17), (c.toNat, 10), (l.toNat, 4)]
  | .sctlUnbind s m => pack 0x2B000000 [(s.toNat, 30), (m.toNat, 0)]
  | .sctlPos s d m => pack 0x2B000020 [(s.toNat, 30), (d.toNat, 17), (m.toNat, 0)]
  | .barCore s a => pack 0x2C000000 [(s.toNat, 30), (a.toNat, 10)]
  | .barTile s a => pack 0x2C000020 [(s.toNat, 30), (a.toNat, 10)]
  | .barGrid s => pack 0x2C000040 [(s.toNat, 30)]
  | .gaddr s d c l => pack 0x2D000000 [(s.toNat, 30), (d.toNat, 17), (c.toNat, 10), (l.toNat, 4)]
  | .vclaim s d a => pack 0x30000000 [(s.toNat, 30), (d.toNat, 17), (a.toNat, 10)]
  | .vyield s => pack 0x30000020 [(s.toNat, 30)]
  | .vreneg s d a => pack 0x30000040 [(s.toNat, 30), (d.toNat, 17), (a.toNat, 10)]
  | .vadd s d a b w k => pack 0x31000000 [(s.toNat, 30), (d.toNat, 19), (a.toNat, 14), (b.toNat, 9), (w.code, 3), (k.toNat, 0)]
  | .vsub s d a b w k => pack 0x31000020 [(s.toNat, 30), (d.toNat, 19), (a.toNat, 14), (b.toNat, 9), (w.code, 3), (k.toNat, 0)]
  | .vmul s d a b w k => pack 0x31000040 [(s.toNat, 30), (d.toNat, 19), (a.toNat, 14), (b.toNat, 9), (w.code, 3), (k.toNat, 0)]
  | .vmulh s d a b w k => pack 0x31000060 [(s.toNat, 30), (d.toNat, 19), (a.toNat, 14), (b.toNat, 9), (w.code, 3), (k.toNat, 0)]
  | .vand s d a b w k => pack 0x31000080 [(s.toNat, 30), (d.toNat, 19), (a.toNat, 14), (b.toNat, 9), (w.code, 3), (k.toNat, 0)]
  | .vor s d a b w k => pack 0x310000A0 [(s.toNat, 30), (d.toNat, 19), (a.toNat, 14), (b.toNat, 9), (w.code, 3), (k.toNat, 0)]
  | .vxor s d a b w k => pack 0x310000C0 [(s.toNat, 30), (d.toNat, 19), (a.toNat, 14), (b.toNat, 9), (w.code, 3), (k.toNat, 0)]
  | .vsll s d a b w k => pack 0x310000E0 [(s.toNat, 30), (d.toNat, 19), (a.toNat, 14), (b.toNat, 9), (w.code, 3), (k.toNat, 0)]
  | .vsrl s d a b w k => pack 0x31000100 [(s.toNat, 30), (d.toNat, 19), (a.toNat, 14), (b.toNat, 9), (w.code, 3), (k.toNat, 0)]
  | .vsra s d a b w k => pack 0x31000120 [(s.toNat, 30), (d.toNat, 19), (a.toNat, 14), (b.toNat, 9), (w.code, 3), (k.toNat, 0)]
  | .vmin s d a b w k => pack 0x31000140 [(s.toNat, 30), (d.toNat, 19), (a.toNat, 14), (b.toNat, 9), (w.code, 3), (k.toNat, 0)]
  | .vmax s d a b w k => pack 0x31000160 [(s.toNat, 30), (d.toNat, 19), (a.toNat, 14), (b.toNat, 9), (w.code, 3), (k.toNat, 0)]
  | .vminn s d a b w k => pack 0x31000180 [(s.toNat, 30), (d.toNat, 19), (a.toNat, 14), (b.toNat, 9), (w.code, 3), (k.toNat, 0)]
  | .vmaxn s d a b w k => pack 0x310001A0 [(s.toNat, 30), (d.toNat, 19), (a.toNat, 14), (b.toNat, 9), (w.code, 3), (k.toNat, 0)]
  | .vadds s d a b w k => pack 0x310001C0 [(s.toNat, 30), (d.toNat, 19), (a.toNat, 14), (b.toNat, 9), (w.code, 3), (k.toNat, 0)]
  | .vsubs s d a b w k => pack 0x310001E0 [(s.toNat, 30), (d.toNat, 19), (a.toNat, 14), (b.toNat, 9), (w.code, 3), (k.toNat, 0)]
  | .vfadd s d a b w k => pack 0x32000000 [(s.toNat, 30), (d.toNat, 19), (a.toNat, 14), (b.toNat, 9), (w.code, 3), (k.toNat, 0)]
  | .vfsub s d a b w k => pack 0x32000010 [(s.toNat, 30), (d.toNat, 19), (a.toNat, 14), (b.toNat, 9), (w.code, 3), (k.toNat, 0)]
  | .vfmul s d a b w k => pack 0x32000020 [(s.toNat, 30), (d.toNat, 19), (a.toNat, 14), (b.toNat, 9), (w.code, 3), (k.toNat, 0)]
  | .vffma s d a b w k => pack 0x32000030 [(s.toNat, 30), (d.toNat, 19), (a.toNat, 14), (b.toNat, 9), (w.code, 3), (k.toNat, 0)]
  | .vffms s d a b w k => pack 0x32000040 [(s.toNat, 30), (d.toNat, 19), (a.toNat, 14), (b.toNat, 9), (w.code, 3), (k.toNat, 0)]
  | .vfmin s d a b w k => pack 0x32000050 [(s.toNat, 30), (d.toNat, 19), (a.toNat, 14), (b.toNat, 9), (w.code, 3), (k.toNat, 0)]
  | .vfmax s d a b w k => pack 0x32000060 [(s.toNat, 30), (d.toNat, 19), (a.toNat, 14), (b.toNat, 9), (w.code, 3), (k.toNat, 0)]
  | .vfdiv s d a b w k => pack 0x32000070 [(s.toNat, 30), (d.toNat, 19), (a.toNat, 14), (b.toNat, 9), (w.code, 3), (k.toNat, 0)]
  | .vfsqrt s d a w k => pack 0x32000080 [(s.toNat, 30), (d.toNat, 19), (a.toNat, 14), (w.code, 3), (k.toNat, 0)]
  | .vfabs s d a w k => pack 0x32000090 [(s.toNat, 30), (d.toNat, 19), (a.toNat, 14), (w.code, 3), (k.toNat, 0)]
  | .vfneg s d a w k => pack 0x320000A0 [(s.toNat, 30), (d.toNat, 19), (a.toNat, 14), (w.code, 3), (k.toNat, 0)]
  | .vfexp2 s d a w k => pack 0x320000B0 [(s.toNat, 30), (d.toNat, 19), (a.toNat, 14), (w.code, 3), (k.toNat, 0)]
  | .vflog2 s d a w k => pack 0x320000C0 [(s.toNat, 30), (d.toNat, 19), (a.toNat, 14), (w.code, 3), (k.toNat, 0)]
  | .vfrcp s d a w k => pack 0x320000D0 [(s.toNat, 30), (d.toNat, 19), (a.toNat, 14), (w.code, 3), (k.toNat, 0)]
  | .vfrsqrt s d a w k => pack 0x320000E0 [(s.toNat, 30), (d.toNat, 19), (a.toNat, 14), (w.code, 3), (k.toNat, 0)]
  | .vsplat s d b k => pack 0x33000000 [(s.toNat, 30), (d.toNat, 19), (b.toNat, 7), (k.toNat, 0)]
  | .vextr s i a b j => pack 0x33000008 [(s.toNat, 30), (i.toNat, 19), (a.toNat, 14), (b.toNat, 7), (j.toNat, 0)]
  | .vins s d i b j => pack 0x33000010 [(s.toNat, 30), (d.toNat, 19), (i.toNat, 14), (b.toNat, 7), (j.toNat, 0)]
  | .vgaddr s d a b k => pack 0x33000018 [(s.toNat, 30), (d.toNat, 19), (a.toNat, 14), (b.toNat, 7), (k.toNat, 0)]
  | .vld s d l c k => pack 0x34000000 [(s.toNat, 30), (d.toNat, 19), (l.toNat, 13), (c.toNat, 6), (k.toNat, 0)]
  | .vst s d l c k => pack 0x34000008 [(s.toNat, 30), (d.toNat, 19), (l.toNat, 13), (c.toNat, 6), (k.toNat, 0)]
  | .vlds s d l c k => pack 0x34000010 [(s.toNat, 30), (d.toNat, 19), (l.toNat, 13), (c.toNat, 6), (k.toNat, 0)]
  | .vsts s d l c k => pack 0x34000018 [(s.toNat, 30), (d.toNat, 19), (l.toNat, 13), (c.toNat, 6), (k.toNat, 0)]
  | .vgath s d l c k => pack 0x34000020 [(s.toNat, 30), (d.toNat, 19), (l.toNat, 13), (c.toNat, 6), (k.toNat, 0)]
  | .vscat s d l c k => pack 0x34000028 [(s.toNat, 30), (d.toNat, 19), (l.toNat, 13), (c.toNat, 6), (k.toNat, 0)]
  | .vpop s d m k => pack 0x34000030 [(s.toNat, 30), (d.toNat, 19), (m.toNat, 13), (k.toNat, 0)]
  | .vpush s d m => pack 0x34000038 [(s.toNat, 30), (d.toNat, 19), (m.toNat, 13)]
  | .vrsum s d a b k => pack 0x35000000 [(s.toNat, 30), (d.toNat, 19), (a.toNat, 14), (b.toNat, 9), (k.toNat, 0)]
  | .vrfsum s d a b k => pack 0x35000008 [(s.toNat, 30), (d.toNat, 19), (a.toNat, 14), (b.toNat, 9), (k.toNat, 0)]
  | .vrmin s d a b k => pack 0x35000010 [(s.toNat, 30), (d.toNat, 19), (a.toNat, 14), (b.toNat, 9), (k.toNat, 0)]
  | .vrmax s d a b k => pack 0x35000018 [(s.toNat, 30), (d.toNat, 19), (a.toNat, 14), (b.toNat, 9), (k.toNat, 0)]
  | .vrfmin s d a b k => pack 0x35000020 [(s.toNat, 30), (d.toNat, 19), (a.toNat, 14), (b.toNat, 9), (k.toNat, 0)]
  | .vrfmax s d a b k => pack 0x35000028 [(s.toNat, 30), (d.toNat, 19), (a.toNat, 14), (b.toNat, 9), (k.toNat, 0)]
  | .vrecvadd s d n => pack 0x35000030 [(s.toNat, 30), (d.toNat, 19), (n.toNat, 12)]
  | .vpackl6 s d a => pack 0x36000000 [(s.toNat, 30), (d.toNat, 19), (a.toNat, 14)]
  | .vunpkl6 s d a => pack 0x36000008 [(s.toNat, 30), (d.toNat, 19), (a.toNat, 14)]
  | .vquant s d a => pack 0x36000010 [(s.toNat, 30), (d.toNat, 19), (a.toNat, 14)]
  | .vdeq s d a b => pack 0x36000018 [(s.toNat, 30), (d.toNat, 19), (a.toNat, 14), (b.toNat, 9)]
  | .vcvtbf s d a => pack 0x36000020 [(s.toNat, 30), (d.toNat, 19), (a.toNat, 14)]
  | .vcvtf s d a => pack 0x36000028 [(s.toNat, 30), (d.toNat, 19), (a.toNat, 14)]
  | .baddq s d a b => pack 0x36000030 [(s.toNat, 30), (d.toNat, 19), (a.toNat, 14), (b.toNat, 9)]
  | .vpermv s d a b k => pack 0x37000000 [(s.toNat, 30), (d.toNat, 19), (a.toNat, 14), (b.toNat, 9), (k.toNat, 0)]
  | .vslup s d a n k => pack 0x37000008 [(s.toNat, 30), (d.toNat, 19), (a.toNat, 14), (n.toNat, 9), (k.toNat, 0)]
  | .vsldn s d a n k => pack 0x37000010 [(s.toNat, 30), (d.toNat, 19), (a.toNat, 14), (n.toNat, 9), (k.toNat, 0)]
  | .vmerge s d a b k => pack 0x37000018 [(s.toNat, 30), (d.toNat, 19), (a.toNat, 14), (b.toNat, 9), (k.toNat, 0)]
  | .vkand s d a b => pack 0x37000020 [(s.toNat, 30), (d.toNat, 19), (a.toNat, 14), (b.toNat, 9)]
  | .vkor s d a b => pack 0x37000028 [(s.toNat, 30), (d.toNat, 19), (a.toNat, 14), (b.toNat, 9)]
  | .vkxor s d a b => pack 0x37000030 [(s.toNat, 30), (d.toNat, 19), (a.toNat, 14), (b.toNat, 9)]
  | .vknot s d a => pack 0x37000038 [(s.toNat, 30), (d.toNat, 19), (a.toNat, 14)]
  | .vcmp s d a b c k => pack 0x37000080 [(s.toNat, 30), (d.toNat, 19), (a.toNat, 14), (b.toNat, 9), (c.code, 3), (k.toNat, 0)]
  | .repf s d n x y z => pack 0x38000000 [(s.toNat, 30), (d.toNat, 17), (n.toNat, 13), (x.toNat, 4), (y.toNat, 2), (z.toNat, 0)]
  | .mlease s => pack 0x39000000 [(s.toNat, 30)]
  | .mleaseRel s => pack 0x39000001 [(s.toNat, 30)]
  | .mloads s x l p => pack 0x3A000000 [(s.toNat, 30), (x.toNat, 11), (l.toNat, 7), (p.toNat, 4)]
  | .mloadsFb s b t => pack 0x3A000008 [(s.toNat, 30), (b.toNat, 18), (t.toNat, 2)]
  | .mswap s => pack 0x3A000001 [(s.toNat, 30)]
  | .mma s d x m l z c p => pack 0x3B000000 [(s.toNat, 30), (d.toNat, 21), (x.toNat, 11), (m.toNat, 8), (l.toNat, 7), (z.toNat, 6), (c.toNat, 5), (p.toNat, 4)]
  | .mmaFb s d b x z t => pack 0x3B000008 [(s.toNat, 30), (d.toNat, 21), (b.toNat, 18), (x.toNat, 11), (z.toNat, 6), (t.toNat, 2)]
  | .miterNs3 s d x n => pack 0x3C000000 [(s.toNat, 30), (d.toNat, 21), (x.toNat, 11), (n.toNat, 3)]
  | .miterNs5 s d x n => pack 0x3C000001 [(s.toNat, 30), (d.toNat, 21), (x.toNat, 11), (n.toNat, 3)]
  | .miterInv s d b x n => pack 0x3C000002 [(s.toNat, 30), (d.toNat, 21), (b.toNat, 18), (x.toNat, 11), (n.toNat, 3)]
  | .mpoly s d x n => pack 0x3C000003 [(s.toNat, 30), (d.toNat, 21), (x.toNat, 11), (n.toNat, 3)]
  | .mzero s d => pack 0x3D000000 [(s.toNat, 30), (d.toNat, 21)]
  | .mdrain s d x m z t h u => pack 0x3D000001 [(s.toNat, 30), (d.toNat, 21), (x.toNat, 11), (m.toNat, 8), (z.toNat, 6), (t.toNat, 5), (h.toNat, 4), (u.toNat, 3)]
  | .mtov s d x t h => pack 0x3D000002 [(s.toNat, 30), (d.toNat, 21), (x.toNat, 11), (t.toNat, 4), (h.toNat, 3)]
  | .mcoef s n x => pack 0x3D000003 [(s.toNat, 30), (n.toNat, 21), (x.toNat, 11)]
  | .mcoefR s n x => pack 0x3D00000B [(s.toNat, 30), (n.toNat, 21), (x.toNat, 11)]
  | .mstatWait s x => pack 0x3D000004 [(s.toNat, 30), (x.toNat, 11)]
  | .mstatGrp s x => pack 0x3D00000C [(s.toNat, 30), (x.toNat, 11)]
  | .mstatPlane s x => pack 0x3D000014 [(s.toNat, 30), (x.toNat, 11)]
  | .mstatCmds s x => pack 0x3D00001C [(s.toNat, 30), (x.toNat, 11)]
  | .macca s n => pack 0x3D000005 [(s.toNat, 30), (n.toNat, 3)]
  | .trap s a => pack 0x3E000000 [(s.toNat, 30), (a.toNat, 10)]
  | .eret s => pack 0x3E000020 [(s.toNat, 30)]
  | .csrr s d h g => pack 0x3E000040 [(s.toNat, 30), (d.toNat, 17), (h.toNat, 10), (g.toNat, 0)]
  | .csrw s h a g => pack 0x3E000060 [(s.toNat, 30), (h.toNat, 17), (a.toNat, 10), (g.toNat, 0)]
  | .tspawn s d a => pack 0x3E000080 [(s.toNat, 30), (d.toNat, 17), (a.toNat, 10)]
  | .texit s => pack 0x3E0000A0 [(s.toNat, 30)]
  | .tyield s => pack 0x3E0000C0 [(s.toNat, 30)]
  | .taskget s d => pack 0x3E0000E0 [(s.toNat, 30), (d.toNat, 17)]
  | .taskput s d a => pack 0x3E000100 [(s.toNat, 30), (d.toNat, 17), (a.toNat, 10)]
  | .migrate s a => pack 0x3E000120 [(s.toNat, 30), (a.toNat, 10)]
  | .follow s a => pack 0x3E000140 [(s.toNat, 30), (a.toNat, 10)]
  | .unfollow s => pack 0x3E000160 [(s.toNat, 30)]
  | .symwait s d a y => pack 0x3E000180 [(s.toNat, 30), (d.toNat, 17), (a.toNat, 10), (y.toNat, 0)]
  | .symq s d a => pack 0x3E0001A0 [(s.toNat, 30), (d.toNat, 17), (a.toNat, 10)]
  | .time s d g => pack 0x3E0001C0 [(s.toNat, 30), (d.toNat, 17), (g.toNat, 0)]
  | .setfmt s d a => pack 0x3E0001E0 [(s.toNat, 30), (d.toNat, 17), (a.toNat, 10)]
  | .rlwait s a => pack 0x3E000200 [(s.toNat, 30), (a.toNat, 10)]
  | .tlbinv s a f u => pack 0x3E000220 [(s.toNat, 30), (a.toNat, 10), (f.toNat, 1), (u.toNat, 0)]
  | .halt s => pack 0x3E000240 [(s.toNat, 30)]
  | .cancelLaunch s => pack 0x3E000260 [(s.toNat, 30)]
  | .cancelGraph s => pack 0x3E000261 [(s.toNat, 30)]
  | .cancelPhase s => pack 0x3E000262 [(s.toNat, 30)]
  | .cancelJob s => pack 0x3E000263 [(s.toNat, 30)]
  | .imx i _ => pack 0x3F000000 [(i.toNat, 0)]
  | .illegal w => w.toNat
  | .stallCountExpiry .. => 0
  | .fixedLatencyDelivery .. => 0
  | .dispatch .. => 0
  | .threadKill .. => 0
  | .levellerSample .. => 0
  | .levellerShipmentArrival .. => 0
  | .migrantCreate .. => 0
  | .fieldOffsetRelease .. => 0
  | .refreshWindowOpen .. => 0
  | .refreshWindowClose .. => 0
  | .niSend .. => 0
  | .itemArrival .. => 0
  | .itemReturn .. => 0
  | .spillwayAppend .. => 0
  | .spillwayReplay .. => 0
  | .heldMessageMove .. => 0
  | .accessPerformed .. => 0
  | .resultDelivery .. => 0
  | .peerWriteAck .. => 0
  | .combiningBufferTimeout .. => 0
  | .probeEcho .. => 0
  | .registrationEnter .. => 0
  | .streamFetch .. => 0
  | .streamDrain .. => 0
  | .copyAccept .. => 0
  | .copyComplete .. => 0
  | .sfuStart .. => 0
  | .sfuResult .. => 0
  | .vectorComplete .. => 0
  | .leaseBudgetSpent .. => 0
  | .planeReloadComplete .. => 0
  | .planeLoadComplete .. => 0
  | .matrixCommandComplete .. => 0
  | .mmaOperandFault .. => 0
  | .miterStepComplete .. => 0
  | .weirStep .. => 0
  | .rampDownEnd .. => 0
  | .wakeTokenTake .. => 0
  | .wakeComplete .. => 0
  | .segmentPowerDown .. => 0
  | .doorbell .. => 0
  | .dispatcherTake .. => 0
  | .launch .. => 0
  | .hostCancelLaunch .. => 0
  | .hostCancelGraph .. => 0
  | .hostCancelPhase .. => 0
  | .hostCancelJob .. => 0
  | .phase .. => 0
  | .endjob .. => 0
  | .nop .. => 0
  | .admission .. => 0
  | .counterQueryJob .. => 0
  | .counterQueryPhase .. => 0
  | .counterQueryGraph .. => 0
  | .pcauseClear .. => 0
  | .niinv .. => 0
  | .modcapWrite .. => 0
  | .registerWrite .. => 0
  | .sliceEnd .. => 0
  | .summons .. => 0
  | .saveComplete .. => 0
  | .saveAbort .. => 0
  | .restoreComplete .. => 0
  | .checkpointWriteAck .. => 0
  | .relocationStart .. => 0
  | .relocationCutover .. => 0
  | .relocationRestore .. => 0
  | .relocationEnd .. => 0
  | .invalidation .. => 0
  | .walkComplete .. => 0
  | .fwResume .. => 0
  | .fwForward .. => 0
  | .fwKill .. => 0
  | .pairTimeout .. => 0
  | .linkItemArrival .. => 0
  | .remoteWriteAck .. => 0
  | .flitCrcFail .. => 0
  | .linkRetrain .. => 0
  | .linkFailure .. => 0
  | .remoteWriteAbandon .. => 0
  | .routerFailure .. => 0
  | .moduleReset .. => 0
  | .selfTest .. => 0
  | .laneRepair .. => 0
  | .routeTableBuild .. => 0
  | .timeCounterStart .. => 0
  | .seamMeasurement .. => 0
  | .worldAssignment .. => 0
  | .timeProbe .. => 0
  | .timeProbeArrival .. => 0
  | .timeReplyArrival .. => 0
  | .defectReinstate .. => 0
  | .attestationReport .. => 0
  | .granuleReassign .. => 0
  | .firmwareUpdate .. => 0
  | .coreRestart .. => 0
  | .towpathFrame .. => 0
  | .hallSettingApply .. => 0
  | .settingChange .. => 0
  | .budgetCheck .. => 0
  | .watchdogFeed .. => 0
  | .watchdogTimeout .. => 0
  | .sensorCheck .. => 0
  | .currentTrip .. => 0
  | .tripEnd .. => 0
  | .stopFlitArrival .. => 0
  | .checkpointTimer .. => 0
  | .checkpointSlotCleared .. => 0
  | .checkpointCommit .. => 0
  | .checkpointAbort .. => 0
  | .itemAcknowledgement .. => 0
  | .powerLoss .. => 0
  | .quayTileQueueCompletion .. => 0

/-- The words of an instruction: two for an IMX pair (R227), none for an event. -/
def encode (i : Instr) : List Word :=
  match i with
  | .imx _ w => [BitVec.ofNat 32 (encodeWord i), w]
  | i => if i.isEvent then [] else [BitVec.ofNat 32 (encodeWord i)]

/-- The bytes of an instruction in code memory (R220). -/
def encodeBytes (i : Instr) : List Byte := (encode i).flatMap bytesOfWord

end Sys2Proof
end

