-- ==== Sys2Proof/Machine/Sfun.lean ====
section
/-! DEFINITION. The special functions of R275: correctly rounded, by fixed-point evaluation to 320 bits below the point.
The evaluation error is below 2^-300 of a unit of the result's leading bit range used, far below the distance of any
function value at an FP32 operand from a rounding boundary (log entry 30). -/

namespace Sys2Proof.Machine

/-- Fraction bits of the fixed-point evaluation. -/
def fxP : Nat := 320

/-- One in fixed point. -/
def fxOne : Nat := 2 ^ fxP

/-- A product of two fixed-point numbers. -/
def fxMul (a b : Nat) : Nat := a * b / fxOne

/-- The sum of term·z^k/(k+1)…: the tail of the exponential series from index k with the given term. -/
def fxExpTail : Nat → Nat → Nat → Nat → Nat
  | 0, _, _, _ => 0
  | n + 1, k, z, t => t + fxExpTail n (k + 1) z (fxMul t z / (k + 1))

/-- e^z for 0 ≤ z < 1 in fixed point. -/
def fxExp (z : Nat) : Nat := fxExpTail 90 0 z fxOne

/-- The sum of p / (2k + 1) with p multiplied by z2 at each step: the atanh series without signs. -/
def fxAtanhTail : Nat → Nat → Nat → Nat → Nat
  | 0, _, _, _ => 0
  | n + 1, k, z2, p => p / (2 * k + 1) + fxAtanhTail n (k + 1) z2 (fxMul p z2)

/-- ln y for a fixed-point y with 1 ≤ y < 2: twice atanh((y - 1) / (y + 1)). -/
def fxLn (y : Nat) : Nat :=
  let z := (y - fxOne) * fxOne / (y + fxOne)
  2 * fxAtanhTail 110 0 (fxMul z z) z

/-- ln 2 in fixed point: twice atanh(1/3). -/
def fxLn2 : Nat := 2 * fxAtanhTail 110 0 (fxOne / 9) (fxOne / 3)

/-- The alternating arctangent series of 1/n. -/
def fxAtanTail : Nat → Nat → Nat → Nat → Int
  | 0, _, _, _ => 0
  | f + 1, k, n2, p => (p / (2 * k + 1) : Nat) - fxAtanTail f (k + 1) n2 (p / n2)

/-- π in fixed point, by Machin's formula. -/
def fxPi : Nat := (16 * fxAtanTail 80 0 25 (fxOne / 5) - 4 * fxAtanTail 80 0 57121 (fxOne / 239)).toNat

/-- The alternating series of sine or cosine from term t at index k. -/
def fxTrigTail : Nat → Nat → Nat → Nat → Int
  | 0, _, _, _ => 0
  | f + 1, k, z2, t => (t : Int) - fxTrigTail f (k + 2) z2 (fxMul t z2 / ((k + 1) * (k + 2)))

/-- sin z for 0 ≤ z ≤ 2. -/
def fxSin (z : Nat) : Nat := (fxTrigTail 60 1 (fxMul z z) z).toNat
/-- cos z for 0 ≤ z ≤ 2. -/
def fxCos (z : Nat) : Nat := (fxTrigTail 60 0 (fxMul z z) fxOne).toNat

/-- A fixed-point result with an inexact tail as an exact value before rounding. -/
def fxVal (neg : Bool) (n : Nat) : FVal := .fin neg n (-(fxP : Int)) true

/-- The magnitude m × 2^e in fixed point, truncated. -/
def toFx (m : Nat) (e : Int) : Nat :=
  let s := e + fxP
  if 0 ≤ s then m * 2 ^ s.toNat else m / 2 ^ (-s).toNat

/-- 2^x for a fixed-point x of either sign, x = q + f with 0 ≤ f < 1. -/
def fxExp2 (x : Int) : FVal :=
  let q := x / (fxOne : Int)
  let f := (x % (fxOne : Int)).toNat
  if f = 0 then .fin false 1 q false
  else .fin false (fxExp (fxMul f fxLn2)) (q - fxP) true

/-- A finite dyadic (-1)^neg × m × 2^e as signed fixed point. -/
def sFx (neg : Bool) (m : Nat) (e : Int) : Int := if neg then -(toFx m e : Int) else toFx m e

/-- exp2 (Table 9.8). -/
def sfExp2 (v : FVal) : FVal × FFlags :=
  match v with
  | .nan s => (.nan false, fWhen s fNV)
  | .inf neg => (if neg then .fin false 0 0 false else .inf false, fNone)
  | .fin neg m e _ =>
    if m = 0 then (.fin false 1 0 false, fNone)
    else if 8 < e + Nat.log2 m then (if neg then .fin false 1 (-400) true else .fin false 1 400 true, fNone)
    else (fxExp2 (sFx neg m e), fNone)

/-- log2 (Table 9.8). -/
def sfLog2 (v : FVal) : FVal × FFlags :=
  match v with
  | .nan s => (.nan false, fWhen s fNV)
  | .inf neg => if neg then (.nan false, fNV) else (.inf false, fNone)
  | .fin neg m e _ =>
    if m = 0 then (.inf true, fDZ)
    else if neg then (.nan false, fNV)
    else
      let k := Nat.log2 m
      if m = 2 ^ k then (.ofInt (e + k) 0, fNone)
      else
        let l : Int := fxLn (m * 2 ^ (fxP - k)) * fxOne / fxLn2
        let r := (e + k) * (fxOne : Int) + l
        (fxVal (decide (r < 0)) (if r < 0 then r.natAbs - 1 else r.natAbs), fNone)

/-- rcp (Table 9.8). -/
def sfRcp (v : FVal) : FVal × FFlags :=
  match v with
  | .nan s => (.nan false, fWhen s fNV)
  | v => (FVal.fin false 1 0 false).div v

/-- rsqrt (Table 9.8). -/
def sfRsqrt (v : FVal) : FVal × FFlags :=
  match v with
  | .nan s => (.nan false, fWhen s fNV)
  | .inf neg => if neg then (.nan false, fNV) else (.fin false 0 0 false, fNone)
  | .fin neg m e _ =>
    if m = 0 then (.inf neg, fDZ)
    else if neg then (.nan false, fNV)
    else
      let par : Nat := (e % 2).toNat
      let n := m * 2 ^ par
      let r := isqrt (2 ^ 256 / n)
      (.fin false r (-128 - (e - par) / 2) (r * r * n != 2 ^ 256), fNone)

/-- sin(π r) for 0 < r ≤ 1/2 given as m × 2^e: a tiny operand is multiplied by π with its own scale. -/
def sinPiSmall (m : Nat) (e : Int) : FVal :=
  if e + Nat.log2 m < -100 then .fin false (m * fxPi) (e - fxP) true
  else fxVal false (fxSin (fxMul (toFx m e) fxPi))

/-- sinpi and cospi of x = m × 2^e ≥ 0 with e < 0, by its residue modulo 2: sign and value. -/
def trigPi (cos : Bool) (m : Nat) (e : Int) : FVal :=
  let s := (-e).toNat                       -- x = m / 2^s
  let h := 2 ^ s                            -- one
  let r := (m + (if cos then h / 2 else 0)) % (2 * h)   -- cos πx = sin π(x + 1/2); h is even here
  let neg := decide (h ≤ r)
  let r := r % h                            -- sin π(1 + r) = -sin πr
  let r := if h < 2 * r then h - r else r   -- sin π(1 - r) = sin πr
  if r = 0 then .fin neg 0 0 false
  else if 2 * r = h then .fin neg 1 0 false
  else match sinPiSmall r e with
    | .fin _ n q k => .fin neg n q k
    | v => v

/-- sinpi (Table 9.8): an integer operand gives a zero of the operand's sign. -/
def sfSinpi (v : FVal) : FVal × FFlags :=
  match v with
  | .nan s => (.nan false, fWhen s fNV)
  | .inf _ => (.nan false, fNV)
  | .fin neg m e _ =>
    if m = 0 then (.fin neg 0 0 false, fNone)
    else if 0 ≤ e then (.fin neg 0 0 false, fNone)
    else match trigPi false m e with
      | .fin n k q t => (if k = 0 ∧ !t then .fin neg 0 0 false else .fin (n != neg) k q t, fNone)
      | v => (v, fNone)

/-- cospi (Table 9.8): n + 1/2 gives +0. -/
def sfCospi (v : FVal) : FVal × FFlags :=
  match v with
  | .nan s => (.nan false, fWhen s fNV)
  | .inf _ => (.nan false, fNV)
  | .fin _ m e _ =>
    if m = 0 then (.fin false 1 0 false, fNone)
    else if 0 ≤ e then (.fin (m * 2 ^ (min e 1).toNat % 2 == 1) 1 0 false, fNone)
    else if e + Nat.log2 m < -100 then (.fin false (2 ^ 100 - 1) (-100) true, fNone)
    else match trigPi true m e with
      | .fin n k q t => (if k = 0 ∧ !t then .fin false 0 0 false else .fin n k q t, fNone)
      | v => (v, fNone)

/-- e^-y in fixed point for a fixed-point y ≥ 0, as 2^(-y / ln 2); zero beyond 2^-320. -/
def fxExpNeg (y : Nat) : Nat :=
  let t := y * fxOne / fxLn2
  let q := t / fxOne
  let f := t % fxOne
  if 320 < q then 0
  else fxOne * fxOne / fxExp (fxMul f fxLn2) / 2 ^ q

/-- tanh (Table 9.8). A magnitude below 2^-40 gives a value just below the operand. -/
def sfTanh (v : FVal) : FVal × FFlags :=
  match v with
  | .nan s => (.nan false, fWhen s fNV)
  | .inf neg => (.fin neg 1 0 false, fNone)
  | .fin neg m e _ =>
    if m = 0 then (.fin neg 0 0 false, fNone)
    else if e + Nat.log2 m < -40 then (.fin neg (m * 2 ^ 70 - 1) (e - 70) true, fNone)
    else if 8 < e + Nat.log2 m then (.fin neg (2 ^ 100 - 1) (-100) true, fNone)
    else
      let t := fxExpNeg (2 * toFx m e)
      (fxVal neg ((fxOne - t) * fxOne / (fxOne + t) - 1), fNone)

/-- sigmoid (Table 9.8). -/
def sfSigmoid (v : FVal) : FVal × FFlags :=
  match v with
  | .nan s => (.nan false, fWhen s fNV)
  | .inf neg => (if neg then .fin false 0 0 false else .fin false 1 0 false, fNone)
  | .fin neg m e _ =>
    if m = 0 then (.fin false 1 (-1) false, fNone)
    else if 8 < e + Nat.log2 m then
      (if neg then .fin false 1 (-400) true else .fin false (2 ^ 100 - 1) (-100) true, fNone)
    else
      let t := fxExpNeg (toFx m e)                 -- e^-|x|
      let den := fxOne + t
      (if neg then fxVal false (t * fxOne / den) else fxVal false (fxOne * fxOne / den - 1), fNone)

/-- The eight functions of SFUN (Table 8.5). -/
inductive SfFn where
  | exp2 | log2 | rcp | rsqrt | sinpi | cospi | tanh | sigmoid
  deriving DecidableEq, Repr

/-- The exact value of a special function, or enough of it to round correctly (R275). -/
def SfFn.value (f : SfFn) (v : FVal) : FVal × FFlags :=
  match f with
  | .exp2 => sfExp2 v
  | .log2 => sfLog2 v
  | .rcp => sfRcp v
  | .rsqrt => sfRsqrt v
  | .sinpi => sfSinpi v
  | .cospi => sfCospi v
  | .tanh => sfTanh v
  | .sigmoid => sfSigmoid v

/-- SFUN's result and flags on an FP32 word (R275). -/
def sfun (f : SfFn) (a : Word) : FRes := toF32 (f.value (fOf a))

end Sys2Proof.Machine
end

