-- ==== Sys2Proof/Machine/State.lean ====
section
/-! DEFINITION. The state of the machine as plain data: everything the spec gives a thread, a core, a tile, a gang,
a launch, a partition, a berth, a field, the host ports, the links and the module; and the state after reset. -/

namespace Sys2Proof.Machine

/-- A finite map as a list of pairs, at most one for a key; a key that is not listed has no entry. -/
abbrev AMap (κ ν : Type) := List (κ × ν)

/-! ## Registers and late values (05) -/

/-- One operation of an exact-order log (R162): the pending register on the left, or on the right for `rsub`. -/
inductive LogOp where
  | add | mul | sub | rsub
  deriving DecidableEq, Repr

/-- The kind of a pending register (Table 5.1). -/
inductive PendKind where
  | neutral
  | int (a b : Word)
  | exact (log : List (LogOp × Word))
  | folded (a b : Word) (flags : FFlags)
  deriving DecidableEq, Repr

/-- The state of a scalar register (Table 5.1): ready, or pending on a word of a symbol-table entry, possibly poisoned (R167). -/
inductive RegState where
  | ready (v : Word)
  | pending (entry word : Nat) (kind : PendKind) (poison : Bool)
  /-- The register file holds an uncorrectable error there (R476): an instruction that reads it traps SOFT. -/
  | corrupt
  deriving DecidableEq, Repr

/-- A fixed-latency result that is issued and not yet delivered (R175): its register, due at a tile cycle, with its
flags (R135). Register 0 takes only the flags. -/
structure Inflight where
  reg : Nat
  value : Word
  flags : FFlags
  due : Nat
  deriving DecidableEq, Repr

/-- An active loop level (R269). -/
structure LoopLevel where
  start : Word
  stop : Word
  left : Nat
  iter : Word
  index : Nat
  deriving DecidableEq, Repr

/-- Trap causes (Table 13.1). -/
inductive Cause where
  | illegal | priv | regLimit | stallShort | bounds | translation | access | rlock | lease | vclaim | symovf | mdiv
  | mismatch | brk | soft
  deriving DecidableEq, Repr

/-- A trap that firmware handles while its thread is parked (R358, R473); `fol` when the thread was a follower (R49, Table 13.3). -/
structure FwTrap where
  cause : Cause
  tval : Word
  epc : Word
  pair : Bool
  fol : Bool
  deriving DecidableEq, Repr

/-! ## Why a thread is off the wheel (R32, R33) -/

/-- The condition a blocked or parked thread waits for. The first group blocks (R33), the second parks (R32). -/
inductive Why where
  /-- A pending register in a use that blocks (R158). -/
  | reg (n : Nat)
  /-- All 256 symbol-table entries of the core are allocated (R155). -/
  | symTable
  /-- An empty read queue or a full write queue of a stream (R172). -/
  | streamWait (s : Nat)
  /-- A full vector sequencer queue, which needs this many places (R313, R331). -/
  | vecQueue (n : Nat)
  /-- A lease, or room in the core's matrix queue (R180, R336). -/
  | lease
  /-- A full SFU FIFO (R276). -/
  | sfuFifo
  /-- A FOLLOW that has not joined (R48). -/
  | followJoin
  /-- A full outbound queue (R292). -/
  | outbound
  /-- A full copy queue (R297). -/
  | copyQueue (q : Nat)
  /-- A translation of a rim page (R167). -/
  | walk (page : Nat)
  /-- A fence, release access or barrier fence (R103). -/
  | fence
  | barCore
  | barTile
  | barGrid (gen : Nat)
  /-- RLWAIT on a registration (R304). -/
  | rlwait (reg : Nat)
  | texit
  | taskget
  /-- SYMWAIT .any, SYMWAIT x0, SYMWAIT on a register (R377). -/
  | symAny
  | symNone
  | symReg (n : Nat)
  /-- Every pending register of the thread (MIGRATE and LD.mig, R44, R284). -/
  | allRegs
  /-- A parked firmware trap (R473). -/
  | firmware
  /-- A matrix instruction that waits for the core's commands (Table 12.2). -/
  | matrix
  /-- A vector claim's queue drains (R309). -/
  | vecDrain
  /-- Stream elements drain at SCTL.unbind (R301). -/
  | streamDrain (s : Nat)
  /-- TLBINV (R379, R470): the accesses older than a record number, of the berth or its field, that were translated before. -/
  | tlbinv (mark : Nat) (field : Bool)
  /-- A segment is being woken (R504). -/
  | wake
  /-- A VRECVADD that has not ended (R324). -/
  | vecRecv
  /-- A root thread waits out its field's offset since a global time (R208). -/
  | start (at' : Int)
  deriving DecidableEq, Repr

/-- Where a thread stands: dealt to a position, ready but not yet dealt, or off the wheel since a step number. -/
inductive RunStatus where
  | dealt (pos : Nat)
  | fresh
  | off (why : Why) (since : Nat)
  deriving DecidableEq, Repr

/-! ## Memory accesses, engines and range locks (02, 03, 10) -/

/-- Where an element lives (R68, R85): scratchpad bytes are physical, after the swizzle of R71; a rim byte has its
virtual and its translated physical address. -/
inductive Place where
  | scratch (tile : TileId) (phys : Nat)
  | weights (tile : TileId) (off : Nat)
  | rim (va pa : Nat)
  | host (port addr : Nat)
  deriving DecidableEq, Repr

/-- The spaces in which ranges conflict (R110). -/
inductive RangeSpace where
  | scratch (tile : TileId)
  | weights (tile : TileId)
  | rim
  | host (port : Nat)
  deriving DecidableEq, Repr

/-- A registered range (R109): byte offsets lo to hi of a space, as an entry with swizzle select z reaches them. -/
structure Range where
  space : RangeSpace
  lo : Nat
  hi : Nat
  z : Nat
  deriving DecidableEq, Repr

/-- The engine command that a registration belongs to (Table 3.5). -/
inductive Engine where
  | copy (tile : TileId) (cmd : Nat)
  | stream (t : ThreadId) (s : Nat)
  | plane (tile : TileId) (cmd : Nat)
  | reload (tile : TileId) (core : Nat)
  | quay (cmd : Nat)
  deriving DecidableEq, Repr

/-- One registration of a range-lock table (R109). -/
structure Registration where
  id : Nat
  engine : Engine
  range : Range
  write : Bool
  deriving DecidableEq, Repr

/-- How a loaded element becomes a word (Table 10.1). -/
inductive Widen where
  | s8 | s16 | z8 | z16 | w32 | code6
  deriving DecidableEq, Repr

/-- What an access does at its visibility point (R87, R287). -/
inductive AccKind where
  | load
  | store
  | amo (op : AmoOp) (cas : Word)
  deriving DecidableEq, Repr

/-- Who issued an access (R86). -/
inductive Agent where
  | thread (t : ThreadId)
  | vector (t : ThreadId)
  | stream (t : ThreadId) (s : Nat)
  | copy (tile : TileId) (cmd : Nat)
  | plane (tile : TileId)
  deriving DecidableEq, Repr

/-- How far an access has come: in the combining buffer, on its way to a peer's berth (moored included), or at its
visibility point. -/
inductive AccState where
  | buffered
  | travelling
  | arrived
  deriving DecidableEq, Repr

/-- A memory access that is issued and not yet performed. Its bytes are [place, place + size); `data` is none while
a vector store's value is not yet known; `dest` is the symbol-table entry (core, entry) that the old value resolves, and
`lane` the vector context, instruction and lane that it goes to; `fenced` when a release of its thread at tile scope has been
completed behind it (R93, R103). -/
structure Access where
  id : Nat
  agent : Agent
  place : Place
  size : Nat
  kind : AccKind
  data : Option Word
  widen : Widen
  dest : Option (Nat × Nat)
  lane : Option (Nat × Nat × Nat)
  st : AccState
  fenced : Bool
  deriving DecidableEq, Repr

/-- What a member of a checked pair presents to the pair's mesh port (R480): a store or atomic with its location and data, a SEND, a TASKPUT or a
CPY; the loads and receives that both members are served from one access, and the end of the task. -/
inductive PairItem where
  | access (kind : AccKind) (place : Place) (size : Nat) (data : Option Word)
  | send (dst : Word) (ch : Nat) (words : List Word)
  | taskput (dst : Nat) (packet : List Word)
  | copy (desc : List Word)
  | load
  | ends
  deriving DecidableEq, Repr

/-- The instruction that allocated a symbol-table entry (Table 5.2): for a RECV, its channel and its number in the order of
posting; `discard` for a load or atomic under DISCARD (R281). -/
inductive SymSource where
  | load | amo | fadd | discard | recv (ch seq : Nat) | sfun | cpy
  deriving DecidableEq, Repr

/-- A symbol-table entry (R154): its thread, its source, and its words once the result has reached the core; `bad`
marks uncorrectable data (R167), and `discard` an entry of a killed thread (R168). -/
structure SymEntry where
  thr : Nat
  source : SymSource
  data : Option (List Word)
  flags : FFlags
  bad : Bool
  discard : Bool
  deriving DecidableEq, Repr

/-- A line of a combining buffer (R88): its virtual line, its buffered accesses, and the tile cycle of its last store. -/
structure BufLine where
  line : Nat
  stores : List Nat
  last : Nat
  deriving DecidableEq, Repr

/-- A fence in progress (R103): its kinds and scope, and the probes still out, each with a bank group and the first
access number behind it; none before the loads have resolved. -/
structure FenceRun where
  release : Bool
  scope : Scope
  probes : Option (List (Nat × Nat))
  deriving DecidableEq, Repr

/-- A stream element: a word that was read, a pushed word with its resolved location (R173), a held fault (R173), or
uncorrectable data. -/
inductive Elem where
  | word (w : Word)
  | store (w : Word) (target : Option (Place × Nat))
  | fault (cause : Cause)
  | bad
  deriving DecidableEq, Repr

/-- A bound stream (R169). -/
structure Stream where
  write : Bool
  entry : Nat
  origin : List Int
  steps : List (List Int)
  counts : List Nat
  tileNum : Word
  pos : Nat
  fetched : Nat
  queue : List Elem
  regs : List (TileId × Nat)
  deriving DecidableEq, Repr

/-- A follower's state (R48): its leader, whether it has joined, and the addresses its leader has issued since, each with whether the
leader left it by a taken transfer (R49). -/
structure Follow where
  leader : Nat
  joined : Bool
  trace : List (Word × Bool)
  deriving DecidableEq, Repr

/-- A work packet (Table 1.3), sixteen words. -/
abbrev Packet := List Word

/-- A task that a thread holds (R30, R37): its identifier and its graph node. -/
structure Task where
  id : BitVec 64
  node : Word
  deriving DecidableEq, Repr

/-- The fault that a walk found (R468, R472): page number, cause, KIND and LEVEL of FINFO. -/
structure WalkFault where
  page : Nat
  write : Bool
  cause : Cause
  kind : Nat
  level : Nat
  deriving DecidableEq, Repr

/-- A cached leaf (R469): the job's table root, the page's virtual base, its size and physical base, and its permissions. -/
structure TlbEntry where
  root : Nat
  base : Nat
  size : Nat
  pa : Nat
  r : Bool
  w : Bool
  ns : Bool
  deriving DecidableEq, Repr

/-- A translation request at a field's walkers (R469), with the global time of its arrival and the source number of its berth. -/
structure WalkReq where
  id : Nat
  t : ThreadId
  va : Nat
  read : Bool
  write : Bool
  time : Int
  source : Nat
  deriving DecidableEq, Repr

/-! ## The matrix array (06, 12) -/

/-- A plane record (R190, Table 12.4): the record code, and the source as read at issue: entry, origin, tile number, kept values
per group, scale pointer, or the physical accumulator; with the issuing thread's slot and privilege for its resolution. -/
structure PlaneSrc where
  code : Nat
  entry : Nat
  origin : List Int
  num : Nat
  width : Nat
  scale : Nat × Nat
  acc : Nat
  thr : Nat
  priv : Bool
  deriving DecidableEq, Repr

/-- The contents of a stationary plane (R185 to R187): its columns over the dense K positions, its scales by block and column,
and a fault that a reload met (R191) with its cause, TVAL, virtual address and FINFO. -/
structure Plane where
  cols : List (List Nat)
  scales : List (List Nat)
  fault : Option (Cause × Word × Nat × Word)
  deriving DecidableEq, Repr

/-- Where a plane's data lie: elements in (k, n) order, scales by block and column, and mask words; none for a discarded one. -/
structure PlanePlaces where
  elems : List (Option (Place × Nat))
  scales : List (Option (Place × Nat))
  masks : List (Option (Place × Nat))
  deriving DecidableEq, Repr

/-- An accepted matrix command (R180, R181): its thread, instruction, scalar operand, group base, plane source and places,
registrations, the tile cycle it started at, the elements popped, its progress, whether no earlier step compares (R200),
the recorded stream positions (R193), and the vector instruction that an MTOV feeds (R355). -/
structure MatCmd where
  id : Nat
  thr : Nat
  instr : Instr
  x : Word
  base : Nat
  src : Option PlaneSrc
  places : PlanePlaces
  regs : List (TileId × Nat)
  started : Option Nat
  data : List Nat
  scales : List Nat
  prog : Nat
  first : Bool
  marks : List Nat
  vop : Option (Nat × Nat)
  pc : Word
  paid : Nat
  deriving DecidableEq, Repr

/-- Where an array stands on its ramp (R204 to R206): cold, waiting for a grant, climbing or warm since a tile cycle, ramping down
from a step since a tile cycle, or in the last cycles of a ramp-down that turns to climb from a step at a tile cycle. -/
inductive Ramp where
  | cold
  | requested
  | up (since : Nat)
  | down (step since : Nat)
  | climb (step since : Nat)
  deriving DecidableEq, Repr

/-- A matrix array (R177 to R183, R193): accumulators of 4,096 elements in row order, the planes, the lease's holder and budget
counts, the ramp, and the shadow of the accumulator that a command may restore. -/
structure MatArray where
  accs : List (List Word)
  active : Plane
  shadow : Plane
  holder : Option Nat
  cmds : Nat
  cyc : Nat
  ramp : Ramp
  replay : List Word
  deriving DecidableEq, Repr

/-! ## Threads -/

/-- A thread's context. -/
structure Thread where
  pc : Word
  alloc : Nat
  base : Nat
  regs : List RegState
  preds : BitVec 8
  inflight : List Inflight
  fflags : FFlags
  fmt : Word
  scp : Word
  step : Bool
  migok : Bool
  fold : Bool
  sbchk : Bool
  tcause : Word
  tepc : Word
  tval : Word
  tstat : Word
  fva : BitVec 48
  finfo : Word
  fwTrap : Option FwTrap
  mls : BitVec 64
  coefs : List Word
  accGroup : Option (Nat × Nat)
  member : Bool
  matMark : Bool
  /-- The accepted command that its instruction waits for (Table 12.2). -/
  matCmd : Option Nat
  touch : BitVec 64
  /-- The peer stores and atomics that are not acknowledged; the peer-write counter is their number (R102). -/
  peerOut : List Nat
  lines : List BufLine
  fence : Option FenceRun
  w1Done : Bool
  acqHold : List Nat
  loops : List LoopLevel
  stall : Nat
  lastIssue : Nat
  notBefore : Nat
  status : RunStatus
  streams : List (Option Stream)
  claim : Option Nat
  follow : Option Follow
  task : Option Task
  parent : Option Nat
  mode : DMode
  priv : Bool
  kill : Bool
  /-- Its kill counts no task as cancelled: its packet is run again (R481). -/
  rerun : Bool
  /-- Its following has ended, and its next turn is a bubble for it (R409). -/
  bubble : Bool
  /-- The messages, accesses and copies that it issued on tiles it has left, for which its retirement waits (R30). -/
  await : List Nat
  /-- The packet of its task, when both members of a checked pair run it (R41). -/
  paired : Option Packet
  /-- The words of poisoned entries, as a clean read would give them (R167, R477). -/
  poisons : AMap Nat (List Word)
  /-- The walk that its instruction waits for, and the fault that a walk found for a page (R167, R469, R471). -/
  walking : Option Nat
  walkFault : Option WalkFault
  /-- The step at which it blocked on a full symbol table (R155). -/
  symSince : Option Nat
  deriving DecidableEq, Repr

/-- Where the second member of a checked pair stands apart from the first (R41, R152, R480): its PC, registers, predicates, flags, results on
their way, loops and coefficients, where they differ; and which member waits at the port, the second or the first, since which tile
cycle. -/
structure Twin where
  pc : Option Word
  regs : List (Nat × RegState)
  preds : Option (BitVec 8)
  fflags : Option FFlags
  inflight : Option (List Inflight)
  loops : Option (List LoopLevel)
  coefs : Option (List Word)
  waits : Option (Bool × Nat)
  deriving DecidableEq, Repr

/-! ## Cores and tiles -/

/-- A wheel position (R32, R34): enabled, its dealt slots in dealing order, and the index where the next search starts. -/
structure Position where
  enabled : Bool
  list : List Nat
  start : Nat
  deriving DecidableEq, Repr

/-- A barrier instance (R302): the participant count and the arrived threads. -/
structure Barrier where
  count : Nat
  arrived : List Nat
  deriving DecidableEq, Repr

/-- A message (R82): source tile, destination tile number, channel and words; the sending thread's slot and a record number, by
which a retirement waits for it (R30). -/
structure Message where
  src : Word
  dst : Word
  ch : Nat
  words : List Word
  thr : Nat
  id : Nat
  deriving DecidableEq, Repr

/-- A scalar core: its wheel, symbol table, outbound queue and BAR.core instance; its matrix commands, its plane records
(active, shadow), the planes to be reloaded (true for the shadow) with the registrations of the first, and PLOST (R180 to R191). -/
structure Core where
  positions : List Position
  deal : Nat
  symbols : AMap Nat SymEntry
  outbound : List Message
  bar : Option Barrier
  halted : Bool
  mcmds : List MatCmd
  active : PlaneSrc
  shadow : PlaneSrc
  reload : List Bool
  reloadRegs : Option (List (TileId × Nat))
  reloadAt : Option Nat
  plost : Bool
  deriving DecidableEq, Repr

/-- A posted RECV (R294): channel, word count and symbol-table entry (core, entry); or the vector context whose VRECVADD
posted it (R324). -/
structure PostedRecv where
  ch : Nat
  words : Nat
  core : Nat
  entry : Nat
  vec : Option Nat
  deriving DecidableEq, Repr

/-- A migrating thread on its way (R45); `spawned` for a thread that TSPAWN created, which retires nothing. -/
structure Migrant where
  pc : Word
  regs : List Word
  preds : BitVec 8
  fmt : Word
  sbchk : Bool
  fold : Bool
  migok : Bool
  task : Option Task
  mode : DMode
  spawned : Bool
  paired : Option Packet
  await : List Nat
  deriving DecidableEq, Repr

/-- A copy command (R296): the thread's slot, its token's entry, its eight descriptor words, its registrations once it is
accepted, the elements processed, the word read for the next one, the status that ended it, and a cancel mark. -/
structure CopyCmd where
  id : Nat
  thr : Nat
  entry : Nat
  desc : List Word
  accepted : Bool
  regs : List (TileId × Nat)
  pos : Nat
  held : Option Word
  ended : Option Nat
  cancelled : Bool
  deriving DecidableEq, Repr

/-- An SFU request (R276): function, operand, thread and symbol-table entry. -/
structure SfuReq where
  fn : SfFn
  arg : Word
  thr : Nat
  entry : Nat
  deriving DecidableEq, Repr

/-- What the network carries (R445): a message, a peer access by its record number, a work packet, a migrating thread,
packets that the leveller ships, or an access of an engine (R21). -/
inductive Payload where
  | message (m : Message)
  | access (id : Nat)
  | packet (p : Packet)
  | migrant (m : Migrant)
  | shipment (ps : List Packet)
  | element (e : Engine)
  deriving DecidableEq, Repr

/-- An item of traffic from one tile to another: the berth that sent it, the berth it is on its way to, and whether it is
on its way back to its source (R445, R446). -/
structure Item where
  id : Nat
  src : TileId
  dst : TileId
  payload : Payload
  origin : Nat
  target : Nat
  back : Bool
  deriving DecidableEq, Repr

/-- An element of a vector memory instruction: its slot, its place within the slot, the access that performs it (none for a
discarded element), and the word it loaded, once there; `bad` marks uncorrectable data (R315). -/
structure VLane where
  slot : Nat
  sub : Nat
  access : Option Nat
  value : Option Word
  bad : Bool
  deriving DecidableEq, Repr

/-- A pushed vector instruction (R313): its scalar operands and VL as read at push, its elements, whether its stores have
their data, its progress (R324, R512), and the message it has taken (R324). -/
structure VOp where
  id : Nat
  instr : Instr
  xs : List Word
  vl : Nat
  lanes : List VLane
  started : Bool
  prog : Nat
  msg : Option Message
  deriving DecidableEq, Repr

/-- What holds queue entries of a claim: one instruction, or the runs of a REPF block (R331). -/
structure VItem where
  cost : Nat
  ops : List VOp
  deriving DecidableEq, Repr

/-- A vector context under a claim (R306, R307, R310, R315, R512). -/
structure VCtx where
  owner : Nat
  weight : Nat
  grq : Nat
  g : Nat
  vl : Nat
  v : List (List Word)
  k : List (BitVec 256)
  queue : List VItem
  mark : Option (Cause × Word)
  stop : Option (Cause × Word)
  reneg : Bool
  deriving DecidableEq, Repr

/-- How far the relocation of a tile has come (R461): its image streaming, its entry rewritten, and the tile restored. -/
inductive RelocStage where
  | streaming | cut | restored
  deriving DecidableEq, Repr

/-- A relocation in progress (R461): the old and the new berth, its stage, and the interfaces that have not acknowledged the
invalidation. -/
structure Reloc where
  old : Nat
  new : Nat
  stage : RelocStage
  acks : List Nat
  deriving DecidableEq, Repr

/-- A tile of a launch: its context, wherever its gang is (Table 1.1); `pairs` holds, by task, the items that its checked pair
has compared equal and the task's mismatches (R480, R481). -/
structure Tile where
  berth : Option Nat
  cycle : Nat
  stopped : Bool
  cores : List Core
  threads : AMap Nat Thread
  barTile : Option Barrier
  rlt : List (Option Registration)
  regWait : List Registration
  copyQ : List (List CopyCmd)
  sfuFifo : List SfuReq
  sfuBusy : List (SfuReq × Nat)
  inbox : List Message
  /-- The messages of the spillway heap, and the slot of the oldest in the ring of slots that its bytes form (R83). -/
  heap : List Message
  heapAt : Nat
  held : List Message
  overflow : List Message
  nextCore : Nat
  recvs : List PostedRecv
  vecs : List (Option VCtx)
  arr : MatArray
  work : List Packet
  migrants : List Migrant
  niq : List Item
  pairs : AMap (BitVec 64) (Nat × Nat)
  /-- The second members of the checked pairs' threads that differ from the first (R41, R480). -/
  twins : AMap Nat Twin
  reloc : Option Reloc
  /-- The number of the last balancing interval that the leveller has sampled, and its work list's length at that sample (R42). -/
  sampled : Nat
  sampledLen : Nat
  /-- The 32-bit words of the scratchpad that hold an uncorrectable error until they are written whole (R456, R476). -/
  poison : List Nat
  /-- The scratchpad lines and register groups as the last acknowledged write left them in its context image (R458): a line by its
  number, a group of 8 registers by 16 for each THRID. -/
  image : AMap Nat Nat
  imageRegs : AMap Nat (List RegState)
  /-- How many context images of the tile have been withdrawn (R455). -/
  imageNo : Nat
  deriving DecidableEq, Repr

/-! ## Launches -/

/-- The bound kernel record of a launch: what the image header, the directives and the LAUNCH command fix (21, 22). -/
structure Kernel where
  mode : DMode
  vx : Nat
  vy : Nat
  gx : Nat
  gy : Nat
  regs : Nat
  threads : Nat
  sliceMs : Nat
  balanceUs : Nat
  spill : Nat
  entry : Word
  exit : Word
  tvec : Word
  fmt : Word
  scp : Word
  pairs : Bool
  codeSize : Nat
  args : List Word
  layout : List (BitVec 256)
  dist : List (BitVec 128)
  deriving DecidableEq, Repr

/-- The first fault of a launch (R360): cause, TEPC, TVAL, THRID, tile number and global time. -/
structure FaultRec where
  cause : Cause
  tepc : Word
  tval : Word
  thr : Nat
  num : Nat
  time : Int
  deriving DecidableEq, Repr

/-- The state of a gang (Table 23.2). -/
inductive GangState where
  | unplaced | waiting | restoring | resident | saving | absent | ended
  deriving DecidableEq, Repr

/-- A gang record (Table 23.2): the time and source number of the fault that summons it (R450), when it became resident,
when its slice began, the completion record, the class its last TCLASS hint named (R449), and whether its threads have been
created (R457). -/
structure Gang where
  state : GangState
  gen : Nat
  fault : Option (Int × Nat)
  summon : Int
  slice : Int
  image : Nat
  crec : Option Nat
  moorn : Nat
  cls : Option Nat
  created : Bool
  deriving DecidableEq, Repr

/-- A virtual-to-berth entry (Table 23.1); no berth while P = 0. -/
structure VEntry where
  berth : Option Nat
  fwd : Bool
  gang : Nat
  gen : Nat
  deriving DecidableEq, Repr

/-- A mooring record (Table 23.7): the item, the global time and its source's berth at mooring. -/
structure Moored where
  item : Item
  time : Int
  source : Nat
  deriving DecidableEq, Repr

/-- How a level of work stands or ended (STATE of Table 22.7). -/
inductive LevelState where
  | pending | running | done | cancelled | faulted | refused
  deriving DecidableEq, Repr

/-- A launch in its slot: its bound record, its level names, its counter block's rim address, its counts (Table 22.7), the
accesses and messages that retired tasks still wait for (R30), its gang table, virtual-to-berth table and mooring queue (R442), and its grid barrier (R303). -/
structure Launch where
  kernel : Kernel
  node : Word
  job : Nat
  graph : Nat
  phase : Nat
  queue : Nat
  irq : Bool
  counter : Option Nat
  workTable : Nat
  moorBytes : Nat
  state : LevelState
  detail : Nat
  members : Nat
  lost : Nat
  retiring : List (List Nat)
  discard : Nat
  gen : Nat
  /-- The global time at which the last generation of the grid barrier completed (R208). -/
  genTime : Int
  arrived : List Nat
  arrivedNext : List Nat
  /-- The words of the counter block as the device last wrote them, each with its offset (R436). -/
  written : List (Nat × Nat)
  fault : Option FaultRec
  cancelled : Bool
  gangs : List Gang
  table : AMap Nat VEntry
  moored : List Moored
  deriving DecidableEq, Repr

/-! ## Berths and fields -/

/-- A cached virtual-to-berth entry of a network interface (R445). -/
structure NiEntry where
  tile : TileId
  berth : Nat
  gen : Nat
  deriving DecidableEq, Repr

/-- An item that a network interface sent and that is not acknowledged; `dropped` when its entry has been dropped since (R447). -/
structure Unacked where
  item : Nat
  tile : TileId
  dropped : Bool
  deriving DecidableEq, Repr

/-- The state of a berth (BSTAT.STATE, Table 23.4). -/
inductive BerthState where
  | free | moored | saving | restoring | forwarding | retired
  deriving DecidableEq, Repr

/-- A berth (23, 24, 02; its class is its column's): BSTAT, MOORED, FWDR, SAVEBASE, CKPTS, the network interface's cache and unacknowledged items, items
that a relocated tile's new berth holds (R462), the µTLB, whether the scrub of an open refresh window has begun (R478), healthy lane groups, powered-down lane
groups (R504), and the global times of its correctable errors
within an hour and of its uncorrectable ones within a day (R479). -/
structure Berth where
  utlb : List TlbEntry
  retire : Bool
  marginal : Bool
  pairs : Bool
  state : BerthState
  part : Nat
  moored : Option TileId
  fwdr : Option (Nat × Nat)
  /-- What FWDR holds in BERTH and TILE while VALID is 0, and MOORED in its slot bits while no tile is moored (Tables 0.4, 23.3, 23.5). -/
  fwdrKept : Nat × Nat
  mooredSlot : Nat
  saveBase : Nat
  ckpt : Bool
  cache : List NiEntry
  unacked : List Unacked
  held : List Item
  window : Bool
  edPhase : Nat
  /-- The group of 16 eDRAM lines that the next refresh window scrubs, and the poisoned lines (R478). -/
  scrub : Nat
  poison : List Nat
  lanes : Nat
  dark : Nat
  eccCorrected : List Int
  eccBad : List Int
  deriving DecidableEq, Repr

/-- A probe of the measuring tree (R491): the times of its sending, its arrival and its reply, and whether it has arrived. -/
structure Probe where
  t1 : Nat
  t2 : Nat
  t3 : Nat
  arrived : Bool
  deriving DecidableEq, Repr

/-- What a sensor's plausibility check remembers (R502, Table 26.5a order 2): the reading that later ones are compared with, the
time and the field's current of that reading, and whether the sensor is flagged stuck. -/
structure SensorRef where
  base : Int
  since : Int
  sum : Int
  stuck : Bool
  deriving DecidableEq, Repr

/-- A field (24 to 26): its TLB and walkers; its Weir's step, waiting requests with the step and source number of each, the
grant limit (0 for 2 per Weir step, else 1 per that many) and the step of its last grant (R205, R207); its time counter and the
measured offset of R491; its phase-table code (R503); wake requests with their times and source numbers, and the segments
being woken with their start times (R504); the last watchdog feed and whether it has timed out (R501); the setting that its cores and
Weir follow (R498); its sensors, the readings in use, and its trips with the times since which readings have been low (R502). -/
structure Field where
  tlb : List TlbEntry
  walks : List WalkReq
  weirStep : Nat
  weirQueue : List (Nat × Nat × TileId)
  weirLimit : Nat
  weirLast : Option Nat
  time : Nat
  counting : Bool
  off : Int
  probe : Option Probe
  probed : Nat
  code : Nat
  wakes : List (Int × Nat × Nat)
  waking : List (Nat × Int)
  fed : Int
  wdog : Bool
  applied : BitVec 16
  sensors : List SensorRef
  readings : List Int
  thermal : Bool
  cool : Option Int
  current : Bool
  low : Option Int
  deriving DecidableEq, Repr

/-! ## Host ports and levels of work (22) -/

/-- A counted level (Table 22.7): its state (CANCELLED from the cancel on), whether its counter has completed, its counts, and the
offset of its block in the partition's control region. -/
structure Level where
  state : LevelState
  closed : Bool
  members : Nat
  lost : Nat
  offset : Nat
  deriving DecidableEq, Repr

/-- A graph: its level, whether a cancel has acted on it (R438), the phase it belongs to, and how each of its nodes stands (R433). -/
structure GraphRec where
  level : Level
  acted : Bool
  phase : Option Nat
  nodes : AMap Nat LevelState
  deriving DecidableEq, Repr

/-- A job (R439): its level, whether ENDJOB has been taken, and its open phase. -/
structure JobRec where
  level : Level
  ended : Bool
  opened : Option Nat
  deriving DecidableEq, Repr

/-- A hardware work queue (Table 22.4, R429, R430): its ring, the last TAIL written, the commands that HEAD has passed, the
global time since which its head command waits, and whether a command of it waits (R439). -/
structure HostQueue where
  base : Nat
  qctl : Word
  err : Nat
  head : Word
  tail : Word
  since : Int
  blocked : Bool
  deriving DecidableEq, Repr

/-- The registers of a function (Table 22.2). -/
structure HostFunc where
  intstat : BitVec 3
  intmask : BitVec 3
  deriving DecidableEq, Repr

/-- Where a step checkpoint stands (R508). -/
inductive CkStep where
  | idle | stopping | clearing | writing
  deriving DecidableEq, Repr

/-- A partition (Table 26.2, 22, 26). -/
structure Part where
  en : Bool
  ns : Bool
  fields : BitVec 30
  port : Nat
  rank : Nat
  hall : BitVec 16
  sticky : BitVec 6
  last : Nat
  lastTime : Int
  budgetPos : Nat
  budgetWeir : Nat
  fallback : Bool
  pfloor : BitVec 16
  capt : List (BitVec 16)
  ckctl : Word
  ckstate : Nat
  ckseq : Nat
  ckstep : CkStep
  ckphase : Nat × Nat
  ckslots : List Nat
  ckrgn : List (Nat × Nat)
  ckcount : Nat
  cktimer : Int
  pqjob : Nat
  pqid : Nat
  pqres : Word
  lastQueue : Nat
  /-- The graph table (R433): each parked launch with the predecessors that it still waits for. -/
  parked : List (HostCmd × List Nat)
  ready : List HostCmd
  waiting : List HostCmd
  jobs : AMap Nat JobRec
  phases : AMap (Nat × Nat) Level
  graphs : AMap (Nat × Nat) GraphRec
  nextBlock : Nat
  stopsSent : List (Nat × Nat)
  stops : List (Nat × Nat × Nat)
  /-- The PHASE (some phase) and ENDJOB commands with IRQ set that have not completed: job, phase and queue (R441). -/
  irqs : List (Nat × Option Nat × Nat)
  /-- The translation pages and on-touch pages that firmware has taken from the partition's free granules (R474). -/
  bump : Nat
  /-- The MINOR in effect (R422). -/
  minor : Nat
  /-- The pages that the checkpoint in progress has copied (R508). -/
  ckcopied : Nat
  deriving DecidableEq, Repr

/-! ## Links, the module, and boot (25, 26) -/

/-- What crosses an external link (R118, R505, R506): a write of bytes to a rim physical address, or a message to a tile. -/
inductive LinkData where
  | write (pa : Nat) (bytes : List Byte)
  | message (dst : TileId) (m : Message)
  deriving DecidableEq, Repr

/-- An item on a link, with its source agent and sequence number (R118). -/
structure LinkItem where
  source : Nat
  seq : Word
  data : LinkData
  deriving DecidableEq, Repr

/-- An external link (R482, R505): failed, narrowed, the failed retransmissions of the flit in flight, the duplicates dropped, and
what arrives over it in order. -/
structure Link where
  failed : Bool
  narrow : Bool
  retries : Nat
  dups : Nat
  rx : List LinkItem
  deriving DecidableEq, Repr

/-- A write or message to another module that is not acknowledged (R118, R119, R483): its thread, destination module, sequence
number, link, contents, the global time of its sending, and whether it has been abandoned. -/
structure Remote where
  id : Nat
  thread : ThreadId
  dest : Nat
  link : Nat
  item : LinkItem
  time : Int
  lost : Bool
  deriving DecidableEq, Repr

/-- A defect map record (Table 25.2). -/
structure Defect where
  kind : Nat
  unit : Nat
  cause : Nat
  boot : Nat
  deriving DecidableEq, Repr

/-- How far boot has come (R484): the boot count, the stages completed in every booting field, the fields that have completed the
next stage, the fields that stay dark, and the failed units that enter the defect map at the next boot (R485). -/
structure Boot where
  count : Nat
  stage : Nat
  passed : BitVec 30
  dark : BitVec 30
  failed : List (Nat × Nat)
  deriving DecidableEq, Repr

/-- The module registers (Tables 21.6, 22.2, 26.1): the class of each column, VERSION, FREEB, settings and trip limits, the towpath's
key, domain, level, drop count and sequence number, whether a level waits to be applied, MODID and CWSEL. -/
structure Module where
  classes : List Nat
  version : Word
  freeb : Nat
  modcap : BitVec 16
  ttripset : BitVec 16
  itripset : BitVec 16
  ttrip : Nat
  itrip : Nat
  towkey : BitVec 128
  towdom : Word
  towlevel : Nat
  towdrop : Nat
  towseq : Word
  towpend : Bool
  modid : Nat
  cwsel : Nat
  deriving DecidableEq, Repr

/-- A range of a job's backing map (R474): virtual base and length, permissions, and the physical base of a mapped range, or none
for an on-touch one. -/
structure BackRange where
  va : Nat
  len : Nat
  r : Bool
  w : Bool
  pa : Option Nat
  deriving DecidableEq, Repr

/-- An attestation report (R490), in the order of its fields; the digests are SHA-384 values. -/
structure Report where
  nonce : Nat
  version : Word
  secver : Nat
  rom : BitVec 384
  firmware : List (BitVec 384)
  defects : BitVec 384
  freeb : Nat
  mix : Word
  worlds : BitVec 384
  deriving DecidableEq, Repr

/-! ## The whole machine -/

/-- The state of the module. -/
structure State where
  powered : Bool
  clock : Nat
  nextId : Nat
  agenda : List Instr
  /-- Whether the current step's time has passed, and which source acted last and at what time (R5): the order of equal times. -/
  ticked : Bool
  lastSource : Nat
  lastNow : Int
  /-- Commands that a dispatcher has taken and that are carried out next (R432, R433). -/
  taken : List HostCmd
  focus : TileId × Nat
  cur : Option ThreadId
  /-- The items that a member of a checked pair has presented in this turn (R480). -/
  presented : List PairItem
  /-- The errors that have struck and that no agent has met yet (R476; log entry 37). -/
  errors : List SoftError
  /-- Whether the thread that was offered the turn is held, so that the turn goes to another one (R34). -/
  held : Bool
  mem : List Host.Cell
  accesses : List Access
  tiles : AMap TileId Tile
  launches : AMap (Nat × Nat) Launch
  items : List Item
  acks : List (Nat × ThreadId)
  itemAcks : List (Nat × Nat)
  now : Int
  berths : AMap Nat Berth
  fields : AMap Nat Field
  parts : AMap Nat Part
  queues : AMap Nat HostQueue
  funcs : AMap (Nat × Nat) HostFunc
  /-- NumVFs of the PF of each port (R426). -/
  numVfs : List Nat
  qmap : AMap (Nat × Nat) Word
  msix : List (Nat × Nat × Nat)
  roots : AMap (Nat × Nat) Nat
  backing : AMap (Nat × Nat) (List BackRange)
  granules : AMap Nat (BitVec 16)
  modRegs : Module
  boot : Boot
  defects : List Defect
  /-- The berths that no route crosses and the seams without a link, as stage 4 of this boot found them (R488). -/
  holes : List Nat
  cuts : List Nat
  seamlat : List Word
  toff : List Int
  links : AMap Nat Link
  seqIn : AMap Nat Word
  /-- The last sequence number given per source agent and destination module (R118). -/
  seqOut : AMap (Nat × Nat) Word
  remotes : List Remote
  /-- STOP flits on their way: number, partition, peer, job and phase (R506). -/
  flits : List (Nat × Nat × Nat × Nat × Nat)
  /-- Accepted quay-tile queue commands with their registrations (R109). -/
  quay : List (Nat × List (TileId × Nat))
  reports : List Report
  deriving DecidableEq, Repr

/-- The module registers after reset (Tables 21.6 and 26.1); the columns' classes are fused (log entry 3). -/
def Module.reset : Module :=
  { classes := List.replicate 18 0 ++ (List.replicate 36 1 ++ List.replicate 18 2), version := 0x03000000#32, freeb := 0
    modcap := 0xFF87#16, ttripset := 0x0020#16, itripset := 0x0021#16, ttrip := 105, itrip := 960, towkey := 0, towdom := 0
    towlevel := 0, towdrop := 0, towseq := 0, towpend := false, modid := 0, cwsel := 0 }

/-- The machine right after a reset: powered, boot about to begin, no work, and memory with nothing listed. Records that a map
does not list stand at the reset values of their own definitions (log entry 3). -/
def State.reset : State :=
  { powered := true, clock := 0, nextId := 0, agenda := [], ticked := false, lastSource := 0, lastNow := 0, taken := [], focus := (⟨0, 0, 0⟩, 0), cur := none, presented := [], errors := [], held := false, mem := [], accesses := [], tiles := []
    launches := [], items := [], acks := [], itemAcks := [], now := 0, berths := [], fields := [], parts := [], queues := [], funcs := [], numVfs := [0, 0]
    qmap := [], msix := [], roots := [], backing := [], granules := [], modRegs := Module.reset
    boot := { count := 0, stage := 0, passed := 0, dark := 0, failed := [] }
    defects := [], holes := [], cuts := [], seamlat := List.replicate 49 0#32, toff := List.replicate 30 0, links := [], seqIn := [], seqOut := []
    remotes := [], flits := [], quay := [], reports := [] }

/-- Why the machine stops with a fault. -/
inductive Fault where
  /-- Raised by the step of a module without power, until a module reset (R484, R509); safe: nothing runs without power. -/
  | poweredOff
  deriving DecidableEq, Repr

/-- Why an instruction has no meaning in the model. -/
inductive Refusal where
  /-- Raised by the dispatch of an instruction that is not modelled yet; safe. -/
  | notModelled (mnemonic : String)
  deriving DecidableEq, Repr

end Sys2Proof.Machine
end

