-- ==== Sys2Proof/Machine/Ops.lean ====
section
/-! DEFINITION. The named operations over maps, memory, threads, cores and the wheel. -/

namespace Sys2Proof.Machine

/-! ## Finite maps -/

/-- The entry of a key. -/
def AMap.get? {κ ν : Type} [DecidableEq κ] : AMap κ ν → κ → Option ν
  | [], _ => none
  | (k, v) :: m, a => if k = a then some v else AMap.get? m a

/-- Sets a key: replaces its entry, or adds one at the end. -/
def AMap.set {κ ν : Type} [DecidableEq κ] : AMap κ ν → κ → ν → AMap κ ν
  | [], a, v => [(a, v)]
  | (k, w) :: m, a, v => if k = a then (k, v) :: m else (k, w) :: AMap.set m a v

/-- Drops a key. -/
def AMap.erase {κ ν : Type} [DecidableEq κ] (m : AMap κ ν) (a : κ) : AMap κ ν := m.filter fun e => e.1 ≠ a

/-- Changes the entry of a key that has one. -/
def AMap.update {κ ν : Type} [DecidableEq κ] (m : AMap κ ν) (a : κ) (f : ν → ν) : AMap κ ν :=
  match m.get? a with
  | some v => m.set a (f v)
  | none => m

/-- Changes one place of a list. -/
def updAt {α : Type} : List α → Nat → (α → α) → List α
  | [], _, _ => []
  | x :: xs, 0, f => f x :: xs
  | x :: xs, n + 1, f => x :: updAt xs n f

/-- Changes one place of a list whose places past its end hold z. -/
def updPad {α : Type} (z : α) : List α → Nat → (α → α) → List α
  | [], 0, f => [f z]
  | [], n + 1, f => z :: updPad z [] n f
  | x :: xs, 0, f => f x :: xs
  | x :: xs, n + 1, f => x :: updPad z xs n f

/-- Sets one place of a list whose places past its end hold z. -/
def setPad {α : Type} (z : α) (l : List α) (n : Nat) (v : α) : List α := updPad z l n fun _ => v

/-! ## Memory: one canonical list of bytes -/

/-- What a byte that memory does not list reads as: zero (R419 for scratchpads and weights; log entry 2 for the rest). -/
def unlistedByte : Byte := 0#8

/-- The byte at a key. -/
def memGet : List Host.Cell → Nat → Byte
  | [], _ => unlistedByte
  | (k, b) :: m, a => if k = a then b else memGet m a

/-- Writes a byte and keeps the canonical form: keys rising, no entry equal to what an unlisted byte reads as. -/
def memSet : List Host.Cell → Nat → Byte → List Host.Cell
  | [], a, b => if b = unlistedByte then [] else [(a, b)]
  | (k, c) :: m, a, b =>
    if a < k then (if b = unlistedByte then (k, c) :: m else (a, b) :: (k, c) :: m)
    else if a = k then (if b = unlistedByte then m else (a, b) :: m)
    else (k, c) :: memSet m a b

/-- The canonical form of a memory list: keys above a bound and rising, and no entry that reads as unlisted. -/
def memWfFrom : Nat → List Host.Cell → Bool
  | _, [] => true
  | n, (k, b) :: m => decide (n ≤ k) && b != unlistedByte && memWfFrom (k + 1) m

/-- The canonical form of a memory list. -/
def Memory.wf (m : List Host.Cell) : Bool := memWfFrom 0 m

/-- The little-endian number in n bytes from a key. -/
def memRead (m : List Host.Cell) : Nat → Nat → Nat
  | _, 0 => 0
  | a, n + 1 => (memGet m a).toNat + 256 * memRead m (a + 1) n

/-- Writes n little-endian bytes from a key. -/
def memWrite (m : List Host.Cell) : Nat → Nat → Nat → List Host.Cell
  | _, 0, _ => m
  | a, n + 1, v => memWrite (memSet m a (BitVec.ofNat 8 v)) (a + 1) n (v / 256)

/-- Writes a list of bytes from a key on. -/
def memWriteBytes (m : List Host.Cell) : Nat → List Byte → List Host.Cell
  | _, [] => m
  | a, b :: bs => memWriteBytes (memSet m a b) (a + 1) bs

/-- A memory key: a region, a subject within it and a byte offset. -/
def memKey (region subject off : Nat) : Nat := (region * 2 ^ 48 + subject) * 2 ^ 48 + off

/-- A tile as a memory subject. -/
def tileCode (t : TileId) : Nat := t.part * 2 ^ 32 + t.slot * 2 ^ 24 + t.num

/-- The key of the first byte of a place. Region 0 scratchpads, 1 weight spaces, 2 the rim store, 3 host memory. -/
def Place.key : Place → Nat
  | .scratch t p => memKey 0 (tileCode t) p
  | .weights t o => memKey 1 (tileCode t) o
  | .rim _ pa => memKey 2 0 pa
  | .host p a => memKey 3 p a

/-- The key of a byte of a launch's code section, as the launch record holds it (region 4). -/
def codeKey (part slot off : Nat) : Nat := memKey 4 (part * 256 + slot) off

/-! ## Tiles, threads and cores of the state -/

/-- A tile's record. -/
def State.tile? (st : State) (t : TileId) : Option Tile := st.tiles.get? t

/-- Changes a tile's record. -/
def State.modTile (st : State) (t : TileId) (f : Tile → Tile) : State := { st with tiles := st.tiles.update t f }

/-- A living thread's context. -/
def State.thread? (st : State) (t : ThreadId) : Option Thread :=
  match st.tile? t.tile with
  | some tl => tl.threads.get? t.thr
  | none => none

/-- Changes a living thread's context. -/
def State.modThread (st : State) (t : ThreadId) (f : Thread → Thread) : State :=
  st.modTile t.tile fun tl => { tl with threads := tl.threads.update t.thr f }

/-- Replaces a living thread's context. -/
def State.setThread (st : State) (t : ThreadId) (th : Thread) : State := st.modThread t fun _ => th

/-- The launch of a tile. -/
def State.launchOf (st : State) (t : TileId) : Option Launch := st.launches.get? (t.part, t.slot)

/-- Changes a launch. -/
def State.modLaunch (st : State) (part slot : Nat) (f : Launch → Launch) : State :=
  { st with launches := st.launches.update (part, slot) f }

/-- The record of an empty plane (R190). -/
def PlaneSrc.empty : PlaneSrc := ⟨0, 0, [], 0, 0, (0, 0), 0, 0, false⟩
/-- An empty plane, which reads as +0 with scale code 127. -/
def Plane.empty : Plane := ⟨[], [], none⟩
/-- A matrix array that is cold and unleased, with accumulators of +0. -/
def MatArray.reset : MatArray :=
  ⟨List.replicate 8 (List.replicate 4096 0#32), Plane.empty, Plane.empty, none, 0, 0, .cold, []⟩

/-- A core as it is before anything has happened: eight enabled, empty positions. -/
def Core.reset : Core :=
  { positions := List.replicate 8 ⟨true, [], 0⟩, deal := 0, symbols := [], outbound := [], bar := none, halted := false
    mcmds := [], active := PlaneSrc.empty, shadow := PlaneSrc.empty, reload := [], reloadRegs := none, reloadAt := none, plost := false }

/-- A core of a tile. -/
def Tile.core (tl : Tile) (c : Nat) : Core := tl.cores.getD c Core.reset

/-- Changes a core of a tile. -/
def Tile.modCore (tl : Tile) (c : Nat) (f : Core → Core) : Tile := { tl with cores := updPad Core.reset tl.cores c f }

/-- Changes a core of the state. -/
def State.modCore (st : State) (t : TileId) (c : Nat) (f : Core → Core) : State := st.modTile t (·.modCore c f)

/-- The core number of a THRID (R25). -/
def coreOf (thr : Nat) : Nat := thr / 64

/-- The tile cycle count of a tile (R31). -/
def State.cycleOf (st : State) (t : TileId) : Nat :=
  match st.tile? t with
  | some tl => tl.cycle
  | none => 0

/-- A fresh record number. -/
def State.freshId (st : State) : Nat × State := (st.nextId, { st with nextId := st.nextId + 1 })

/-- The code of a cause (Table 13.1). -/
def Cause.code : Cause → Nat
  | .illegal => 1 | .priv => 2 | .regLimit => 3 | .stallShort => 4 | .bounds => 5 | .translation => 6 | .access => 7
  | .rlock => 8 | .lease => 9 | .vclaim => 10 | .symovf => 11 | .mdiv => 12 | .mismatch => 13 | .brk => 14 | .soft => 15

/-- The tile whose agent issued an access. -/
def Agent.tile : Agent → TileId
  | .thread t => t.tile
  | .vector t => t.tile
  | .stream t _ => t.tile
  | .copy t _ => t
  | .plane t => t

/-- Puts an item into a tile's network interface queue. -/
def Tile.enqueue (tl : Tile) (id : Nat) (own dst : TileId) (p : Payload) : Tile :=
  { tl with niq := tl.niq ++ [⟨id, own, dst, p, 0, 0, false⟩] }

/-- The gang of a tile number (R15). -/
def Kernel.gangOf (k : Kernel) (num : Nat) : Nat :=
  num / 4096 / k.gy * ((k.vx + k.gx - 1) / k.gx) + num % 4096 / k.gx

/-- Changes a gang's record. -/
def State.modGang (st : State) (part slot gang : Nat) (f : Gang → Gang) : State :=
  st.modLaunch part slot fun l => { l with gangs := updAt l.gangs gang f }

/-- The state of a tile's gang. -/
def State.gangState (st : State) (t : TileId) : GangState :=
  match st.launchOf t with
  | none => .ended
  | some l => match l.gangs[l.kernel.gangOf (t.num)]? with
    | some g => g.state
    | none => .ended

/-- The tiles of a launch, by their map entries. -/
def State.tilesOf (st : State) (part slot : Nat) : List (TileId × Tile) :=
  st.tiles.filter fun e => e.1.part = part ∧ e.1.slot = slot

/-- The field of a berth (R4). -/
def fieldOf (berth : Nat) : Nat := berth / 72 / 14 * 6 + berth % 72 / 12

/-- A berth's record as it is at reset; one that has never changed is this record. -/
def Berth.reset : Berth :=
  { utlb := [], retire := false, marginal := false, pairs := false, state := .free, part := 0, moored := none
    fwdr := none, fwdrKept := (0, 0), mooredSlot := 0, saveBase := 0, ckpt := false, cache := [], unacked := [], held := [], window := false
    edPhase := 0, scrub := 0, poison := [], lanes := 16, dark := 0, eccCorrected := [], eccBad := [] }
/-- A field's record as it is at reset: the phase-table code is its index (R503), and the setting is the uncapped one (R497). -/
def Field.reset (f : Nat) : Field :=
  { tlb := [], walks := [], weirStep := 0, weirQueue := [], weirLimit := 0, weirLast := none, time := 0, counting := false, off := 0
    probe := none, probed := 0, code := f, wakes := [], waking := [], fed := 0, wdog := false, applied := 0xFF87#16
    sensors := List.replicate 16 ⟨0, 0, 0, false⟩, readings := List.replicate 16 0, thermal := false, cool := none
    current := false, low := none }

/-- A berth of the state. -/
def State.berth (st : State) (b : Nat) : Berth := (st.berths.get? b).getD Berth.reset
/-- A field of the state. -/
def State.field (st : State) (f : Nat) : Field := (st.fields.get? f).getD (Field.reset f)
/-- Changes a berth. -/
def State.modBerth (st : State) (b : Nat) (f : Berth → Berth) : State := { st with berths := st.berths.set b (f (st.berth b)) }
/-- Changes a field. -/
def State.modField (st : State) (n : Nat) (f : Field → Field) : State := { st with fields := st.fields.set n (f (st.field n)) }

/-- A correctable error of a berth (R479): 64 within one hour mark it MARGINAL. -/
def Berth.countCorrected (b : Berth) (now : Int) : Berth :=
  let times := b.eccCorrected.filter (fun (t : Int) => decide (now - 3600000000000 < t)) ++ [now]
  { b with eccCorrected := times, marginal := b.marginal || decide (64 ≤ times.length) }

/-- An uncorrectable error of a berth (R479): it marks it MARGINAL, and a second one within 24 hours sets RETIRE. -/
def Berth.countBad (b : Berth) (now : Int) : Berth :=
  let times := b.eccBad.filter (fun (t : Int) => decide (now - 86400000000000 < t)) ++ [now]
  { b with eccBad := times, marginal := true, retire := b.retire || decide (2 ≤ times.length) }

/-- Requests the wake of a segment, once (R504): a segment is 3 for each berth, the berth itself, its array and its vector unit. -/
def State.requestWake (st : State) (berth unit : Nat) : State :=
  let seg := berth * 3 + unit
  let f := st.field (fieldOf berth)
  if f.wakes.any (·.2.2 == seg) || f.waking.any (·.1 == seg) then st
  else st.modField (fieldOf berth) fun x => { x with wakes := x.wakes ++ [(st.now, berth, seg)] }

/-- Whether a unit of a berth is powered down. -/
def State.isDark (st : State) (berth unit : Nat) : Bool := (st.berth berth).dark / 2 ^ unit % 2 == 1

/-- Whether bytes of a weight space lie in a poisoned line of the eDRAM slice that holds it (R478), or bytes of a scratchpad in a word that
was restored poisoned (R456). -/
def State.poisoned (st : State) (p : Place) (size : Nat) : Bool :=
  match p with
  | .weights t off =>
    (match (st.tile? t).bind (·.berth) with
      | some b => (st.berth b).poison.any fun l => decide (l * 128 < off + size) && decide (off < (l + 1) * 128)
      | none => false)
  | .scratch t off => (st.tile? t).any fun tl => tl.poison.any fun w => decide (w * 4 < off + size) && decide (off < w * 4 + 4)
  | _ => false

/-- A write covers words of a scratchpad, which hold no error any more (R476). -/
def State.wrote (st : State) (p : Place) (size : Nat) : State :=
  match p with
  | .scratch t off => if (st.tile? t).all (·.poison.isEmpty) then st
      else st.modTile t fun tl => { tl with poison := tl.poison.filter fun w => !(decide (off ≤ w * 4) && decide (w * 4 + 4 ≤ off + size)) }
  | _ => st

/-- What a read of a place finds (R476, R478). -/
def State.eccAt (st : State) (p : Place) (size : Nat) (ecc : Ecc) : Ecc := if st.poisoned p size then .bad else ecc

/-! ## The members of a checked pair (R41, R480) -/

/-- A member that stands apart in nothing. -/
def Twin.same : Twin := ⟨none, [], none, none, none, none, none, none⟩

/-- The second member's context. -/
def Twin.apply (w : Twin) (t : Thread) : Thread :=
  { t with
    pc := w.pc.getD t.pc, regs := w.regs.foldl (fun rs e => rs.set e.1 e.2) t.regs, preds := w.preds.getD t.preds
    fflags := w.fflags.getD t.fflags, inflight := w.inflight.getD t.inflight, loops := w.loops.getD t.loops, coefs := w.coefs.getD t.coefs }

/-- Where one context stands apart from another. -/
def Twin.of (second first : Thread) (waits : Option (Bool × Nat)) : Twin :=
  { pc := if second.pc = first.pc then none else some second.pc
    regs := (second.regs.zip first.regs).zipIdx.filterMap fun e => if e.1.1 = e.1.2 then none else some (e.2, e.1.1)
    preds := if second.preds = first.preds then none else some second.preds
    fflags := if second.fflags = first.fflags then none else some second.fflags
    inflight := if second.inflight = first.inflight then none else some second.inflight
    loops := if second.loops = first.loops then none else some second.loops
    coefs := if second.coefs = first.coefs then none else some second.coefs
    waits := waits }

/-- How the second member of a thread's pair stands apart. -/
def Tile.twin (tl : Tile) (thr : Nat) : Twin := (tl.twins.get? thr).getD Twin.same

/-- Sets how the second member of a thread's pair stands apart. -/
def Tile.setTwin (tl : Tile) (thr : Nat) (w : Twin) : Tile :=
  { tl with twins := if w = Twin.same then tl.twins.erase thr else tl.twins.set thr w }

/-- Changes a thread, and the second member of its pair alike. -/
def Tile.modMembers (tl : Tile) (thr : Nat) (f : Thread → Thread) : Tile :=
  match tl.threads.get? thr, tl.twins.get? thr with
  | some t, some w => { tl with threads := tl.threads.update thr f }.setTwin thr (Twin.of (f (w.apply t)) (f t) w.waits)
  | _, _ => { tl with threads := tl.threads.update thr f }

/-! ## Registers of a thread -/

/-- A register's state; x0 is ready and zero (R11, R27). -/
def Thread.reg (t : Thread) (n : Nat) : RegState := if n = 0 then .ready 0#32 else t.regs.getD n (.ready 0#32)

/-- Writes a register's whole state (R159); x0 ignores it. An undelivered result of the register is no longer its value
and delivers only its flags (R175). -/
def Thread.setReg (t : Thread) (n : Nat) (v : RegState) : Thread :=
  if n = 0 then t
  else { t with
    regs := setPad (.ready 0#32) t.regs n v
    inflight := t.inflight.map fun f => if f.reg = n then { f with reg := 0 } else f }

/-- The peer-write counter (R102). -/
def Thread.peerCtr (t : Thread) : Nat := t.peerOut.length

/-- Writes a ready value. -/
def Thread.setX (t : Thread) (n : Nat) (v : Word) : Thread := t.setReg n (.ready v)

/-- ORs flags into FFLAGS (R135). -/
def Thread.orFlags (t : Thread) (f : FFlags) : Thread := { t with fflags := t.fflags ||| f }

/-- Whether a register has an undelivered fixed-latency result (R175). -/
def Thread.isEarly (t : Thread) (n : Nat) : Bool := n != 0 && t.inflight.any fun f => f.reg == n

/-- A predicate's value; p0 reads true (Table 7.7). -/
def Thread.pred (t : Thread) (p : BitVec 3) : Bool := p == 0#3 || t.preds.getLsbD p.toNat

/-- Writes a predicate; a write to p0 is discarded (R240). -/
def Thread.setPred (t : Thread) (p : BitVec 3) (v : Bool) : Thread :=
  if p = 0#3 then t
  else { t with preds := if v then t.preds ||| BitVec.twoPow 8 p.toNat else t.preds &&& ~~~(BitVec.twoPow 8 p.toNat) }

/-- Delivers the fixed-latency results that are due at a tile cycle, in program order (R175, R256, R403). -/
def Thread.deliverDue (t : Thread) (cycle : Nat) : Thread :=
  let due := t.inflight.filter fun f => decide (f.due ≤ cycle)
  let t := { t with inflight := t.inflight.filter fun f => decide (cycle < f.due) }
  due.foldl (fun t f => ({ t with regs := if f.reg = 0 then t.regs else setPad (.ready 0#32) t.regs f.reg (.ready f.value) }).orFlags f.flags) t

/-! ## The wheel (R31 to R36) -/

/-- The first enabled position at or after one, in ascending order with wrapping; the start itself when none is enabled. -/
def nextEnabled (ps : List Position) : Nat → Nat → Nat
  | 0, p => p % 8
  | k + 1, p => if (ps.getD (p % 8) ⟨false, [], 0⟩).enabled then p % 8 else nextEnabled ps k (p + 1)

/-- Deals a thread to the position that the dealing pointer names, at the list's tail, and moves the pointer on (R32). -/
def Core.dealSlot (c : Core) (slot : Nat) : Core × Nat :=
  let p := nextEnabled c.positions 8 c.deal
  ({ c with
      positions := updAt c.positions p fun q => { q with list := q.list ++ [slot] }
      deal := nextEnabled c.positions 8 (p + 1) }, p)

/-- Takes a slot out of a position list; the search start keeps its place, which wraps from the tail to the head (R34). -/
def Position.remove (q : Position) (slot : Nat) : Position :=
  match q.list.idxOf? slot with
  | none => q
  | some j =>
    let rest := q.list.eraseIdx j
    let start := if j < q.start then q.start - 1 else q.start
    { q with list := rest, start := if start < rest.length then start else 0 }

/-- Takes a slot off every position of a core. -/
def Core.undeal (c : Core) (slot : Nat) : Core := { c with positions := c.positions.map (·.remove slot) }

/-- A thread leaves the wheel for a reason (R32, R33). -/
def State.goOff (st : State) (t : ThreadId) (why : Why) : State :=
  ((st.modCore t.tile (coreOf t.thr) (·.undeal t.thr)).modThread t
    fun th => { th with status := .off why st.clock })

/-- A thread becomes ready and is dealt afresh (R32). -/
def State.dealThread (st : State) (t : ThreadId) : State :=
  match st.tile? t.tile with
  | none => st
  | some tl =>
    let (c, p) := ((tl.core (coreOf t.thr)).undeal t.thr).dealSlot t.thr
    (st.modCore t.tile (coreOf t.thr) fun _ => c).modThread t fun th => { th with status := .dealt p }

/-- The number of symbol-table entries that a thread holds (R155). -/
def State.symCount (st : State) (t : ThreadId) : Nat :=
  match st.tile? t.tile with
  | none => 0
  | some tl => ((tl.core (coreOf t.thr)).symbols.filter fun e => e.2.thr == t.thr && !e.2.discard).length

/-- The lowest free symbol-table entry of a core. -/
def Core.freeEntry (c : Core) : Option Nat := (List.range 256).find? fun e => (c.symbols.get? e).isNone

/-! ## Addresses and loop levels (R226, R268 to R271) -/

/-- Whether an address lies in a level's start to end. -/
def LoopLevel.holds (l : LoopLevel) (a : Word) : Bool := decide (l.start ≤ a) && decide (a ≤ l.stop)

/-- The levels that remain after a transfer from one address to another (R271), innermost first. -/
def loopsAfterJump (src dst : Word) : List LoopLevel → List LoopLevel
  | [] => []
  | l :: ls =>
    let rest := loopsAfterJump src dst ls
    -- a level outside this one has ended: so has this one
    if rest.length < ls.length then rest
    else if l.holds src && !l.holds dst then rest
    else l :: rest

/-- R270 at the end of the innermost level: counts the iteration and branches back, or pops the level and tests the
next one out when it shares the end. The next PC is answered with the thread. -/
def Thread.loopEnd (t : Thread) (fall : Word) : List LoopLevel → Thread × Word
  | [] => ({ t with loops := [] }, fall)
  | l :: ls =>
    if 1 < l.left then
      let l' := { l with left := l.left - 1, iter := l.iter + 1#32 }
      (({ t with loops := l' :: ls }).setX l.index (l.iter + 1#32), l.start)
    else
      match ls with
      | [] => ({ t with loops := [] }, l.stop + 4#32)
      | o :: os => if o.stop = l.stop then Thread.loopEnd t (l.stop + 4#32) (o :: os)
                   else ({ t with loops := ls }, l.stop + 4#32)

/-- Where an instruction goes on: the next one, the target of a taken transfer, or a PC that leaves the loop levels as they are. -/
inductive Next where
  | fall
  | jump (target : Word)
  | set (pc : Word)
  deriving DecidableEq, Repr

/-- The next PC of an instruction of some length, with the loop levels updated (R268 to R271). -/
def Thread.advance (t : Thread) (len : Nat) (next : Next) : Thread :=
  match next with
  | .jump x => { t with pc := x, loops := loopsAfterJump t.pc x t.loops }
  | .set x => { t with pc := x }
  | .fall =>
    let fall := t.pc + BitVec.ofNat 32 len
    match t.loops with
    | l :: _ =>
      if decide (t.pc ≤ l.stop) && decide (l.stop < fall) then
        let (t', pc) := t.loopEnd fall t.loops
        { t' with pc := pc }
      else { t with pc := fall }
    | [] => { t with pc := fall }

/-! ## Errors that no agent has met yet (R476; log entry 37) -/

/-- What a RECV's words meet: an error of theirs. -/
def SoftError.ofResult (tile : TileId) (core entry : Nat) : SoftError → Option Ecc
  | .result t c n bad => if t = tile ∧ c = core ∧ n = entry then some (if bad then .bad else .corrected) else none
  | _ => none
/-- The elements of a tile's plane that an error names. -/
def SoftError.ofPlane (tile : TileId) : SoftError → Option (List Nat)
  | .plane t es => if t = tile then some es else none
  | _ => none
/-- The error of a gang's image. -/
def SoftError.ofImage (part slot gang : Nat) : SoftError → Option ImageFault
  | .image p s g f => if p = part ∧ s = slot ∧ g = gang then some f else none
  | _ => none
/-- The error of the image location of a tile. -/
def SoftError.ofLocation (tile : TileId) : SoftError → Option Unit
  | .location t => if t = tile then some () else none
  | _ => none

/-- What the words of a RECV meet. -/
def State.resultEcc (st : State) (tile : TileId) (core entry : Nat) : Ecc := (st.errors.findSome? (SoftError.ofResult tile core entry)).getD .clean
/-- The elements in error of a tile's plane under reload. -/
def State.planeErrors (st : State) (tile : TileId) : List Nat := (st.errors.findSome? (SoftError.ofPlane tile)).getD []
/-- The error of a gang's image. -/
def State.imageError (st : State) (part slot gang : Nat) : ImageFault := (st.errors.findSome? (SoftError.ofImage part slot gang)).getD .clean
/-- Whether the image location of a tile is bad. -/
def State.locationBad (st : State) (tile : TileId) : Bool := (st.errors.findSome? (SoftError.ofLocation tile)).isSome

/-- The errors of a kind have been met and are gone. -/
def State.spend {α : Type} (st : State) (f : SoftError → Option α) : State :=
  if (st.errors.findSome? f).isSome then { st with errors := st.errors.filter fun e => (f e).isNone } else st

end Sys2Proof.Machine
end

