-- ==== Sys2Proof/Machine/Layout.lean ====
section
/-! DEFINITION. Tensor addressing: layout and distribution entries, and locations (R64 to R76, R511). -/

namespace Sys2Proof.Machine

/-- A layout entry by its fields (Table 2.2); extents are the stored values, one less than the count. -/
structure Entry where
  space : Nat
  rank : Nat
  elem : Nat
  bnd : Nat
  scope : Nat
  acc : Nat
  swz : Nat
  dist : Nat
  base : Nat
  ext : List Nat
  stride : List Int
  deriving DecidableEq, Repr

/-- A field of a layout or distribution entry. -/
def entryField {w : Nat} (b : BitVec w) (lo n : Nat) : Nat := (b.extractLsb' lo n).toNat

/-- The fields of a layout entry's 256 bits (Table 2.2). -/
def decodeEntry (b : BitVec 256) : Entry :=
  { space := entryField b 0 3, rank := entryField b 3 2 + 1, elem := entryField b 5 3, bnd := entryField b 8 2
    scope := entryField b 10 3, acc := entryField b 13 2, swz := entryField b 15 5, dist := entryField b 20 4
    base := entryField b 24 48
    ext := [entryField b 72 16, entryField b 88 16, entryField b 104 16, entryField b 120 16]
    stride := [(b.extractLsb' 136 28).toInt, (b.extractLsb' 164 28).toInt, (b.extractLsb' 192 28).toInt,
      (b.extractLsb' 220 28).toInt] }

/-- Layout(k) (R149): entry Lk of a launch; an undeclared entry is all zero (R64). -/
def Kernel.entryOf (k : Kernel) (n : Nat) : Entry := decodeEntry (k.layout.getD n 0)

/-- The scope that an entry's SCOPE code names; the reserved codes do not occur in a bound entry (R67). -/
def Entry.scopeOf (e : Entry) : Scope :=
  match e.scope with
  | 0 => .tile
  | 1 => .gang
  | 2 => .grid
  | 3 => .device
  | _ => .system

/-- Whether an entry holds packed L6 (R65, R66). -/
def Entry.packed (e : Entry) : Bool := e.elem == 5 && (e.space == 3 || e.space == 4 || e.space == 6)

/-- The bytes of an element (Table 2.3); a packed L6 group is three bytes. -/
def Entry.size (e : Entry) : Nat :=
  if e.packed then 3
  else match e.elem with
    | 0 => 1 | 1 => 2 | 2 => 4 | 3 => 2 | 4 => 4 | _ => 1

/-- The limit of a space in bytes (R68). -/
def spaceLimit (space : Nat) : Nat :=
  match space with
  | 1 => 3 * 2 ^ 20
  | 2 => 3 * 2 ^ 20
  | 3 => 2 ^ 23
  | 6 => 2 ^ 23
  | _ => 2 ^ 48

/-- TVAL of R70: entry, failing dimension and lane. -/
def locTval (k dim lane : Nat) : Word := BitVec.ofNat 32 (k + dim * 64 + lane * 256)

/-- The trap that a location or a distribution raises. -/
abbrev LocTrap := Cause × Word

/-- Whether a tile number lies in a launch's grid (R22). -/
def Kernel.inGrid (k : Kernel) (num : Nat) : Bool :=
  decide (num % 4096 < k.vx) && decide (num / 4096 < k.vy)

/-- The tile number of a coordinate (R14). -/
def tileNum (vx vy : Nat) : Nat := vy * 4096 + vx

/-- Distribute (R74): the owner's tile number and the local coordinates. `own` is the issuing tile's number and `explicitNum`
the tile number of explicit mode. -/
def distribute (k : Kernel) (kidx lane : Nat) (own explicitNum : Nat) (j n : Nat) (g : List Int) :
    Except LocTrap (Nat × List Int) :=
  let b := k.dist.getD j 0
  let mode := entryField b 126 2
  if mode = 1 then
    let ex := entryField b 93 1 = 1
    let ey := entryField b 90 1 = 1
    let dx := entryField b 94 2
    let dy := entryField b 91 2
    if ex ∧ n ≤ dx then .error (.access, locTval kidx dx lane)
    else if ey ∧ n ≤ dy then .error (.access, locTval kidx dy lane)
    else if ex ∧ g.getD dx 0 < 0 then .error (.bounds, locTval kidx dx lane)
    else if ey ∧ g.getD dy 0 < 0 then .error (.bounds, locTval kidx dy lane)
    else
      let bx : Int := entryField b 20 20 + 1
      let by' : Int := entryField b 0 20 + 1
      let px : Int := entryField b 52 12 + 1
      let py : Int := entryField b 40 12 + 1
      let ix := g.getD dx 0
      let iy := g.getD dy 0
      let vx : Int := if ex then entryField b 108 12 + ix / bx % px else own % 4096
      let vy : Int := if ey then entryField b 96 12 + iy / by' % py else own / 4096
      if (k.vx : Int) ≤ vx then .error (.bounds, locTval kidx dx lane)
      else if (k.vy : Int) ≤ vy then .error (.bounds, locTval kidx dy lane)
      else
        let g := if ex then g.set dx (ix / (bx * px) * bx + ix % bx) else g
        let g := if ey then g.set dy (iy / (by' * py) * by' + iy % by') else g
        .ok (tileNum vx.toNat vy.toNat, g)
  else if mode = 2 then .ok (own, g)
  else if k.inGrid explicitNum then .ok (explicitNum, g)
  else .error (.bounds, locTval kidx 0 lane)

/-- Where R68 resolves an element to: discarded, or a byte offset in a space of a tile, with the code within a packed group. -/
inductive Loc where
  | discard
  | byte (num : Nat) (space off code : Nat)
  deriving DecidableEq, Repr

/-- How an access uses its element: ACC must permit it (R68). -/
inductive Use where
  | read | write | both
  deriving DecidableEq, Repr

/-- Whether ACC permits a use (Table 2.2). -/
def Entry.permits (e : Entry) (u : Use) : Bool :=
  match u with
  | .read => e.acc % 2 == 1
  | .write => e.acc / 2 == 1
  | .both => e.acc == 3

/-- The bounds of R68 over the dimensions from d on: the clamped coordinates, none for a DISCARD. -/
def applyBounds (e : Entry) (load : Bool) (k lane : Nat) : Nat → List Nat → List Int → Except LocTrap (Option (List Int))
  | d, x :: xs, c :: cs =>
    if c < 0 ∨ (x : Int) < c then
      match e.bnd with
      | 1 => if load then (applyBounds e load k lane (d + 1) xs cs).map fun r => r.map fun l => min (max c 0) x :: l
             else .ok none
      | 2 => .ok none
      | _ => .error (.bounds, locTval k d lane)
    else (applyBounds e load k lane (d + 1) xs cs).map fun r => r.map fun l => c :: l
  | _, _, _ => .ok (some [])

/-- The element index of local coordinates (R68). -/
def Entry.index (e : Entry) (c : List Int) : Int := (c.zip e.stride).foldl (fun t p => t + p.1 * p.2) 0

/-- Resolve_Location (R68) for an access by a tile; L0 is the stack of thread `thr` (R76). Space 6 is closed to a privileged access too
while a kernel runs on the berth (R77). -/
def resolveLoc (k : Kernel) (own thr : Nat) (priv : Bool) (kidx : Nat) (u : Use) (g : List Int) (explicitNum lane : Nat) :
    Except LocTrap Loc :=
  let e := k.entryOf kidx
  if e.space = 6 ∧ !priv then .error (.priv, locTval kidx 0 lane)
  else if e.space = 0 ∨ e.space = 6 ∨ e.space = 7 ∨ !e.permits u then .error (.access, locTval kidx 0 lane)
  else do
    let (num, c) ← if e.space = 2 then distribute k kidx lane own explicitNum e.dist e.rank g else pure (own, g)
    let r ← applyBounds e (u = .read) kidx lane 0 (e.ext.take e.rank) (c.take e.rank)
    match r with
    | none => .ok .discard
    | some c =>
      let idx := e.index c
      let base : Int := e.base + (if kidx = 0 then 4 * (e.ext.getD 0 0 + 1) * thr else 0)
      let off := if e.packed then base + idx / 4 * 3 else base + idx * e.size
      if off < 0 ∨ (spaceLimit e.space : Int) < off + e.size then .error (.access, locTval kidx 0 lane)
      else .ok (.byte num e.space off.toNat (idx % 4).toNat)

/-- The coordinates of a row-major index (R511). -/
def rowMajor : List Nat → Nat → List Int
  | [], _ => []
  | [_], x => [(x : Int)]
  | e :: es, x => (x % (e + 1) : Nat) :: rowMajor es (x / (e + 1))

/-- The physical scratchpad byte of an offset under a swizzle select (R71): stripes keep their order, banks are permuted. -/
def swizzle (z off : Nat) : Nat :=
  let s := off / 4096
  let b := off / 128 % 32
  s * 4096 + (if z = 0 then b else Nat.xor b (z * s % 32)) * 128 + off % 128

/-- The tile of a launch by its number. -/
def withNum (t : TileId) (n : Nat) : TileId := { t with num := n }

/-- The coordinate registers of a memory operand, and the tile-number register of an explicit entry (R214). -/
def coordCount (k : Kernel) (kidx : Nat) : Nat :=
  let e := k.entryOf kidx
  e.rank + (if e.space = 2 ∧ entryField (k.dist.getD e.dist 0) 126 2 = 0 then 1 else 0)

/-- What GADDR computes from coordinates (R278): the owner's tile number and the element index. -/
def gaddrValue (k : Kernel) (own kidx lane : Nat) (g : List Int) (explicitNum : Nat) : Except LocTrap (Word × Word) :=
  let e := k.entryOf kidx
  if e.space = 0 ∨ e.space = 7 then .error (.access, locTval kidx 0 lane)
  else do
    let (num, c) ← if e.space = 2 then distribute k kidx lane own explicitNum e.dist e.rank g else pure (own, g)
    let r ← applyBounds e true kidx lane 0 (e.ext.take e.rank) (c.take e.rank)
    match r with
    | none => .ok (BitVec.ofNat 32 num, 0xFFFFFFFF#32)
    | some c => .ok (BitVec.ofNat 32 num, BitVec.ofInt 32 (e.index c))

end Sys2Proof.Machine
end

