-- ==== Sys2Proof/Machine/Locks.lean ====
section
/-! DEFINITION. The range-lock table: conflicts, registration in order, and release (R109 to R113). -/

namespace Sys2Proof.Machine

/-- Whether a byte of a place lies in a registered range; a swizzle select is its own inverse within a stripe (R71). -/
def rangeHolds (r : Range) (p : Place) (i : Nat) : Bool :=
  match p, r.space with
  | .scratch t ph, .scratch t' => t == t' && (let o := swizzle r.z (ph + i); decide (r.lo ≤ o) && decide (o ≤ r.hi))
  | .weights t o, .weights t' => t == t' && decide (r.lo ≤ o + i) && decide (o + i ≤ r.hi)
  | .rim va _, .rim => decide (r.lo ≤ va + i) && decide (va + i ≤ r.hi)
  | .host q a, .host q' => q == q' && decide (r.lo ≤ a + i) && decide (a + i ≤ r.hi)
  | _, _ => false

/-- Whether a range shares a byte with the size bytes of a place. -/
def rangeHits (r : Range) (p : Place) (size : Nat) : Bool := (List.range size).any (rangeHolds r p)

/-- Locked (R149): the lowest entry of a range-lock table that conflicts with an access (R110, R111). -/
def lockedBy (tl : Tile) (p : Place) (size : Nat) (write : Bool) : Option Nat :=
  (List.range 32).find? fun i =>
    match tl.rlt.getD i none with
    | some r => (write || r.write) && rangeHits r.range p size
    | none => false

/-- The tile that issued an engine's command; none for a quay tile's. -/
def Engine.tile? : Engine → Option TileId
  | .copy t _ => some t
  | .stream t _ => some t.tile
  | .plane t _ => some t
  | .reload t _ => some t
  | .quay _ => none

/-- Whether an access writes to the scratchpad of the tile that holds a registration and goes ahead of that registration on the
route of the tile that issued both (R103). -/
def aheadOf (a : Access) (owner : TileId) (r : Registration) : Bool :=
  r.engine.tile? == some a.agent.tile && decide (a.id < r.id) && a.kind != .load &&
    (match a.place with
      | .scratch t _ => t == owner && t != a.agent.tile
      | _ => false)

/-- Whether a registration of the owner's table keeps a peer access waiting (R112): one that it is not ahead of. -/
def ownerBlocks (tl : Tile) (owner : TileId) (a : Access) : Bool :=
  tl.rlt.any fun e => match e with
    | some r => (a.kind != .load || r.write) && rangeHits r.range a.place a.size && !aheadOf a owner r
    | none => false

/-- TVAL of RLOCK (R111): the table entry and the lane. -/
def lockTval (entry lane : Nat) : Word := BitVec.ofNat 32 (entry + lane * 256)

/-- Whether two registered ranges share a byte (R110): with equal selects by their offsets, otherwise byte by byte. -/
def rangesShare (a b : Range) : Bool :=
  a.space == b.space &&
  (if a.z = b.z then decide (a.lo ≤ b.hi) && decide (b.lo ≤ a.hi)
   else (List.range (a.hi + 1 - a.lo)).any fun i =>
     let o := swizzle b.z (swizzle a.z (a.lo + i))
     decide (b.lo ≤ o) && decide (o ≤ b.hi))

/-- Whether two registrations conflict (R110): a shared byte, at least one of them written. A registration of the same
engine command in one table does not wait for itself. -/
def Registration.conflicts (a b : Registration) : Bool :=
  a.engine != b.engine && (a.write || b.write) && rangesShare a.range b.range

/-- Enters every waiting registration of a table that may enter, in registration order (R110, R113): none conflicts with an
entered one or with an earlier waiting one, and a free entry is there. -/
def settleTable : List (Option Registration) → List Registration → List Registration → List (Option Registration) × List Registration
  | table, kept, [] => (table, kept)
  | table, kept, r :: rs =>
    let blocked := (table.any fun e => match e with
      | some x => r.conflicts x
      | none => false) || kept.any r.conflicts
    match table.idxOf? none with
    | some i => if blocked then settleTable table (kept ++ [r]) rs else settleTable (table.set i (some r)) kept rs
    | none => settleTable table (kept ++ [r]) rs

/-- REGISTRATION_ENTER for a tile's table. -/
def Tile.settle (tl : Tile) : Tile :=
  let (t, w) := settleTable tl.rlt [] tl.regWait
  { tl with rlt := t, regWait := w }

/-- Registers a range in the table of the issuing tile and, for a peer's scratchpad, in its owner's (R109); the answer names
the registrations. -/
def State.register (st : State) (tile : TileId) (engine : Engine) (range : Range) (write : Bool) : List (TileId × Nat) × State :=
  let owners := match range.space with
    | .scratch o => if o = tile then [tile] else [tile, o]
    | _ => [tile]
  owners.foldl (fun (acc : List (TileId × Nat) × State) o =>
    let (id, st) := acc.2.freshId
    let reg : Registration := ⟨id, engine, range, write⟩
    (acc.1 ++ [(o, id)], st.modTile o fun tl => Tile.settle { tl with regWait := tl.regWait ++ [reg] })) ([], st)

/-- Whether registrations are all entered, and what the issuing tile wrote to a peer ahead of one has been performed. -/
def State.entered (st : State) (regs : List (TileId × Nat)) : Bool :=
  regs.all fun r => match st.tile? r.1 with
    | none => true
    | some tl => tl.rlt.any fun e => match e with
      | some x => x.id == r.2 && !(st.accesses.any fun a => aheadOf a r.1 x)
      | none => false

/-- Releases registrations (Table 3.5), and lets waiting ones enter. -/
def State.release (st : State) (regs : List (TileId × Nat)) : State :=
  regs.foldl (fun (st : State) (r : TileId × Nat) => st.modTile r.1 fun tl => Tile.settle
    { tl with
      rlt := tl.rlt.map fun e => match e with
        | some x => if x.id = r.2 then none else some x
        | none => none
      regWait := tl.regWait.filter fun x => x.id ≠ r.2 }) st

/-- REGISTRATION_ENTER (R110, R113): a waiting registration of a table enters when nothing keeps it out. -/
def execRegistrationEnter (tile : TileId) (reg : Nat) (st : State) : Host.Outcome State Fault Refusal :=
  .next (st.modTile tile fun tl => if tl.regWait.any (·.id == reg) then tl.settle else tl)

end Sys2Proof.Machine
end

