-- ==== Sys2Proof/Machine/Parts.lean ====
section
/-! DEFINITION. Partitions, work queues, functions, and interrupts (R427 to R429, R441, R495). -/

namespace Sys2Proof.Machine

/-- A partition as it is at reset (Table 26.2). -/
def Part.reset : Part :=
  { en := false, ns := false, fields := 0, port := 0, rank := 15, hall := 0xFF87#16, sticky := 0, last := 0, lastTime := 0
    budgetPos := 0, budgetWeir := 0, fallback := false, pfloor := 0x0024#16, capt := List.replicate 16 0xFF87#16, ckctl := 0
    ckstate := 0, ckseq := 0, ckstep := .idle, ckphase := (0, 0), ckslots := [0, 0], ckrgn := List.replicate 8 (0, 0), ckcount := 0, cktimer := 0
    pqjob := 0, pqid := 0, pqres := 0xFFFFFFFF#32, lastQueue := 0, parked := [], ready := [], waiting := [], jobs := []
    phases := [], graphs := [], nextBlock := 0, stopsSent := [], stops := [], irqs := [], bump := 0, minor := 0, ckcopied := 0 }

/-- A partition of the state. -/
def State.part (st : State) (p : Nat) : Part := (st.parts.get? p).getD Part.reset
/-- Changes a partition. -/
def State.modPart (st : State) (p : Nat) (f : Part → Part) : State := { st with parts := st.parts.set p (f (st.part p)) }

/-- The lowest-numbered field of a partition. -/
def Part.firstField (p : Part) : Nat := ((List.range 30).find? fun f => p.fields.getLsbD f).getD 0

/-- The time counter of a partition's lowest-numbered field (R432). -/
def State.partTime (st : State) (p : Nat) : Int := (st.field (st.part p).firstField).time

/-- A queue as it is at reset (Table 22.4). -/
def HostQueue.reset : HostQueue := { base := 0, qctl := 6#32, err := 0, head := 0, tail := 0, since := 0, blocked := false }
/-- A work queue of the state, by its number over both ports (R427). -/
def State.queue (st : State) (q : Nat) : HostQueue := (st.queues.get? q).getD HostQueue.reset
/-- Changes a queue. -/
def State.modQueue (st : State) (q : Nat) (f : HostQueue → HostQueue) : State := { st with queues := st.queues.set q (f (st.queue q)) }

/-- A function's registers. -/
def State.func (st : State) (p f : Nat) : HostFunc := (st.funcs.get? (p, f)).getD ⟨0, 0⟩
/-- Changes a function's registers. -/
def State.modFunc (st : State) (p f : Nat) (g : HostFunc → HostFunc) : State := { st with funcs := st.funcs.set (p, f) (g (st.func p f)) }

/-- A QMAP entry (Table 22.3). -/
def State.qmapOf (st : State) (port group : Nat) : Word := (st.qmap.get? (port, group)).getD 0#32

/-- The function and partition that a QMAP entry gives its group to; none for a group that is not given (R428). -/
def qmapGiven (w : Word) : Option (Nat × Nat) :=
  let part := w.toNat / 256 % 32
  let func := w.toNat % 128
  if w.getLsbD 31 && decide (part < 30) && decide (func ≤ 64) then some (func, part) else none

/-- The port and group of a queue number (R427). -/
def queueGroup (q : Nat) : Nat × Nat := (q / 131072, q / 1024 % 128)

/-- Whether a function of a port exists (R426): the PF, and the VFs that NumVFs holds. -/
def State.hasFunc (st : State) (port func : Nat) : Bool := func == 0 || decide (func ≤ st.numVfs.getD port 0)

/-- The MSI-X vectors of a function (Table 22.1). -/
def vectorsOf (func : Nat) : Nat := if func = 0 then 2048 else 64

/-- Sets a cause of INTSTAT for a queue's function (R441): one that becomes set and is not masked sends one MSI-X message on
the queue's vector, when the function exists and has that vector (R426). -/
def State.interrupt (st : State) (q bit : Nat) : State :=
  let (port, group) := queueGroup q
  match qmapGiven (st.qmapOf port group) with
  | none => st
  | some (f, _) =>
    let r := st.func port f
    let st' := st.modFunc port f fun r => { r with intstat := r.intstat ||| BitVec.twoPow 3 bit }
    let vec := (st.queue q).qctl.toNat / 65536 % 2048
    if r.intstat.getLsbD bit || r.intmask.getLsbD bit || decide (vectorsOf f ≤ vec) || !st.hasFunc port f then st'
    else { st' with msix := st'.msix ++ [(port, f, vec)] }

end Sys2Proof.Machine
end

