-- ==== Sys2Proof/Machine/Walk.lean ====
section
/-! DEFINITION. The walk of a job's translation tables (R467, R468). -/

namespace Sys2Proof.Machine

/-- A 64-bit translation entry of the rim store (Table 24.1). -/
def State.rim64 (st : State) (pa : Nat) : Nat := memRead st.mem (memKey 2 0 pa) 8

/-- The index of a virtual address at a level, and the size of a page of that level (R467). -/
def levelIndex (level va : Nat) : Nat × Nat :=
  match level with
  | 1 => (va / 2 ^ 30 % 2 ^ 18, 2 ^ 30)
  | 2 => (va / 2 ^ 21 % 512, 2 ^ 21)
  | _ => (va / 2 ^ 16 % 32, 2 ^ 16)

/-- The size of the table that a level's entries point to (R467). -/
def nextTableSize (level : Nat) : Nat := if level = 1 then 4096 else 256

/-- Why a walk fails: the cause, KIND (3 for a malformed entry) and LEVEL (R468, Table 24.2). -/
structure WalkFail where
  cause : Cause
  malformed : Bool
  level : Nat
  deriving DecidableEq, Repr

/-- Whether a granule is assigned to a partition (Table 25.3). -/
def State.granuleOk (st : State) (part pa : Nat) : Bool :=
  match st.granules.get? (pa / 2 ^ 30) with
  | some g => g.getLsbD 14 && (g.toNat / 256 % 32 == part)
  | none => false

/-- The world of a partition (PCTL.NS). -/
def State.isNs (st : State) (part : Nat) : Bool := (st.part part).ns

/-- The permissions that a leaf gives an access (R468). -/
def leafPermits (st : State) (part : Nat) (e : TlbEntry) (va : Nat) (read write : Bool) : Bool :=
  !(read && !e.r) && !(write && !e.w) && !(!e.ns && st.isNs part) && st.granuleOk part (e.pa + (va - e.base))

/-- Walk (R468) from a level and a table, with as many levels left as the fuel. -/
def walkFrom (st : State) (part root va : Nat) (read write : Bool) : Nat → Nat → Nat → Except WalkFail TlbEntry
  | 0, level, _ => .error ⟨.translation, true, level⟩
  | fuel + 1, level, t =>
    let (ix, page) := levelIndex level va
    let e := st.rim64 (t + 8 * ix)
    let addr := e / 256 % 2 ^ 34 * 256
    if e / 2 ^ 63 % 2 = 0 then .error ⟨.translation, false, level⟩
    else if e / 2 ^ 42 % 2 ^ 17 ≠ 0 ∨ e % 256 ≠ 0 then .error ⟨.translation, true, level⟩
    else if e / 2 ^ 62 % 2 = 1 then
      if addr % page ≠ 0 then .error ⟨.translation, true, level⟩
      else
        let leaf : TlbEntry := ⟨root, va / page * page, page, addr, e / 2 ^ 60 % 2 == 1, e / 2 ^ 61 % 2 == 1, e / 2 ^ 59 % 2 == 1⟩
        if leafPermits st part leaf va read write then .ok leaf else .error ⟨.access, false, level⟩
    else if level = 3 then .error ⟨.translation, true, level⟩
    else if addr % nextTableSize level ≠ 0 then .error ⟨.translation, true, level⟩
    else walkFrom st part root va read write fuel (level + 1) addr

/-- A walk from the root (R468). -/
def walk (st : State) (part root va : Nat) (read write : Bool) : Except WalkFail TlbEntry :=
  walkFrom st part root va read write 3 1 root

end Sys2Proof.Machine
end

