-- ==== Sys2Proof/Machine/Levels.lean ====
section
/-! DEFINITION. The levels of work: counter blocks, the grid barrier, the commands, and graphs
(R50, R51, R303, R433 to R441). -/

namespace Sys2Proof.Machine

/-! ## Counter blocks (Table 22.7) -/

/-- The STATE code of a level (Table 22.7). -/
def LevelState.code : LevelState → Nat
  | .pending => 0 | .running => 1 | .done => 2 | .cancelled => 3 | .faulted => 4 | .refused => 5

/-- Whether a level has completed. -/
def LevelState.ended : LevelState → Bool
  | .pending | .running => false
  | _ => true

/-- Word 0 of a counter block. -/
def stateWord (s : LevelState) (detail : Nat) : Nat := s.code * 2 ^ 28 + detail % 2 ^ 28

/-- Writes some 32-bit words of a block, each with its offset. -/
def writeWords (mem : List Host.Cell) (key : Nat) (ws : List (Nat × Nat)) : List Host.Cell :=
  ws.foldl (fun m w => memWrite m (key + w.1) 4 (w.2 % 2 ^ 32)) mem

/-- The number of tiles of a launch that have arrived in the current generation, those that count by R303 included. -/
def State.countsArrived (st : State) (part slot : Nat) (l : Launch) (num : Nat) : Bool :=
  l.arrived.contains num ||
  ((match l.gangs[l.kernel.gangOf num]? with
    | some g => g.created
    | none => false) &&
   (match st.tile? ⟨part, slot, num⟩ with
    | some tl => tl.threads.isEmpty && tl.work.isEmpty && tl.migrants.isEmpty
    | none => false) &&
   (let isMig (it : Item) : Bool := match it.payload with
      | .migrant _ => it.dst == ⟨part, slot, num⟩
      | _ => false
    !(st.items.any isMig) && !(l.moored.any fun m => isMig m.item) &&
      !((st.tilesOf part slot).any fun e => e.2.niq.any isMig)))

/-- The tile numbers of a grid, in tile-number order. -/
def Kernel.tiles (k : Kernel) : List Nat := (List.range k.vy).flatMap fun y => (List.range k.vx).map fun x => tileNum x y

/-- Writes a launch's counts to its counter block as they change, and STATE last (R436, R437). ARRIVE counts the tiles that R303 counts as arrived while the
launch runs; at its completion there is no generation to arrive in, and only BAR.grid arrivals count (log entry 51). -/
def State.writeCounter (st : State) (part slot : Nat) : State :=
  match st.launches.get? (part, slot) with
  | none => st
  | some l =>
    match l.counter with
    | none => st
    | some pa =>
      let arrive := if l.state.ended then l.arrived.length else (l.kernel.tiles.filter (st.countsArrived part slot l)).length
      let fault := match l.fault with
        | some f => [(0x20, f.cause.code), (0x24, f.tepc.toNat), (0x28, f.tval.toNat), (0x2C, f.thr), (0x30, f.num)]
        | none => []
      let time := if l.state.ended then [(0x18, (st.now % 2 ^ 32).toNat), (0x1C, (st.now / 2 ^ 32 % 2 ^ 32).toNat)] else []
      let counts := [(4, l.members), (8, l.lost), (0xC, arrive), (0x10, l.gen), (0x14, min l.discard 0xFFFFFFFF)]
      let words := counts ++ fault ++ time ++ [(0, stateWord l.state l.detail)]
      let st := { st with mem := writeWords st.mem (memKey 2 0 pa) (words.filter fun w => !l.written.contains w) }
      st.modLaunch part slot fun l => { l with written := words }

/-- The rim address of a partition's control region (R495, R496). -/
def controlBase (part : Nat) : Nat := Config.controlAddress part % 2 ^ 20 * 2 ^ 22

/-- The counter block of a graph, phase or job in the partition's control region, in rim store (R50, R436, R495). A level whose
counter has not completed reads as running. -/
def State.writeLevel (st : State) (part : Nat) (v : Level) : State :=
  let time := if v.closed then [(0x18, (st.now % 2 ^ 32).toNat), (0x1C, (st.now / 2 ^ 32 % 2 ^ 32).toNat)] else []
  let words := [(4, v.members), (8, v.lost)] ++ time ++ [(0, stateWord (if v.closed then v.state else .running) 0)]
  { st with mem := writeWords st.mem (memKey 2 0 (controlBase part + v.offset)) words }

/-- The source number of the field controller of a partition's lowest field (R5, R450). -/
def State.controllerSource (st : State) (part : Nat) : Nat :=
  5040 + (st.part part).firstField

/-! ## Tile faults (R450) -/

/-- A tile fault against a gang (R450): the first one against a gang that is not resident is recorded with its global time
and the source number of the sender's berth. -/
def State.tileFault (st : State) (tile : TileId) (source : Nat) : State :=
  match st.launchOf tile with
  | none => st
  | some l => st.modGang tile.part tile.slot (l.kernel.gangOf (tile.num)) fun g =>
      if g.fault.isNone ∧ g.state ≠ .resident ∧ g.state ≠ .ended then
        { g with fault := some (st.now, source), state := if g.state = .absent then .waiting else g.state }
      else g

/-- A result that comes back to a gang that is not resident summons it, as arriving traffic does (R450; log entry 14). -/
def State.resultFault (st : State) (tile : TileId) : State := st.tileFault tile (st.controllerSource tile.part)

/-! ## The grid barrier (R302, R303, R59) -/

/-- Completes a barrier generation: once every tile has arrived, and at least one by BAR.grid, the generation ends, and the arrivals
counted for the next one begin it. Gangs that are away are summoned (R59). -/
def State.settleGeneration (st : State) (part slot : Nat) : State :=
  match st.launches.get? (part, slot) with
  | none => st
  | some l =>
    if l.arrived.isEmpty ∨ !l.kernel.tiles.all (st.countsArrived part slot l) then st
    else st.modLaunch part slot fun l => { l with
      gen := l.gen + 1, genTime := st.now, arrived := l.arrivedNext, arrivedNext := []
      gangs := l.gangs.map fun g =>
        if g.fault.isNone ∧ (g.state = .absent ∨ g.state = .saving) then
          { g with fault := some (st.now, st.controllerSource part), state := if g.state = .absent then .waiting else g.state }
        else g }

/-- Settles the grid barrier: the current generation and, when the arrivals counted for it complete it at once, the next; ARRIVE and GEN
are written to the counter block. -/
def State.settleBarrier (st : State) (part slot : Nat) : State :=
  (((st.settleGeneration part slot).settleGeneration part slot)).writeCounter part slot

/-! ## Completion of levels (R51, R433, R437 to R439) -/

/-- A command's fields (Table 22.5). -/
def cmdWord (c : HostCmd) (i : Nat) : Nat := (c.words.getD i 0#32).toNat
/-- OPC. -/
def cmdOpc (c : HostCmd) : Nat := cmdWord c 0 % 256
/-- IRQ. -/
def cmdIrq (c : HostCmd) : Bool := cmdWord c 0 / 256 % 2 == 1
/-- LEVEL. -/
def cmdLevel (c : HostCmd) : Nat := cmdWord c 0 / 512 % 4
/-- JOB. -/
def cmdJob (c : HostCmd) : Nat := cmdWord c 1
/-- REC. -/
def cmdRec (c : HostCmd) : Nat := cmdWord c 2 + cmdWord c 3 * 2 ^ 32
/-- GRAPH. -/
def cmdGraph (c : HostCmd) : Nat := cmdWord c 4
/-- NODE. -/
def cmdNode (c : HostCmd) : Nat := cmdWord c 5 % 65536
/-- NPRED. -/
def cmdNpred (c : HostCmd) : Nat := cmdWord c 5 / 65536
/-- PHASE. -/
def cmdPhase (c : HostCmd) : Nat := cmdWord c 6
/-- The predecessor nodes. -/
def cmdPreds (c : HostCmd) : List Nat :=
  ((List.range 8).map fun i => cmdWord c (8 + i / 2) / (if i % 2 = 0 then 1 else 65536) % 65536).take (cmdNpred c)

/-- Whether a command completes with an interrupt: sets INTSTAT.DONE of its queue's function (R441). -/
def State.doneIrq (st : State) (queue : Nat) (irq : Bool) : State := if irq then st.interrupt queue 0 else st

/-- How a node of a graph stands; a node that no LAUNCH has named counts as completed DONE (R433). -/
def Part.nodeState (p : Part) (job graph node : Nat) : LevelState :=
  match (p.graphs.get? (job, graph)).bind (·.nodes.get? node) with
  | some s => s
  | none => .done

/-- Whether every node of a graph has completed. -/
def GraphRec.idle (g : GraphRec) : Bool := g.nodes.all (·.2.ended)

/-- The completed graphs of a phase are counted in its block (Table 22.7). -/
def State.countPhase (st : State) (part job phase : Nat) : State :=
  match (st.part part).phases.get? (job, phase) with
  | none => st
  | some v =>
    if v.closed then st
    else
      let ended := ((st.part part).graphs.filter fun e => e.1.1 == job && e.2.phase == some phase && e.2.level.closed).map (·.2)
      let v := { v with members := ended.length, lost := (ended.filter (·.level.state != .done)).length }
      (st.modPart part fun p => { p with phases := p.phases.set (job, phase) v }).writeLevel part v

/-- A graph's level changes: its members and losses are counted, and it completes with its last node, CANCELLED when it or one of
its launches was cancelled (R51, Table 22.7). -/
def State.settleGraph (st : State) (part job graph : Nat) : State :=
  match (st.part part).graphs.get? (job, graph) with
  | none => st
  | some g =>
    let ended := g.nodes.filter (·.2.ended)
    let cancelled := g.acted || ended.any (·.2 == .cancelled)
    let v : Level := { g.level with
      state := if cancelled then .cancelled else if g.idle then .done else .running
      closed := g.idle
      members := ended.length, lost := (ended.filter (·.2 != .done)).length }
    let st := (st.modPart part fun p => { p with graphs := p.graphs.set (job, graph) { g with level := v } }).writeLevel part v
    match g.phase with
    | some ph => st.countPhase part job ph
    | none => st

/-- A node of a graph that completes DONE is waited for no more (R433). -/
def dropAwaited (job graph node : Nat) (e : HostCmd × List Nat) : HostCmd × List Nat :=
  if cmdJob e.1 = job ∧ cmdGraph e.1 = graph then (e.1, e.2.filter (· ≠ node)) else e

/-- Sets how a node stands, and settles its graph. -/
def State.setNode (st : State) (part job graph node : Nat) (s : LevelState) : State :=
  (st.modPart part fun p => { p with
      graphs := p.graphs.update (job, graph) fun g => { g with nodes := g.nodes.set node s }
      parked := if s = .done then p.parked.map (dropAwaited job graph node) else p.parked }).settleGraph part job graph

/-- The key of a byte of a launch record's copy, by the record's number (R434); region 6 of memory. -/
def recKey (rec off : Nat) : Nat := memKey 6 rec off

/-- A launch that never starts writes its counter block (R433, R435, R438), when its address is a multiple of 64 that
translates for the job. -/
def State.writeUnstarted (st : State) (part : Nat) (c : HostCmd) (s : LevelState) (detail : Nat) : State :=
  let va := memRead st.mem (recKey (cmdRec c) 0x90) 8
  match st.roots.get? (part, cmdJob c) with
  | none => st
  | some root => match walk st part root va false true with
    | .error _ => st
    | .ok e =>
      if va % 64 ≠ 0 then st else
      let time := [(0x18, (st.now % 2 ^ 32).toNat), (0x1C, (st.now / 2 ^ 32 % 2 ^ 32).toNat)]
      { st with mem := writeWords st.mem (memKey 2 0 (e.pa + (va - e.base))) (time ++ [(0, stateWord s detail)]) }

/-- A launch that has not started completes (R433, R435, R438): its block, its node and its interrupt. -/
def State.endUnstarted (st : State) (part : Nat) (c : HostCmd) (s : LevelState) (detail : Nat) : State :=
  let st := st.modPart part fun p => { p with parked := p.parked.filter (·.1 ≠ c), ready := p.ready.erase c }
  ((st.writeUnstarted part c s detail).setNode part (cmdJob c) (cmdGraph c) (cmdNode c) s).doneIrq c.queue (cmdIrq c)

/-- Parked launches (R433): one that waits for a predecessor that has completed other than DONE completes CANCELLED, and one that waits
for none any more becomes ready for admission. -/
def State.settleParked (part : Nat) : Nat → State → State
  | 0, st => st
  | n + 1, st =>
    let p := st.part part
    let stateOf (c : HostCmd) (m : Nat) : LevelState := p.nodeState (cmdJob c) (cmdGraph c) m
    match p.parked.find? fun e => e.2.any fun m => LevelState.ended (stateOf e.1 m) && stateOf e.1 m != .done with
    | some e => State.settleParked part n (st.endUnstarted part e.1 .cancelled 0)
    | none =>
      match p.parked.find? fun e => e.2.isEmpty with
      | some e => State.settleParked part n (st.modPart part fun p => { p with parked := p.parked.erase e, ready := p.ready ++ [e.1] })
      | none => st

end Sys2Proof.Machine
end

