-- ==== Sys2Proof/Machine/Phases.lean ====
section
/-! DEFINITION. Phases and jobs: opening, the global stop, the checkpoint boundary, closing and completion (R51, R439, R506 to R508). -/

namespace Sys2Proof.Machine

/-! ## The fields of CKCTL (Table 26.6) -/

/-- EN. -/
def ckEnabled (w : Word) : Bool := w.getLsbD 31
/-- MODE: whether boundaries are counted in phases. -/
def ckByPhase (w : Word) : Bool := w.getLsbD 30
/-- PEERS. -/
def ckPeers (w : Word) : Nat := w.toNat / 2 ^ 24 % 64
/-- PERIOD; 0 acts as 1. -/
def ckPeriod (w : Word) : Nat := max 1 (w.toNat % 2 ^ 24)

/-- What a privileged mesh address names (Table 2.6): an offset within a berth, a rim or a host address. -/
inductive PrivPlace where
  | berth (b off : Nat)
  | rim (pa : Nat)
  | host (a : Nat)
  deriving DecidableEq, Repr

/-- Whether an offset lies in a range of Table 2.7. -/
def berthOffsetOk (off : Nat) : Bool :=
  decide (off < 0x300000) || (decide (0x1000000 ≤ off) && decide (off < 0x1800000)) || decide (0x3F00000 ≤ off)

/-- An offset within the berth at some coordinates; none outside the mesh or outside Table 2.7 (R84). -/
def berthPlace (bx by' : Int) (off : Nat) : Option PrivPlace :=
  if 0 ≤ bx ∧ bx < 72 ∧ 0 ≤ by' ∧ by' < 70 ∧ berthOffsetOk off then some (.berth (by'.toNat * 72 + bx.toNat) off) else none

/-- A 7-bit field as a signed number. -/
def signed7 (n : Nat) : Int := if n < 64 then n else (n : Int) - 128

/-- A 64-bit privileged mesh address (R84), issued by a berth or by none; none where R84 has ACCESS. -/
def privPlace (issuer : Option Nat) (addr : Nat) : Option PrivPlace :=
  let x := addr / 2 ^ 33 % 128
  let y := addr / 2 ^ 26 % 128
  match addr / 2 ^ 61 % 8 with
  | 0 => if addr / 2 ^ 40 = 0 then berthPlace x y (addr % 2 ^ 26) else none
  | 4 => match issuer with
    | some b => berthPlace ((b % 72 : Nat) + signed7 x) ((b / 72 : Nat) + signed7 y) (addr % 2 ^ 26)
    | none => none
  | 2 => some (.rim (addr % 2 ^ 42))
  | 1 => some (.host (addr % 2 ^ 48))
  | _ => none

/-- A privileged address as a memory key (Tables 2.6 and 2.7): the scratchpad, unswizzled, or the eDRAM slice of the tile moored at a berth, the
rim, or the host behind a port; none where there is no memory. -/
def State.privKey (st : State) (port : Nat) (issuer : Option Nat) (addr : Nat) : Option Nat :=
  match privPlace issuer addr with
  | some (.rim pa) => some (memKey 2 0 pa)
  | some (.host a) => some (memKey 3 port a)
  | some (.berth b off) => match (st.berth b).moored with
    | some t => if off < 0x300000 then some (Place.scratch t off).key
      else if off < 0x1800000 then some (Place.weights t (off - 0x1000000)).key else none
    | none => none
  | none => none

/-- Whether a partition's world may reach a granule of the rim (R493): it is assigned to the partition, and not secure to a non-secure
one. -/
def State.granuleOpen (st : State) (part g : Nat) : Bool :=
  st.granuleOk part (g * 2 ^ 30) && (!st.isNs part || ((st.granules.get? g).getD 0).getLsbD 15)

/-- The bytes that a checkpoint writes to a slot: its commit record and the pages of the regions in use. -/
def Part.slotBytes (p : Part) : Nat := 64 + (p.ckrgn.map fun r => r.2 / 65536 * 65536).sum

/-- The memory key of the slot that a checkpoint writes (R508 step 3), when it is an address that the partition may write: every granule of a
rim slot is the partition's (R12, R493). -/
def State.slotKey (st : State) (part : Nat) : Option Nat :=
  let p := st.part part
  let addr := p.ckslots.getD ((p.ckseq + 1) % 2) 0
  match privPlace none addr with
  | some (.rim pa) =>
    let last := (pa + p.slotBytes - 1) / 2 ^ 30
    if (List.range (last + 1)).all fun g => decide (g < pa / 2 ^ 30) || st.granuleOpen part g then st.privKey p.port none addr else none
  | some (.host _) => st.privKey p.port none addr
  | _ => none

/-! ## Levels by name -/

/-- The graphs of a phase. -/
def Part.graphsOf (p : Part) (job phase : Nat) : List GraphRec :=
  (p.graphs.filter fun e => e.1.1 == job && e.2.phase == some phase).map (·.2)

/-- The open phase of a job (R439): the last one opened, until its counter completes. -/
def Part.openPhase (p : Part) (job : Nat) : Option Nat :=
  match (p.jobs.get? job).bind (·.opened) with
  | none => none
  | some ph => match p.phases.get? (job, ph) with
    | some v => if v.closed then none else some ph
    | none => none

/-- A fresh level, pending at the next free block of the control region. -/
def Level.fresh (offset : Nat) : Level := ⟨.running, false, 0, 0, offset⟩

/-- Makes a job known (R438), with its counter block. -/
def State.knowJob (st : State) (part job : Nat) : State :=
  let p := st.part part
  match p.jobs.get? job with
  | some _ => st
  | none =>
    let v := Level.fresh (p.nextBlock * 64)
    (st.modPart part fun p => { p with jobs := p.jobs.set job ⟨v, false, none⟩, nextBlock := p.nextBlock + 1 }).writeLevel part v

/-- Makes a phase known and opens it (R439). -/
def State.openPhase (st : State) (part job phase : Nat) : State :=
  let p := st.part part
  let v := Level.fresh (p.nextBlock * 64)
  (st.modPart part fun p => { p with
    phases := p.phases.set (job, phase) v
    nextBlock := p.nextBlock + 1
    jobs := p.jobs.update job fun j => { j with opened := some phase } }).writeLevel part v

/-- Makes a graph known (R438), in a phase. -/
def State.knowGraph (st : State) (part job graph : Nat) (phase : Option Nat) : State :=
  let p := st.part part
  match p.graphs.get? (job, graph) with
  | some _ => st
  | none =>
    let v := Level.fresh (p.nextBlock * 64)
    (st.modPart part fun p => { p with graphs := p.graphs.set (job, graph) ⟨v, false, phase, []⟩, nextBlock := p.nextBlock + 1 }).writeLevel part v

/-- Raises the interrupts of the PHASE and ENDJOB commands that complete with a level (R441). -/
def State.levelIrqs (st : State) (part job : Nat) (phase : Option Nat) : State :=
  let mine := (st.part part).irqs.filter fun i => i.1 = job ∧ i.2.1 = phase
  let st := st.modPart part fun p => { p with irqs := p.irqs.filter fun i => ¬(i.1 = job ∧ i.2.1 = phase) }
  mine.foldl (fun st i => st.doneIrq i.2.2 true) st

/-! ## The global stop (R506) -/

/-- Whether every graph of a phase has completed, and every remote write of the partition's launches is acknowledged. -/
def State.phaseQuiet (st : State) (part job phase : Nat) : Bool :=
  ((st.part part).graphsOf job phase).all (·.idle) &&
    st.remotes.all fun r => r.thread.tile.part != part || r.lost

/-- Whether the STOP flits of a phase have been sent and received. -/
def Part.stopped (p : Part) (job phase : Nat) : Bool :=
  ckPeers p.ckctl == 0 ||
    (p.stopsSent.contains (job, phase) && decide (ckPeers p.ckctl ≤ (p.stops.filter fun s => s.1 = job ∧ s.2.1 = phase).length))

/-- The job and phase that no checkpoint is for: a job number has 32 bits. -/
def noPhase : Nat × Nat := (2 ^ 32, 0)

/-- Whether a checkpoint boundary is due at the boundary of a phase (R507): one that was abandoned there is not taken again (R509). -/
def Part.boundaryDue (p : Part) (job phase : Nat) : Bool :=
  ckEnabled p.ckctl && p.ckstep == .idle && !(p.ckstate == 4 && p.ckphase == (job, phase)) &&
    (if ckByPhase p.ckctl then decide (ckPeriod p.ckctl ≤ p.ckcount + 1) else p.ckcount == 1)

/-- A job completes (R51, R439): DONE once it has ended and no phase is open, CANCELLED once a cancel has ended all of it. -/
def State.settleJob (st : State) (part job : Nat) : State :=
  let p := st.part part
  match p.jobs.get? job with
  | none => st
  | some j =>
    let quiet := (p.graphs.filter (·.1.1 = job)).all (·.2.idle)
    if j.level.closed ∨ (p.openPhase job).isSome then st
    else if (j.level.state = .cancelled ∧ quiet) ∨ (j.level.state ≠ .cancelled ∧ j.ended) then
      let v := { j.level with closed := true, state := if j.level.state = .cancelled then .cancelled else .done }
      ((st.modPart part fun p => { p with jobs := p.jobs.set job { j with level := v } }).writeLevel part v).levelIrqs part job none
    else st

/-- A phase closes (R439, R506): its counter completes, and its job counts it. -/
def State.closePhase (st : State) (part job phase : Nat) : State :=
  let p := st.part part
  match p.phases.get? (job, phase), p.jobs.get? job with
  | some v, some j =>
    let gs := p.graphsOf job phase
    let v := { v with
      closed := true, state := if v.state = .cancelled then .cancelled else .done
      members := gs.length, lost := (gs.filter (·.level.state != .done)).length }
    let w := { j.level with members := j.level.members + 1, lost := j.level.lost + (if v.state = .done then 0 else 1) }
    (((st.modPart part fun p => { p with
        phases := p.phases.set (job, phase) v
        jobs := p.jobs.set job { j with level := w }
        ckphase := if p.ckstep = .idle ∧ p.ckphase = (job, phase) then noPhase else p.ckphase
        ckcount := if ckByPhase p.ckctl then p.ckcount + 1 else p.ckcount }).writeLevel part v).writeLevel part w).levelIrqs part job (some phase)
  | _, _ => st

/-- CHECKPOINT_BOUNDARY (R508 step 3): slot (SEQ + 1) mod 2 is chosen and its commit record zeroed, unless the write is refused
(R509); the next PHASE stays held. -/
def State.beginCheckpoint (st : State) (part job phase : Nat) : State :=
  let st := match st.slotKey part with
    | some k => { st with mem := memWrite st.mem k 64 0 }
    | none => st
  st.modPart part fun p => { p with ckstep := .clearing, ckstate := 2, ckphase := (job, phase), ckcount := 0, cktimer := st.now }

/-- Whether a PHASE command of a job is held by a checkpoint (R508 step 1). -/
def Part.ckHolds (p : Part) (job : Nat) : Bool := (p.ckstep == .clearing || p.ckstep == .writing) && p.ckphase.1 == job

/-- The first waiting PHASE command of a job opens its phase, once none is open and no checkpoint holds it (R439, R508). -/
def State.releasePhase (st : State) (part job : Nat) : State :=
  let p := st.part part
  if (p.openPhase job).isSome ∨ p.ckHolds job then st
  else match p.waiting.find? fun c => cmdJob c = job with
    | none => st
    | some c =>
      let st := (st.modPart part fun p => { p with
        waiting := p.waiting.erase c
        irqs := if cmdIrq c then p.irqs ++ [(job, some (cmdPhase c), c.queue)] else p.irqs }).modQueue c.queue fun q =>
          { q with blocked := false, since := st.partTime part }
      st.openPhase part job (cmdPhase c)

/-- Whether a job waits for its open phase to close: a PHASE command waits, or ENDJOB has been taken. -/
def Part.wantsClose (p : Part) (job : Nat) : Bool :=
  (p.waiting.any fun c => cmdJob c == job) || (match p.jobs.get? job with
    | some j => j.ended
    | none => false)

/-- The open phase of a job closes when its global stop is reached (R439, R506; log entry 9): a cancelled phase once its graphs
have completed, and any other once a command waits on it, its STOP flits are sent and received, and it is quiet. -/
def State.settlePhase (st : State) (part job : Nat) : State :=
  let p := st.part part
  let st := match p.openPhase job with
    | none => st
    | some ph =>
      let cancelled := match p.phases.get? (job, ph) with
        | some v => v.state == LevelState.cancelled
        | none => false
      if cancelled then
        if (p.graphsOf job ph).all (·.idle) then st.closePhase part job ph else st
      else if p.wantsClose job && st.phaseQuiet part job ph then
        let st := if ckPeers p.ckctl ≠ 0 ∧ !p.stopsSent.contains (job, ph) then
            st.modPart part fun p => { p with stopsSent := p.stopsSent ++ [(job, ph)] }
          else st
        let due := p.boundaryDue job ph || (p.ckstep == CkStep.stopping && p.ckphase == (job, ph))
        if (st.part part).stopped job ph then
          let st := st.closePhase part job ph
          if due then st.beginCheckpoint part job ph else st
        else if p.boundaryDue job ph then
          st.modPart part fun p => { p with ckstep := .stopping, ckstate := 1, ckphase := (job, ph), cktimer := st.now }
        else st
      else st
  (st.releasePhase part job).settleJob part job

end Sys2Proof.Machine
end

