-- ==== Sys2Proof/Machine/Ending.lean ====
section
/-! DEFINITION. The completion of launches (R30, R51, R52, R437). -/

namespace Sys2Proof.Machine

/-- Empties the memory of a region's subject: a tile's scratchpad or weight space, or the code section of a launch slot. -/
def memClear (mem : List Host.Cell) (region subject : Nat) : List Host.Cell :=
  mem.filter fun c => c.1 / 2 ^ 48 ≠ region * 2 ^ 48 + subject

/-- Marks the second member of a checked pair (R465). -/
def State.modPair (st : State) (pairs : Bool) (b : Nat) (f : Berth → Berth) : State := if pairs then st.modBerth (b + 1) f else st

/-- Frees a berth (R454, R461). -/
def State.freeBerth (st : State) (pairs : Bool) (b : Nat) : State :=
  let free (x : Berth) : Berth :=
    { x with moored := none, fwdr := none, held := [], pairs := false, state := if x.state = .retired then .retired else .free }
  (st.modBerth b free).modPair pairs b free

/-- The messages that wait at a launch's tiles or in its mooring queue (R51). -/
def State.messagesOf (st : State) (part slot : Nat) (l : Launch) : Nat :=
  ((st.tilesOf part slot).foldl (fun n e => n + e.2.inbox.length + e.2.heap.length + e.2.held.length + e.2.overflow.length) 0) +
  (l.moored.filter fun m => match m.item.payload with
    | .message _ => true
    | _ => false).length

/-- The tasks that migrating threads of a launch carry, on its tiles or on the way (R45, R53). -/
def State.tasksUnderway (st : State) (part slot : Nat) : Nat :=
  let carries (it : Item) : Bool := match it.payload with
    | .migrant m => m.task.isSome && !m.spawned && it.dst.part == part && it.dst.slot == slot
    | _ => false
  (st.items.filter carries).length + ((st.tilesOf part slot).flatMap fun e => e.2.niq.filter carries).length +
    ((st.tilesOf part slot).flatMap fun e => e.2.migrants.filter fun m => m.task.isSome && !m.spawned).length

/-- A launch completes (R51, R437, R441): its messages are discarded and counted, its block gets its final words with STATE
last, its slot and berths are free, its node has ended, and its interrupts are raised. -/
def State.endLaunch (st : State) (part slot : Nat) (l : Launch) (s : LevelState) : State :=
  let st := st.modLaunch part slot fun l =>
    { l with state := s, discard := st.messagesOf part slot l, members := l.members + l.retiring.length, retiring := [], lost := l.lost + st.tasksUnderway part slot }
  let st := st.writeCounter part slot
  let berths := (st.tilesOf part slot).flatMap fun e => e.2.berth.toList ++ (match e.2.reloc with
    | some r => [r.old, r.new]
    | none => [])
  let st := berths.foldl (fun st b => st.freeBerth l.kernel.pairs b) st
  let ids := (st.tilesOf part slot).map (·.1)
  let st := { st with
    tiles := st.tiles.filter fun e => ¬(e.1.part = part ∧ e.1.slot = slot)
    launches := st.launches.erase (part, slot)
    items := st.items.filter fun i => ¬(i.dst.part = part ∧ i.dst.slot = slot)
    accesses := st.accesses.filter fun a => !(a.agent.tile.part == part && a.agent.tile.slot == slot)
    mem := ids.foldl (fun m t => memClear (memClear m 0 (tileCode t)) 1 (tileCode t)) (memClear st.mem 4 (part * 256 + slot)) }
  let st := (st.setNode part l.job l.graph l.node.toNat s).doneIrq l.queue l.irq
  let st := if s = .faulted then st.interrupt l.queue 1 else st
  (State.settleParked part (st.part part).parked.length st).settlePhase part l.job

/-- Whether a launch's tiles hold no thread, no queued packet and no migrating thread, on the tiles or on the way (R51). -/
def State.launchIdle (st : State) (part slot : Nat) (l : Launch) : Bool :=
  let mig (it : Item) : Bool := match it.payload with
    | .migrant _ => it.dst.part == part && it.dst.slot == slot
    | .packet _ => it.dst.part == part && it.dst.slot == slot
    | .shipment _ => it.dst.part == part && it.dst.slot == slot
    | _ => false
  ((st.tilesOf part slot).all fun e => e.2.threads.isEmpty && e.2.work.isEmpty && e.2.migrants.isEmpty && !(e.2.niq.any mig)) &&
    !(st.items.any mig) && !(l.moored.any fun m => mig m.item)

/-- The messages that are on their way, from an outbound queue to the acknowledgement of their arrival, with their sending tiles. -/
def State.messagesOut (st : State) : List (TileId × Message) :=
  let of (it : Item) : Option (TileId × Message) := match it.payload with
    | .message m => some (it.src, m)
    | _ => none
  (st.tiles.flatMap fun e => (e.2.cores.flatMap (·.outbound)).map (e.1, ·) ++ e.2.niq.filterMap of) ++ st.items.filterMap of

/-- Whether an access is unperformed, a message not acknowledged, or a copy not ended. -/
def State.outstanding (st : State) (id : Nat) : Bool :=
  st.accesses.any (·.id == id) || st.itemAcks.any (·.1 == id) || st.messagesOut.any (·.2.id == id) ||
    st.tiles.any fun e => e.2.copyQ.any fun q => q.any (·.id == id)

/-- Retirements are counted once every access that their threads issued has been performed, and every message acknowledged (R30). -/
def State.settleRetired (st : State) (part slot : Nat) : State :=
  let out (ids : List Nat) : Bool := ids.any st.outstanding
  st.modLaunch part slot fun l => { l with
    members := l.members + (l.retiring.filter fun r => !out r).length
    retiring := l.retiring.filter out }

/-- Whether every message that a launch's threads sent has reached its tile or the mooring queue (Table 10.5). -/
def State.messagesDone (st : State) (part slot : Nat) : Bool :=
  st.messagesOut.all fun m => !(m.1.part == part && m.1.slot == slot)

/-- Whether every access that a launch's agents issued has been performed. -/
def State.accessesDone (st : State) (part slot : Nat) : Bool :=
  st.accesses.all fun a => !(a.agent.tile.part == part && a.agent.tile.slot == slot)

/-- R51 and R52: a launch completes DONE when every gang has had its threads created and nothing of it runs or waits to run; a
cancelled one completes when its threads are gone, its copies have ended and its messages have been delivered (Table 10.5), FAULTED when a fault cancelled it. -/
def State.settleLaunch (st : State) (part slot : Nat) : State :=
  let st := (st.settleRetired part slot).settleBarrier part slot
  match st.launches.get? (part, slot) with
  | none => st
  | some l =>
    if !st.accessesDone part slot ∨ !st.messagesDone part slot then st
    else if l.cancelled then
      if (st.tilesOf part slot).all fun e => e.2.threads.isEmpty && e.2.copyQ.all (·.isEmpty) then
        st.endLaunch part slot l (if l.detail = 0 then .cancelled else .faulted)
      else st
    else if (l.gangs.all (·.created)) && l.retiring.isEmpty && st.launchIdle part slot l then st.endLaunch part slot l .done
    else st

/-- The launches whose retirements or completion wait for an item that no longer is on its way. -/
def State.settleAwaited (st : State) (id : Nat) : State :=
  ((st.launches.filter fun l => l.2.retiring.any (·.contains id) || (st.tilesOf l.1.1 l.1.2).all (·.2.threads.isEmpty)).map (·.1)).foldl
    (fun st l => st.settleLaunch l.1 l.2) st

end Sys2Proof.Machine
end

