-- ==== Sys2Proof/Machine/Trap.lean ====
section
/-! DEFINITION. Following (R48, R49), the end of an instruction, and taking a trap (R358 to R362). -/

namespace Sys2Proof.Machine

/-! ## Following -/

/-- The threads of a tile that follow a thread, in ascending THRID. -/
def Tile.followers (tl : Tile) (leader : Nat) : List Nat :=
  (List.range 512).filter fun n =>
    match tl.threads.get? n with
    | some t => match t.follow with
      | some f => f.leader == leader
      | none => false
    | none => false

/-- A thread follows no more (R49); one that had joined issues nothing at its next turn (R409). -/
def Thread.stopFollow (t : Thread) : Thread :=
  { t with follow := none, bubble := t.bubble || t.follow.any (·.joined) }

/-- Ends following for one thread (R49): it resumes its own fetch; one that never joined is released with its PC unchanged. -/
def State.endFollow (st : State) (t : ThreadId) : State :=
  match st.thread? t with
  | none => st
  | some th =>
    match th.follow with
    | none => st
    | some f =>
      let st := st.modThread t Thread.stopFollow
      if f.joined then st else st.dealThread t

/-- Ends following for all followers of a leader (R49). -/
def State.endFollowers (st : State) (t : ThreadId) : State :=
  match st.tile? t.tile with
  | none => st
  | some tl => (tl.followers t.thr).foldl (fun st n => st.endFollow ⟨t.tile, n⟩) st

/-- A leader issues the instruction at an address (R48), and leaves it by a taken transfer or not: a blocked follower at that address
joins, and every joined follower may execute it; one that has come to another address follows no more (R49). -/
def State.leaderIssues (st : State) (t : ThreadId) (addr : Word) (taken : Bool) : State :=
  match st.tile? t.tile with
  | none => st
  | some tl => (tl.followers t.thr).foldl (fun st n =>
      match st.thread? ⟨t.tile, n⟩ with
      | none => st
      | some th => match th.follow with
        | none => st
        | some f =>
          if f.joined then st.modThread ⟨t.tile, n⟩ fun th =>
            if f.trace.isEmpty ∧ th.pc ≠ addr then th.stopFollow else { th with follow := some { f with trace := f.trace ++ [(addr, taken)] } }
          else if th.pc = addr then
            (st.modThread ⟨t.tile, n⟩ fun th =>
              { th with follow := some { f with joined := true, trace := [(addr, taken)] } }).dealThread ⟨t.tile, n⟩
          else st) st

/-- A follower has executed the instruction at the head of its leader's stream and leaves it by a taken transfer or not; following ends
when its leader did otherwise, or has gone on at another PC (R49, R268). -/
def Thread.stepFollow (t : Thread) (taken : Bool) : Thread :=
  match t.follow with
  | none => t
  | some f => match f.trace with
    | [] => t
    | (_, led) :: rest =>
      if led != taken || rest.head?.any (·.1 != t.pc) then t.stopFollow else { t with follow := some { f with trace := rest } }

/-! ## Taking a trap -/

/-- Whether a cause is routed to firmware (Table 13.1). -/
def Cause.toFirmware : Cause → Bool
  | .translation | .mismatch | .soft => true
  | _ => false

/-- TVEC of a launch that declares none (R361). -/
def noTvec : Word := 0xFFFFFFFF#32

/-- The INH bit of TSTAT (Table 13.3). -/
def Thread.inh (t : Thread) : Bool := t.tstat.getLsbD 0

/-- TSTAT from its four fields (Table 13.3). -/
def tstatWord (fol pstep pair inh : Bool) : Word :=
  BitVec.ofNat 32 (fol.toNat * 8 + pstep.toNat * 4 + pair.toNat * 2 + inh.toNat)

/-- Trap entry to TVEC (R359): what changes in the thread's context, and nothing else. -/
def Thread.enterTrap (t : Thread) (cause : Cause) (tval epc : Word) (fol pair fwd : Bool) (tvec : Word) : Thread :=
  { t with
    tcause := BitVec.ofNat 32 (fwd.toNat * 256 + cause.code)
    tval := tval
    tepc := epc
    tstat := tstatWord fol t.step pair true
    step := false
    follow := none
    bubble := t.bubble || t.follow.any (·.joined)
    fence := none
    w1Done := false
    symSince := none
    pc := tvec }

/-- A thread is killed (R52): a ready thread at its next turn, which THREAD_KILL is; one that is off the wheel at once,
by the event that the agenda takes next. -/
def State.markKill (st : State) (t : ThreadId) : State :=
  match st.thread? t with
  | none => st
  | some th =>
    let st := st.modThread t fun th => { th with kill := true }
    match th.status with
    | .off _ _ => { st with agenda := st.agenda ++ [.threadKill t] }
    | _ => st

/-- R52 for one tile: its queued packets are never dispatched, and its copies end with the cancelled status (Table 10.5). The
threads of a resident tile are killed; a context that is not resident is discarded, and its tasks count as cancelled. -/
def State.cancelTile (st : State) (id : TileId) (tl : Tile) : State :=
  let st := st.modTile id fun tl => { tl with
    work := [], held := [], overflow := [], stopped := false
    copyQ := tl.copyQ.map fun q => q.map fun c => { c with cancelled := true } }
  match tl.berth with
  | some _ => tl.threads.foldl (fun st th => st.markKill ⟨id, th.1⟩) st
  | none =>
    let tasks := (tl.threads.filter fun th => th.2.task.isSome && th.2.parent.isNone).length
    (st.modTile id fun tl => { tl with threads := [], twins := [], cores := List.replicate 8 Core.reset }).modLaunch id.part id.slot
      fun l => { l with lost := l.lost + tasks }

/-- Whether an item carries a task with a migrating thread (R45). -/
def Item.carriesTask (it : Item) : Bool :=
  match it.payload with
  | .migrant m => m.task.isSome && !m.spawned
  | _ => false

/-- R52 for a launch: no thread is created any more, its threads are killed, and its moored traffic and the saved contexts
of its absent gangs are discarded; a save or a restore in progress stops at once (R452). The launch completes when its last thread is gone. -/
def State.cancelLaunch (st : State) (part slot : Nat) : State :=
  let gone := (st.launches.get? (part, slot)).elim [] fun l => l.moored.filterMap fun m => match m.item.payload with
    | .access id => some id
    | _ => none
  let st := { st with accesses := st.accesses.filter fun a => !gone.contains a.id }
  let st := st.modLaunch part slot fun l => { l with
    cancelled := true, moored := [], lost := l.lost + (l.moored.filter (·.item.carriesTask)).length
    gangs := l.gangs.map fun g => match g.state with
      | .resident => g
      | .saving => { g with state := .resident }
      | .restoring => if g.created then { g with state := .resident } else { g with state := .ended, fault := none }
      | _ => { g with state := .ended, fault := none } }
  (st.tilesOf part slot).foldl (fun st e => st.cancelTile e.1 e.2) st

/-- A launch fails (R360, R437): detail 1 for a trap, 2 for a double trap, 3 for an exhausted mooring queue; the fault is recorded, and
the launch is cancelled by R52. A launch that a cancel or an earlier fault has acted on is left as it is (R438). -/
def State.failLaunch (st : State) (part slot detail : Nat) (fault : Option FaultRec) : State :=
  match st.launches.get? (part, slot) with
  | none => st
  | some l =>
    if l.cancelled then st
    else (st.modLaunch part slot fun l => { l with detail := detail, fault := fault }).cancelLaunch part slot

/-- R360: a launch fails by a thread's trap, and the thread, which issues nothing more, is killed (R359). -/
def State.failThread (st : State) (t : ThreadId) (detail : Nat) (cause : Cause) (tepc tval : Word) : State :=
  let st := st.failLaunch t.tile.part t.tile.slot detail (some ⟨cause, tepc, tval, t.thr, t.tile.num, st.now⟩)
  if (st.thread? t).isSome then { st with agenda := st.agenda ++ [.threadKill t] } else st

/-- Whether a thread waits at a FOLLOW that has not joined. -/
def Thread.joining (t : Thread) : Bool :=
  match t.status with
  | .off .followJoin _ => true
  | _ => false

/-- A trap that goes to TVEC (R359, R360): entry, a double trap, or the failure of a launch without TVEC. A thread that a stepped FOLLOW
has blocked follows no more and runs its handler (R49, R362). -/
def State.userTrap (st : State) (t : ThreadId) (cause : Cause) (tval epc : Word) (fol pair fwd : Bool) : State :=
  match st.thread? t, st.launchOf t.tile with
  | some th, some l =>
    if l.kernel.tvec = noTvec then (st.endFollowers t).failThread t 1 cause epc tval
    else if th.inh then (st.endFollowers t).failThread t 2 cause epc tval
    else
      let st := (st.setThread t (th.enterTrap cause tval epc fol pair fwd l.kernel.tvec)).endFollowers t
      if th.joining then st.dealThread t else st
  | _, _ => st

/-- FVA and FINFO of a trap that firmware takes (R472): those of a translation, and VALID = 0 otherwise. -/
def State.setInfo (st : State) (t : ThreadId) (cause : Cause) (info : Option (Nat × Word)) : State :=
  if cause.toFirmware then
    let i := info.getD (0, 0#32)
    st.modThread t fun th => { th with fva := BitVec.ofNat 48 i.1, finfo := i.2 }
  else st

/-- Takes a trap (R358): a cause for firmware parks the thread with its trap, and any other goes to TVEC. A follower that traps follows
no more (R49). -/
def State.takeTrap (st : State) (t : ThreadId) (cause : Cause) (tval epc : Word) (pair : Bool) : State :=
  let fol := ((st.thread? t).bind (·.follow)).isSome
  if cause.toFirmware then
    ((st.endFollowers t).modThread t fun th =>
      { th.stopFollow with fwTrap := some ⟨cause, tval, epc, pair, fol⟩, symSince := none }).goOff t .firmware
  else st.userTrap t cause tval epc fol pair false

/-! ## The end of an instruction -/

/-- The registrations of read streams whose last element has been popped, and the thread without them (Table 3.5). -/
def Thread.spentStreams (t : Thread) : List (TileId × Nat) × Thread :=
  let spent (b : Stream) : Bool := !b.write && decide (b.counts.foldl (· * ·) 1 ≤ b.pos)
  (t.streams.flatMap fun s => match s with
    | some b => if spent b then b.regs else []
    | none => [],
   { t with streams := t.streams.map fun s => s.map fun b => if spent b then { b with regs := [] } else b })

/-- Whether the instruction at a byte offset of a thread's code section is an IMX pair (TSTAT.PAIR, Table 13.3; R227, R229). -/
def State.pairAt (st : State) (t : ThreadId) (pc : Word) : Bool :=
  match st.launchOf t.tile with
  | none => false
  | some l =>
    let word (off : Nat) : Nat := memRead st.mem (codeKey t.tile.part t.tile.slot off) 4
    decide (pc.toNat + 8 ≤ l.kernel.codeSize) && isImxWord (word pc.toNat) && acceptsImx (word (pc.toNat + 4))

/-- An instruction of a thread completes (R35, R48, R268 to R271, R362): the PC and the loop levels move on, the stall
count begins, the followers may execute the instruction, and then BREAK is raised with a TVAL, when there is one. -/
def State.complete (st : State) (t : ThreadId) (s : BitVec 2) (len : Nat) (next : Next) (brk : Option Word) : State :=
  match st.thread? t with
  | none => st
  | some th =>
    let moved := th.advance len next
    let taken := (match next with
      | .jump _ => true
      | _ => false) || moved.pc != th.pc + BitVec.ofNat 32 len
    let th' : Thread := { moved.stepFollow taken with
      stall := if th.mode = .w1 then 0 else s.toNat
      lastIssue := st.cycleOf t.tile
      fence := none
      w1Done := false
      matCmd := none
      symSince := none }
    let sp := Thread.spentStreams th'
    let st := ((st.setThread t sp.2).release sp.1).leaderIssues t th.pc taken
    match brk with
    | some v => st.takeTrap t .brk v sp.2.pc (st.pairAt t sp.2.pc)
    | none => st

/-- TVAL of a single-step BREAK (R362). -/
def stepTval : Word := 0xFFFFFFFF#32

end Sys2Proof.Machine
end

