-- ==== Sys2Proof/Machine/Tlb.lean ====
section
/-! DEFINITION. Rim translation: the two TLBs and the walkers (R469 to R472). -/

namespace Sys2Proof.Machine

/-- Whether a cached leaf maps a job's virtual address. -/
def TlbEntry.maps (e : TlbEntry) (root va : Nat) : Bool := e.root == root && decide (e.base ≤ va) && decide (va < e.base + e.size)

/-- A hit moves its entry to the most recently used end; a new entry replaces the least recently used one (R469). -/
def tlbTouch (cap : Nat) (tlb : List TlbEntry) (e : TlbEntry) : List TlbEntry :=
  let rest := tlb.filter (· ≠ e)
  (if cap ≤ rest.length then rest.drop (rest.length + 1 - cap) else rest) ++ [e]

/-- Looks up the berth µTLB and then the field TLB (R80, R469), and refreshes what it finds. -/
def State.tlbLookup (st : State) (berth root va : Nat) : Option TlbEntry × State :=
  match (st.berth berth).utlb.find? (·.maps root va) with
  | some e => (some e, st.modBerth berth fun b => { b with utlb := tlbTouch 32 b.utlb e })
  | none =>
    match (st.field (fieldOf berth)).tlb.find? (·.maps root va) with
    | some e => (some e, (st.modField (fieldOf berth) fun f => { f with tlb := tlbTouch 4096 f.tlb e }).modBerth berth
        fun b => { b with utlb := tlbTouch 32 b.utlb e })
    | none => (none, st)

/-- Fills both TLBs with a leaf that a walk found (R469). -/
def State.tlbFill (st : State) (berth : Nat) (e : TlbEntry) : State :=
  (st.modField (fieldOf berth) fun f => { f with tlb := tlbTouch 4096 f.tlb e }).modBerth berth
    fun b => { b with utlb := tlbTouch 32 b.utlb e }

/-- The root of a launch's job table (R467). -/
def State.rootOf (st : State) (part : Nat) (l : Launch) : Option Nat := st.roots.get? (part, l.job)

/-- An engine's translation, made at once: TLBs first, then a walk that fills them (R471). -/
def translateNow (st : State) (tile : TileId) (va : Nat) (read write : Bool) : Except Cause (Nat × State) :=
  match st.tile? tile, st.launchOf tile with
  | some tl, some la =>
    match tl.berth, st.rootOf tile.part la with
    | some b, some root =>
      match st.tlbLookup b root va with
      | (some e, st) =>
        if leafPermits st tile.part e va read write then .ok (e.pa + (va - e.base), st) else .error .access
      | (none, st) =>
        match walk st tile.part root va read write with
        | .ok e => .ok (e.pa + (va - e.base), st.tlbFill b e)
        | .error f => .error f.cause
    | _, _ => .error .translation
  | _, _ => .error .translation

/-- FINFO of a parked translation fault (Table 24.2). -/
def finfoWord (read write malformed : Bool) (level k : Nat) : Word :=
  let kind := if malformed then 3 else if read && write then 2 else if write then 1 else 0
  BitVec.ofNat 32 (2 ^ 31 + kind * 2 ^ 28 + level * 2 ^ 26 + k)

/-- FVA and FINFO of an engine's failed translation (R472). -/
def failInfo (st : State) (tile : TileId) (va k : Nat) (read write : Bool) : Nat × Word :=
  match (st.launchOf tile).bind (st.rootOf tile.part) with
  | some root => match walk st tile.part root va read write with
    | .error f => (va, finfoWord read write f.malformed f.level k)
    | .ok _ => (va, finfoWord read write false 3 k)
  | none => (va, finfoWord read write false 1 k)

/-- WALK_COMPLETE (R468, R469): a walker ends one of a field's first 16 requests; the leaf fills both TLBs, or the fault is
kept for the thread, whose instruction issues again. -/
def execWalkComplete (field wid : Nat) (st : State) : Host.Outcome State Fault Refusal :=
  match ((st.field field).walks.take 16).find? (·.id = wid) with
  | none => .next st
  | some r =>
    let st1 := st.modField field fun f => { f with walks := f.walks.filter (·.id ≠ wid) }
    let st2 := st1.modThread r.t fun th => { th with walking := if th.walking = some wid then none else th.walking }
    match st2.tile? r.t.tile, st2.launchOf r.t.tile with
    | some tl, some la =>
      match tl.berth, st2.rootOf r.t.tile.part la with
      | some b, some root =>
        match walk st2 r.t.tile.part root r.va r.read r.write with
        | .ok e => .next (st2.tlbFill b e)
        | .error f => .next (st2.modThread r.t fun th =>
            { th with walkFault := some ⟨r.va / 65536, r.write, f.cause, if f.malformed then 3 else 0, f.level⟩ })
      | _, _ => .next st2
    | _, _ => .next st2

end Sys2Proof.Machine
end

