-- ==== Sys2Proof/Machine/Elements.lean ====
section
/-! DEFINITION. Elements as engines reach them: places, packed codes, widening, and the element sequence of a stream
(R65, R66, R68, R169, R170). -/

namespace Sys2Proof.Machine

/-- Counts an error of the tile's berth (R476, R479): 64 correctable errors, or one uncorrectable, mark it MARGINAL, and a
second uncorrectable one sets RETIRE. -/
def State.countEcc (st : State) (tile : TileId) (ecc : Ecc) : State :=
  match (st.tile? tile).bind (·.berth) with
  | none => st
  | some b =>
    match ecc with
    | .clean | .refused => st
    | .corrected => st.modBerth b fun x => x.countCorrected st.now
    | .bad => st.modBerth b fun x => x.countBad st.now

/-- Whether the refresh window of a berth is open at its field's time (R78). -/
def refreshTime (st : State) (berth : Nat) : Bool :=
  decide (((st.field (fieldOf berth)).time + 25600 - (st.berth berth).edPhase % 25600) % 25600 < 400)

/-- The bank group of a rim physical address (R100). -/
def bankGroup (pa : Nat) : Nat := pa / 256 % 15360 / 240

/-- Whether a place is the scratchpad of another tile than the given one (R75). -/
def Place.isPeer (p : Place) (own : TileId) : Bool :=
  match p with
  | .scratch t _ => t != own
  | _ => false

/-- Sets the TOUCH bit of a rim place's bank group (R101). -/
def State.touch (st : State) (tid : ThreadId) (p : Place) : State :=
  match p with
  | .rim _ pa => st.modThread tid fun t => { t with touch := t.touch ||| BitVec.twoPow 64 (bankGroup pa) }
  | _ => st

/-- The number that bytes in increasing address order make. -/
def leBytes : List Nat → Nat
  | [] => 0
  | b :: bs => b + 256 * leBytes bs

/-- A loaded element as a word (Table 10.1). -/
def Widen.apply (w : Widen) (v : Nat) : Word :=
  match w with
  | .s8 => (BitVec.ofNat 8 v).signExtend 32
  | .s16 => (BitVec.ofNat 16 v).signExtend 32
  | .z8 => BitVec.ofNat 32 (v % 256)
  | .z16 => BitVec.ofNat 32 (v % 65536)
  | .w32 => BitVec.ofNat 32 v
  | .code6 => BitVec.ofNat 32 (v % 64)

/-- The widening of an element code (Table 10.1, Table 5.6). -/
def widenOf (elem : Nat) (z : Bool) : Widen :=
  match elem with
  | 0 => if z then .z8 else .s8
  | 1 => if z then .z16 else .s16
  | 3 => .z16
  | 5 => .code6
  | 6 => .z8
  | _ => .w32

/-- The low bits of a stored word that an element keeps (Table 5.6). -/
def storeBits (elem : Nat) (v : Word) : Word := if elem = 5 then v &&& 0x3F#32 else v

/-- The place of a resolved location for an engine of a tile, translated at once (R471); an address that the host's translation refuses
is an access fault (R81). -/
def enginePlace (st : State) (own : TileId) (e : Entry) (num space off : Nat) (read write : Bool) : Except Cause (Place × State) :=
  match space with
  | 1 => .ok (.scratch own (swizzle e.swz off), st)
  | 2 => .ok (.scratch (withNum own num) (swizzle e.swz off), st)
  | 4 => (translateNow st own off read write).map fun (pa, st) => (.rim off pa, st)
  | 5 =>
    let port := (st.part own.part).port
    if Config.hostRefuses st.clock port off then .error .access else .ok (.host port off, st)
  | _ => .ok (.weights own off, st)

/-- An element of an entry as a word (Table 5.6); a packed code is one of four in its group (R66). -/
def readElem (mem : List Host.Cell) (e : Entry) (p : Place) (code : Nat) : Word :=
  if e.packed then BitVec.ofNat 32 (memRead mem p.key 3 / 64 ^ code % 64)
  else (widenOf e.elem false).apply (memRead mem p.key e.size)

/-- Writes an element of an entry (Table 5.6, R66). -/
def writeElem (mem : List Host.Cell) (e : Entry) (p : Place) (code : Nat) (v : Word) : List Host.Cell :=
  if e.packed then
    let g := memRead mem p.key 3
    memWrite mem p.key 3 (g - g / 64 ^ code % 64 * 64 ^ code + v.toNat % 64 * 64 ^ code)
  else memWrite mem p.key e.size (storeBits e.elem v).toNat

/-- The coordinates of element i of a pattern (R169), with the counts and steps of its loops, innermost first. -/
def patternCoords : List Int → List Nat → List (List Int) → Nat → List Int
  | o, n :: ns, d :: ds, i => patternCoords (o.zipWith (fun a b => a + (i % n : Nat) * b) d) ns ds (i / n)
  | o, _, _, _ => o

/-- The coordinates of an element of a stream. -/
def Stream.coords (s : Stream) (i : Nat) : List Int := patternCoords s.origin s.counts s.steps i

/-- The number of elements of a bound pattern (R169). -/
def Stream.length (s : Stream) : Nat := s.counts.foldl (· * ·) 1

/-- Where an element of a thread's stream lies: none when it is discarded, else its place and its code in a packed group;
or the fault that the access half holds with it (R173). -/
def streamTarget (st : State) (tid : ThreadId) (priv : Bool) (s : Stream) (i : Nat) : Except Cause (Option (Place × Nat) × State) :=
  match st.launchOf tid.tile with
  | none => .error .access
  | some la =>
    let e := la.kernel.entryOf s.entry
    match resolveLoc la.kernel tid.tile.num tid.thr priv s.entry (if s.write then .write else .read) (s.coords i) s.tileNum.toNat 0 with
    | .error (c, _) => .error c
    | .ok .discard => .ok (none, st)
    | .ok (.byte num space off code) =>
      (enginePlace st tid.tile e num space off (!s.write) s.write).map fun (p, st) => (some (p, code), st)

/-- FVA and FINFO of a rim element of a stream that does not translate (R472). -/
def streamInfo (st : State) (tid : ThreadId) (priv : Bool) (s : Stream) (i : Nat) : Option (Nat × Word) :=
  match st.launchOf tid.tile with
  | none => none
  | some la =>
    match resolveLoc la.kernel tid.tile.num tid.thr priv s.entry (if s.write then .write else .read) (s.coords i) s.tileNum.toNat 0 with
    | .ok (.byte _ 4 off _) => some (failInfo st tid.tile off s.entry (!s.write) s.write)
    | _ => none

end Sys2Proof.Machine
end

