-- ==== Sys2Proof/Machine/Operands.lean ====
section
/-! DEFINITION. The issue of an instruction by a thread: the general checks of R230, the operand forms of R232 and R233,
streams as operands (R170 to R173), and the reads of pending registers (R156 to R164). -/

namespace Sys2Proof.Machine

/-- The 32-bit word of an encoded instruction, for TVAL (Table 13.1). -/
def wordOf (i : Instr) : Word := BitVec.ofNat 32 (encodeWord i)

/-- Why an instruction does not complete on this turn. -/
inductive Stop where
  /-- It traps, with no effect (R230). -/
  | trap (cause : Cause) (tval : Word)
  /-- It traps in a state in which the trap has cleared a mark (R310, R315, R512), with FVA and FINFO where it has them. -/
  | trapIn (cause : Cause) (tval : Word) (info : Option (Nat × Word)) (st : State)
  /-- Its thread leaves the wheel until a condition holds, and reissues it then; the state may hold the progress of a fence. -/
  | off (why : Why) (st : State)
  /-- Its thread is held: it keeps its position and takes no turn (R34). -/
  | hold
  /-- Its thread is held at issue while a walk that the state now holds is done (R167). -/
  | wait (st : State)
  /-- It traps by a translation, with the element's virtual address and FINFO (R472). -/
  | fault (cause : Cause) (tval : Word) (va : Nat) (finfo : Word)

/-- What an instruction leaves when it completes: the state, where it goes on, and the TVAL of a BREAK that it raises. -/
structure Done where
  st : State
  next : Next := .fall
  brk : Option Word := none

/-- After a trap, the elements from the first held fault on are dropped, to be resolved and fetched again (R173). -/
def Thread.dropFaults (t : Thread) : Thread :=
  { t with streams := t.streams.map fun s => s.map fun b =>
      if b.write then b
      else
        let q := b.queue.takeWhile fun e => match e with
          | .fault _ => false
          | _ => true
        { b with queue := q, fetched := b.pos + q.length } }

/-- Issues an instruction of the thread that takes this turn; `pair` says that it is an IMX pair. Without a thread the turn is
a bubble. -/
def issueWith (pair : Bool) (st : State) (s : BitVec 2) (len : Nat) (f : ThreadId → Thread → Except Stop Done) :
    Host.Outcome State Fault Refusal :=
  match st.cur with
  | none => .next st
  | some t =>
    match st.thread? t with
    | none => .next st
    | some th =>
      match f t th with
      | .ok d =>
        let brk := match d.brk with
          | some v => some v
          | none => if th.step then some stepTval else none
        .next (d.st.complete t s len d.next brk)
      | .error (.trap c v) => .next (((st.setThread t th.dropFaults).setInfo t c none).takeTrap t c v th.pc pair)
      | .error (.trapIn c v info st') => .next (((st'.modThread t Thread.dropFaults).setInfo t c info).takeTrap t c v th.pc pair)
      | .error (.off why st') => .next (st'.goOff t why)
      | .error .hold => .next { st with held := true }
      | .error (.wait st') => .next st'
      | .error (.fault c v va info) =>
        let st := (st.setThread t { th.dropFaults with walkFault := none }).setInfo t c (some (va, info))
        .next (st.takeTrap t c v th.pc pair)

/-- Issues an instruction of 4 bytes, or an IMX pair of 8. -/
def issue (st : State) (s : BitVec 2) (len : Nat) (f : ThreadId → Thread → Except Stop Done) :
    Host.Outcome State Fault Refusal := issueWith (len == 8) st s len f

/-! ## Field codes (R232) -/

/-- What a scalar field code names for an allocation of n registers. -/
inductive FieldKind where
  | reg (n : Nat)
  | stream (s : Nat)
  | beyond
  deriving DecidableEq, Repr

/-- R232. -/
def fieldKind (alloc : Nat) (c : XField) : FieldKind :=
  if c.toNat < alloc then .reg c.toNat
  else if alloc ≤ 120 ∧ 120 ≤ c.toNat then .stream (c.toNat - 120)
  else .beyond

/-- Whether a field names a stream register. -/
def Thread.isStream (t : Thread) (c : XField) : Bool :=
  match fieldKind t.alloc c with
  | .stream _ => true
  | _ => false

/-- REGLIMIT for the first of some fields that names no register (R28, R230 item 3). -/
def checkLimits (t : Thread) : List XField → Except Stop Unit
  | [] => .ok ()
  | c :: cs => if fieldKind t.alloc c = .beyond then .error (.trap .regLimit (c.setWidth 32)) else checkLimits t cs

/-- Whether a register number beyond the codes, or a code that R232 gives REGLIMIT, lies in a range of w from c. -/
def rangeBeyond (alloc c w : Nat) : Bool :=
  decide (128 < c + w) || (decide (c < 120) && decide (alloc < min (c + w) 120))

/-- Ranges of registers, each a first field and a width (R233): REGLIMIT first, for a code that names no register or for a
number past 127, and then ILLEGAL for a stream code (log entry 8). -/
def checkRanges (t : Thread) (word : Word) (rs : List (XField × Nat)) : Except Stop Unit :=
  match rs.find? fun r => rangeBeyond t.alloc r.1.toNat r.2 with
  | some r => .error (.trap .regLimit (r.1.setWidth 32))
  | none =>
    if rs.any fun r => decide (t.alloc ≤ 120) && decide (120 < r.1.toNat + r.2) then .error (.trap .illegal word)
    else .ok ()

/-- Early reads (R176, R251): held in W1 mode, STALLSHORT under SBCHK, otherwise the earlier state is read. -/
def checkEarly (t : Thread) : List XField → Except Stop Unit
  | [] => .ok ()
  | c :: cs =>
    if c.toNat < t.alloc ∧ t.isEarly c.toNat then
      if t.mode = .w1 then .error .hold
      else if t.sbchk then .error (.trap .stallShort (c.setWidth 32))
      else checkEarly t cs
    else checkEarly t cs

/-! ## Streams as operands -/

/-- TVAL of a trap that names a stream (R171, R173): bit 31, the stream register and the entry. -/
def streamTval (s k : Nat) : Word := BitVec.ofNat 32 (2 ^ 31 + s * 2 ^ 16 + k)

/-- A thread's bound stream. -/
def Thread.stream? (t : Thread) (s : Nat) : Option Stream := t.streams.getD s none

/-- Sets a stream register's binding. -/
def Thread.setStream (t : Thread) (s : Nat) (v : Option Stream) : Thread := { t with streams := setPad none t.streams s v }

/-- The stop of a stream element's fault: one that firmware takes carries FVA and FINFO (R472). -/
def streamStop (st : State) (t : Thread) (s : Nat) (b : Stream) (c : Cause) : Stop :=
  match st.cur.bind fun tid => streamInfo st tid t.priv b b.pos with
  | some (va, info) => .fault c (streamTval s b.entry) va info
  | none => .trap c (streamTval s b.entry)

/-- Pops one element as a scalar operand (R170 to R173); an unresolved acquire holds it (R97). An unbound stream register has no entry,
and 0 stands in TVAL; an element with uncorrectable data traps SOFT with the TVAL of R171 (log entry 53). -/
def popStream (st : State) (t : Thread) (s : Nat) : Except Stop (Word × Thread) :=
  match t.stream? s with
  | none => .error (.trap .access (streamTval s 0))
  | some b =>
    if b.write then .error (.trap .access (streamTval s b.entry))
    else if !t.acqHold.isEmpty then .error .hold
    else if b.length ≤ b.pos then .error (.trap .bounds (streamTval s b.entry))
    else match b.queue with
      | [] => .error (.off (.streamWait s) st)
      | .word w :: q => .ok (w, t.setStream s (some { b with queue := q, pos := b.pos + 1 }))
      | .fault c :: _ => .error (streamStop st t s b c)
      | _ :: _ => .error (.trap .soft (streamTval s b.entry))

/-- Pushes one element from a scalar result (R170 to R173); its location is resolved before the push, and an unresolved acquire holds it
(R93 item 3). -/
def pushStream (st : State) (t : Thread) (s : Nat) (v : Word) : Except Stop Thread :=
  match t.stream? s with
  | none => .error (.trap .access (streamTval s 0))
  | some b =>
    if !b.write then .error (.trap .access (streamTval s b.entry))
    else if !t.acqHold.isEmpty then .error .hold
    else if b.length ≤ b.pos then .error (.trap .bounds (streamTval s b.entry))
    else if 16 ≤ b.queue.length then .error (.off (.streamWait s) st)
    else match st.cur with
      | none => .error .hold
      | some tid => match streamTarget st tid t.priv b b.pos with
        | .error c => .error (streamStop st t s b c)
        | .ok (target, _) => .ok (t.setStream s (some { b with queue := b.queue ++ [.store v target], pos := b.pos + 1 }))

/-! ## Reading operands -/

/-- The symbol name of a pending register (R154). -/
def symName (entry word : Nat) : Word := BitVec.ofNat 32 (word * 256 + entry)

/-- TVAL of the SOFT trap of a register that holds an uncorrectable error (R358, R476). -/
def corruptTval (n : Nat) : Word := BitVec.ofNat 32 (0x10000000 + n)

/-- A register's value for a use that needs it (R158): a pending register blocks, a poisoned one traps SOFT (R167), and one in error
does (R476). -/
def needReg (st : State) (t : Thread) (n : Nat) : Except Stop Word :=
  match t.reg n with
  | .ready v => .ok v
  | .pending e w _ poison => if poison then .error (.trap .soft (symName e w)) else .error (.off (.reg n) st)
  | .corrupt => .error (.trap .soft (corruptTval n))

/-- A source field's state: a register's, or the element it pops; the thread is as the pop leaves it. A register in error traps SOFT
(R476). -/
def readField (st : State) (t : Thread) (c : XField) : Except Stop (RegState × Thread) :=
  match fieldKind t.alloc c with
  | .reg n => if t.reg n = .corrupt then .error (.trap .soft (corruptTval n)) else .ok (t.reg n, t)
  | .stream s => (popStream st t s).map fun (w, t) => (.ready w, t)
  | .beyond => .error (.trap .regLimit (c.setWidth 32))

/-- A source field's value for a use that needs it. -/
def needField (st : State) (t : Thread) (c : XField) : Except Stop (Word × Thread) :=
  match fieldKind t.alloc c with
  | .reg n => (needReg st t n).map fun w => (w, t)
  | .stream s => popStream st t s
  | .beyond => .error (.trap .regLimit (c.setWidth 32))

/-- Writes a result's state to a destination field: a register takes it, a stream register pushes a ready value (R170). -/
def writeField (st : State) (t : Thread) (d : XField) (v : RegState) : Except Stop Thread :=
  match fieldKind t.alloc d with
  | .reg n => .ok (t.setReg n v)
  | .stream s =>
    match v with
    | .ready w => pushStream st t s w
    | _ => .error .hold
  | .beyond => .error (.trap .regLimit (d.setWidth 32))

/-- The tile cycles after which a result with gap g is delivered (R403): 8(g + 1). -/
def gapCycles (g : Nat) : Nat := 8 * (g + 1)

/-- Writes a fixed-latency result with gap g: at once for g = 0, since the thread's next turn comes no earlier than its
delivery (R256, R403), and after its latency otherwise. -/
def writeLate (st : State) (tid : ThreadId) (t : Thread) (d : XField) (r : FRes) (g : Nat) : Except Stop Thread :=
  if g = 0 then (writeField st t d (.ready r.bits)).map fun t => t.orFlags r.flags
  else
    let due := st.cycleOf tid.tile + gapCycles g
    match fieldKind t.alloc d with
    | .reg n => .ok { t with inflight := t.inflight ++ [⟨n, r.bits, r.flags, due⟩] }
    | .stream s => (pushStream st t s r.bits).map fun t => { t with inflight := t.inflight ++ [⟨0, 0#32, r.flags, due⟩] }
    | .beyond => .error (.trap .regLimit (d.setWidth 32))

/-- The general checks of an instruction that reads some fields and writes others, in the order of R230: REGLIMIT, then
STALLSHORT over the fields read. -/
def generalChecks (t : Thread) (reads writes : List XField) : Except Stop Unit := do
  checkLimits t (reads ++ writes)
  checkEarly t reads

/-! ## Transforms of pending registers (R156 to R164) -/

/-- Coefficients of a register in the neutral or integer state (R156). -/
def PendKind.coefs : PendKind → Option (Word × Word)
  | .neutral => some (1#32, 0#32)
  | .int a b => some (a, b)
  | _ => none

/-- An integer pending state; a zero coefficient makes it ready (R157), and drops the poison with the dependence (log entry 54). -/
def mkInt (e w : Nat) (a b : Word) (poison : Bool) : RegState :=
  if a = 0#32 then .ready b else .pending e w (.int a b) poison

/-- ADD and SUB of two operand states (Table 5.3, R157): none when the instruction blocks. -/
def addStates (sub : Bool) (x y : RegState) : Option RegState :=
  match x, y with
  | .ready a, .ready b => some (.ready (if sub then a - b else a + b))
  | .pending e w k p, .ready r =>
    k.coefs.map fun (a, b) => mkInt e w a (if sub then b - r else b + r) p
  | .ready r, .pending e w k p =>
    k.coefs.map fun (a, b) => if sub then mkInt e w (-a) (r - b) p else mkInt e w a (b + r) p
  | .pending e w k p, .pending e' w' k' p' =>
    match k.coefs, k'.coefs with
    | some (a, b), some (a', b') =>
      if e = e' ∧ w = w' ∧ p = p' then
        some (if sub then mkInt e w (a - a') (b - b') (p || p') else mkInt e w (a + a') (b + b') (p || p'))
      else none
    | _, _ => none
  | _, _ => none

/-- MUL of two operand states (Table 5.3). -/
def mulStates (x y : RegState) : Option RegState :=
  match x, y with
  | .ready a, .ready b => some (.ready (a * b))
  | .pending e w k p, .ready r => k.coefs.map fun (a, b) => mkInt e w (a * r) (b * r) p
  | .ready r, .pending e w k p => k.coefs.map fun (a, b) => mkInt e w (a * r) (b * r) p
  | _, _ => none

/-- A floating-point operation that transforms (R161). -/
inductive FpOp where
  | add | sub | mul
  deriving DecidableEq, Repr

/-- The operation on two ready values (Table 9.5). -/
def FpOp.apply (o : FpOp) (a b : Word) : FRes :=
  match o with
  | .add => fAdd a b
  | .sub => fSub a b
  | .mul => fMul a b

/-- The log entry of an operation with the pending register on the left or on the right (R162). -/
def FpOp.logOp (o : FpOp) (pendLeft : Bool) : LogOp :=
  match o with
  | .add => .add
  | .mul => .mul
  | .sub => if pendLeft then .sub else .rsub

/-- The sign bit inverted, for −a of R163. -/
def fNeg (a : Word) : Word := a ^^^ 0x80000000#32

/-- One folded transform of a pending register and a ready operand (R163). -/
def foldOne (o : FpOp) (pendLeft : Bool) (a b : Word) (f : FFlags) (r : Word) : PendKind :=
  match o with
  | .add => let s := fAdd b r; .folded a s.bits (f ||| s.flags)
  | .sub =>
    if pendLeft then let s := fSub b r; .folded a s.bits (f ||| s.flags)
    else let s := fSub r b; .folded (fNeg a) s.bits (f ||| s.flags)
  | .mul => let x := fMul a r; let y := fMul b r; .folded x.bits y.bits (f ||| x.flags ||| y.flags)

/-- A floating-point transform of one pending and one ready operand (R161 to R163): none when it blocks. -/
def fpTransform (fold : Bool) (o : FpOp) (pendLeft : Bool) (k : PendKind) (r : Word) : Option PendKind :=
  match fold, k with
  | false, .neutral => some (.exact [(o.logOp pendLeft, r)])
  | false, .exact log => if log.length < 3 then some (.exact (log ++ [(o.logOp pendLeft, r)])) else none
  | true, .neutral => some (foldOne o pendLeft 0x3F800000#32 0x80000000#32 fNone r)
  | true, .folded a b f => some (foldOne o pendLeft a b f r)
  | _, _ => none

/-- FADD, FSUB and FMUL of two operand states (R161 to R164): a new state and the flags due now, or none when it blocks. -/
def fpStates (fold : Bool) (o : FpOp) (x y : RegState) : Option (RegState × FFlags) :=
  match x, y with
  | .ready a, .ready b => let r := o.apply a b; some (.ready r.bits, r.flags)
  | .pending e w k p, .ready r => (fpTransform fold o true k r).map fun k => (.pending e w k p, fNone)
  | .ready r, .pending e w k p => (fpTransform fold o false k r).map fun k => (.pending e w k p, fNone)
  | .pending e w (.folded a b f) p, .pending e' w' (.folded a' b' f') p' =>
    if fold ∧ e = e' ∧ w = w' ∧ p = p' ∧ o ≠ .mul then
      let s := o.apply a a'
      let t := o.apply b b'
      some (.pending e w (.folded s.bits t.bits (f ||| f' ||| s.flags ||| t.flags)) (p || p'), fNone)
    else none
  | _, _ => none

/-- The stop of an instruction that blocks on the first pending one of some source fields; a poisoned one traps SOFT. -/
def blockOn (st : State) (t : Thread) : List XField → Stop
  | [] => .hold
  | c :: cs =>
    match fieldKind t.alloc c with
    | .reg n => match needReg st t n with
      | .error e => e
      | .ok _ => blockOn st t cs
    | _ => blockOn st t cs

/-- Whether a state is pending. -/
def RegState.isPending : RegState → Bool
  | .pending .. => true
  | _ => false

/-- What a register becomes when its symbol has a value (R149, R160, R162, R163), with the flags of the resolution. -/
def PendKind.resolve (k : PendKind) (v : Word) : FRes :=
  match k with
  | .neutral => ⟨v, fNone⟩
  | .int a b => ⟨a * v + b, fNone⟩
  | .exact log => log.foldl (fun r e =>
      let s := match e.1 with
        | .add => fAdd r.bits e.2
        | .mul => fMul r.bits e.2
        | .sub => fSub r.bits e.2
        | .rsub => fSub e.2 r.bits
      ⟨s.bits, r.flags ||| s.flags⟩) ⟨v, fNone⟩
  | .folded a b f => let s := fFma a v b; ⟨s.bits, f ||| s.flags⟩

end Sys2Proof.Machine
end

