-- ==== Sys2Proof/Machine/Integer.lean ====
section
/-! DEFINITION. The integer instructions of 09: ALUA, ALUB, MULDIV, BITS, their immediate forms, LI, predicates and SEL. -/

namespace Sys2Proof.Machine

/-! ## The arithmetic (Tables 9.1 to 9.3) -/

/-- SLT and SLTN (Table 9.1). -/
def slt (a b : Word) : Word := boolWord (decide (a.toInt < b.toInt))
/-- Unsigned set-less-than. -/
def sltn (a b : Word) : Word := boolWord (decide (a.toNat < b.toNat))
/-- The shift amount B[4:0] (R257). -/
def shamt (b : Word) : Nat := b.toNat % 32
/-- SLL. -/
def sll (a b : Word) : Word := a <<< shamt b
/-- SRL. -/
def srl (a b : Word) : Word := a >>> shamt b
/-- SRA. -/
def sra (a b : Word) : Word := a.sshiftRight (shamt b)
/-- ROTR. -/
def rotr (a b : Word) : Word := a.rotateRight (shamt b)
/-- MIN, signed. -/
def minS (a b : Word) : Word := if a.toInt ≤ b.toInt then a else b
/-- MAX, signed. -/
def maxS (a b : Word) : Word := if a.toInt ≤ b.toInt then b else a
/-- MINN, unsigned. -/
def minU (a b : Word) : Word := if a.toNat ≤ b.toNat then a else b
/-- MAXN, unsigned. -/
def maxU (a b : Word) : Word := if a.toNat ≤ b.toNat then b else a
/-- MULH: bits [63:32] of the signed product. -/
def mulh (a b : Word) : Word := BitVec.ofInt 32 (a.toInt * b.toInt / 2 ^ 32)
/-- MULHN: bits [63:32] of the unsigned product. -/
def mulhn (a b : Word) : Word := BitVec.ofNat 32 (a.toNat * b.toNat / 2 ^ 32)
/-- DIV: the quotient truncated toward zero (R258). -/
def divS (a b : Word) : Word := if b = 0#32 then 0xFFFFFFFF#32 else BitVec.ofInt 32 (a.toInt.tdiv b.toInt)
/-- DIVN. -/
def divU (a b : Word) : Word := if b = 0#32 then 0xFFFFFFFF#32 else BitVec.ofNat 32 (a.toNat / b.toNat)
/-- REM: the remainder takes the sign of the dividend (R258). -/
def remS (a b : Word) : Word := if b = 0#32 then a else BitVec.ofInt 32 (a.toInt.tmod b.toInt)
/-- REMN. -/
def remU (a b : Word) : Word := if b = 0#32 then a else BitVec.ofNat 32 (a.toNat % b.toNat)

/-- The number of leading zero bits among the low n bits of a. -/
def clzFrom (a : Word) : Nat → Nat
  | 0 => 0
  | n + 1 => if a.getLsbD n then 0 else clzFrom a n + 1
/-- CLZ. -/
def clz (a : Word) : Word := BitVec.ofNat 32 (clzFrom a 32)
/-- BREV: bit i moves to bit 31 - i. -/
def brev (a : Word) : Word := (List.range 32).foldl (fun r i => if a.getLsbD i then r ||| BitVec.twoPow 32 (31 - i) else r) 0#32
/-- CTZ. -/
def ctz (a : Word) : Word := clz (brev a)
/-- POPC. -/
def popc (a : Word) : Word := BitVec.ofNat 32 ((List.range 32).foldl (fun n i => n + (a.getLsbD i).toNat) 0)
/-- BSWAP: byte i moves to byte 3 - i. -/
def bswap (a : Word) : Word :=
  (a.extractLsb' 0 8 ++ a.extractLsb' 8 8 ++ a.extractLsb' 16 8 ++ a.extractLsb' 24 8 : BitVec 32)
/-- The position of the field that a descriptor names (R259). -/
def fieldPos (b : Word) : Nat := b.toNat % 32
/-- The width of the field: bits beyond bit 31 are not part of it (R259). -/
def fieldLen (b : Word) : Nat := min (fieldPos b + (b.toNat / 32 % 32 + 1)) 32 - fieldPos b
/-- EXTR (Table 9.3). -/
def extr (a b : Word) : Word :=
  let v := a.toNat / 2 ^ fieldPos b % 2 ^ fieldLen b
  if b.getLsbD 10 && v / 2 ^ (fieldLen b - 1) % 2 == 1 then BitVec.ofInt 32 ((v : Int) - 2 ^ fieldLen b)
  else BitVec.ofNat 32 v
/-- INS (Table 9.3): bits [top:pos] of x replaced by the low bits of a. -/
def insField (x a b : Word) : Word :=
  let m : Word := BitVec.ofNat 32 ((2 ^ fieldLen b - 1) * 2 ^ fieldPos b)
  (x &&& ~~~m) ||| ((a <<< fieldPos b) &&& m)

/-- The result of a comparison (Table 8.4). -/
def condHolds (c : Cond) (a b : Word) : Bool :=
  match c with
  | .eq => a == b
  | .ne => a != b
  | .lt => decide (a.toInt < b.toInt)
  | .ge => decide (b.toInt ≤ a.toInt)
  | .ltn => decide (a.toNat < b.toNat)
  | .gen => decide (b.toNat ≤ a.toNat)
  | .anyBit => (a &&& b) != 0#32
  | .noBit => (a &&& b) == 0#32

/-- An integer result, which raises no flag (R256). -/
def plain (w : Word) : FRes := ⟨w, fNone⟩

/-! ## Shared forms -/

/-- A two-register form marked B (R255): both operands are needed; the result has gap g. -/
def opNeedNeed (st : State) (s : BitVec 2) (d a b : XField) (f : Word → Word → FRes) (g : Nat) :
    Host.Outcome State Fault Refusal :=
  issue st s 4 fun tid t => do
    generalChecks t [a, b] [d]
    let (x, t) ← needField st t a
    let (y, t) ← needField st t b
    let t ← writeLate st tid t d (f x y) g
    .ok { st := st.setThread tid t }

/-- A one-register form marked B. -/
def opNeed (st : State) (s : BitVec 2) (d a : XField) (f : Word → FRes) (g : Nat) : Host.Outcome State Fault Refusal :=
  issue st s 4 fun tid t => do
    generalChecks t [a] [d]
    let (x, t) ← needField st t a
    let t ← writeLate st tid t d (f x) g
    .ok { st := st.setThread tid t }

/-- A form marked B with an immediate second operand; the length is 8 for an IMX pair. -/
def opNeedImm (st : State) (s : BitVec 2) (len : Nat) (d a : XField) (imm : Word) (f : Word → Word → Word) :
    Host.Outcome State Fault Refusal :=
  issue st s len fun tid t => do
    generalChecks t [a] [d]
    let (x, t) ← needField st t a
    let t ← writeField st t d (.ready (f x imm))
    .ok { st := st.setThread tid t }

/-- A form that reads its destination register too (MAC, INS, FFMA, FFMS): a stream code in d traps ILLEGAL (R255). -/
def opThree (st : State) (s : BitVec 2) (word : Word) (d a b : XField) (f : Word → Word → Word → FRes) :
    Host.Outcome State Fault Refusal :=
  issue st s 4 fun tid t => do
    checkLimits t [a, b, d]
    if t.isStream d then .error (.trap .illegal word)
    checkEarly t [a, b, d]
    let (x, t) ← needField st t a
    let (y, t) ← needField st t b
    let (z, t) ← needField st t d
    let t ← writeLate st tid t d (f x y z) 0
    .ok { st := st.setThread tid t }

/-- The end of a form that transforms (R156, R157): the new state of d, or the block of R158; a stream destination takes
only a ready value (R255). -/
def writeTransform (st : State) (tid : ThreadId) (t0 t : Thread) (d : XField) (srcs : List XField)
    (r : Option RegState) (fl : FFlags) : Except Stop Done :=
  match r with
  | none => .error (blockOn st t0 srcs)
  | some v =>
    if v.isPending && t0.isStream d then .error (blockOn st t0 srcs)
    else do
      let t ← writeField st t d v
      .ok { st := st.setThread tid (t.orFlags fl) }

/-- A two-register form marked T or C over a function of the operand states. -/
def opStates (st : State) (s : BitVec 2) (d a b : XField) (f : RegState → RegState → Option RegState) :
    Host.Outcome State Fault Refusal :=
  issue st s 4 fun tid t => do
    generalChecks t [a, b] [d]
    let (x, t1) ← readField st t a
    let (y, t2) ← readField st t1 b
    writeTransform st tid t t2 d [a, b] (f x y) fNone

/-- A form marked T with an immediate second operand. -/
def opStatesImm (st : State) (s : BitVec 2) (len : Nat) (d a : XField) (imm : Word)
    (f : RegState → RegState → Option RegState) : Host.Outcome State Fault Refusal :=
  issue st s len fun tid t => do
    generalChecks t [a] [d]
    let (x, t1) ← readField st t a
    writeTransform st tid t t1 d [a] (f x (.ready imm)) fNone

/-- i10 sign-extended (R225). -/
def sext10 (i : BitVec 10) : Word := i.signExtend 32
/-- i10 zero-extended, for ORI (Table 8.3). -/
def zext10 (i : BitVec 10) : Word := i.setWidth 32

/-! ## ALUA and ALUB (R257) -/

/-- ADD. -/
def execAdd (s : BitVec 2) (d a b : XField) (st : State) := opStates st s d a b (addStates false)
/-- SUB. -/
def execSub (s : BitVec 2) (d a b : XField) (st : State) := opStates st s d a b (addStates true)
/-- AND. -/
def execAnd (s : BitVec 2) (d a b : XField) (st : State) := opNeedNeed st s d a b (fun x y => plain (x &&& y)) 0
/-- OR. -/
def execOr (s : BitVec 2) (d a b : XField) (st : State) := opNeedNeed st s d a b (fun x y => plain (x ||| y)) 0
/-- XOR. -/
def execXor (s : BitVec 2) (d a b : XField) (st : State) := opNeedNeed st s d a b (fun x y => plain (x ^^^ y)) 0
/-- ANDN. -/
def execAndn (s : BitVec 2) (d a b : XField) (st : State) := opNeedNeed st s d a b (fun x y => plain (x &&& ~~~y)) 0
/-- SLT. -/
def execSlt (s : BitVec 2) (d a b : XField) (st : State) := opNeedNeed st s d a b (fun x y => plain (slt x y)) 0
/-- SLTN. -/
def execSltn (s : BitVec 2) (d a b : XField) (st : State) := opNeedNeed st s d a b (fun x y => plain (sltn x y)) 0
/-- SLL. -/
def execSll (s : BitVec 2) (d a b : XField) (st : State) := opNeedNeed st s d a b (fun x y => plain (sll x y)) 0
/-- SRL. -/
def execSrl (s : BitVec 2) (d a b : XField) (st : State) := opNeedNeed st s d a b (fun x y => plain (srl x y)) 0
/-- SRA. -/
def execSra (s : BitVec 2) (d a b : XField) (st : State) := opNeedNeed st s d a b (fun x y => plain (sra x y)) 0
/-- MIN. -/
def execMin (s : BitVec 2) (d a b : XField) (st : State) := opNeedNeed st s d a b (fun x y => plain (minS x y)) 0
/-- MAX. -/
def execMax (s : BitVec 2) (d a b : XField) (st : State) := opNeedNeed st s d a b (fun x y => plain (maxS x y)) 0
/-- MINN. -/
def execMinn (s : BitVec 2) (d a b : XField) (st : State) := opNeedNeed st s d a b (fun x y => plain (minU x y)) 0
/-- MAXN. -/
def execMaxn (s : BitVec 2) (d a b : XField) (st : State) := opNeedNeed st s d a b (fun x y => plain (maxU x y)) 0
/-- ROTR. -/
def execRotr (s : BitVec 2) (d a b : XField) (st : State) := opNeedNeed st s d a b (fun x y => plain (rotr x y)) 0

/-! ## MULDIV (R258) -/

/-- MUL. -/
def execMul (s : BitVec 2) (d a b : XField) (st : State) := opStates st s d a b mulStates
/-- MULH. -/
def execMulh (s : BitVec 2) (d a b : XField) (st : State) := opNeedNeed st s d a b (fun x y => plain (mulh x y)) 0
/-- MULHN. -/
def execMulhn (s : BitVec 2) (d a b : XField) (st : State) := opNeedNeed st s d a b (fun x y => plain (mulhn x y)) 0
/-- MAC. -/
def execMac (s : BitVec 2) (d a b : XField) (st : State) :=
  opThree st s (wordOf (.mac s d a b)) d a b (fun x y z => plain (z + x * y))
/-- DIV, gap 3. -/
def execDiv (s : BitVec 2) (d a b : XField) (st : State) := opNeedNeed st s d a b (fun x y => plain (divS x y)) 3
/-- DIVN, gap 3. -/
def execDivn (s : BitVec 2) (d a b : XField) (st : State) := opNeedNeed st s d a b (fun x y => plain (divU x y)) 3
/-- REM, gap 3. -/
def execRem (s : BitVec 2) (d a b : XField) (st : State) := opNeedNeed st s d a b (fun x y => plain (remS x y)) 3
/-- REMN, gap 3. -/
def execRemn (s : BitVec 2) (d a b : XField) (st : State) := opNeedNeed st s d a b (fun x y => plain (remU x y)) 3

/-! ## BITS (R259) -/

/-- CLZ. -/
def execClz (s : BitVec 2) (d a : XField) (st : State) := opNeed st s d a (fun x => plain (clz x)) 0
/-- CTZ. -/
def execCtz (s : BitVec 2) (d a : XField) (st : State) := opNeed st s d a (fun x => plain (ctz x)) 0
/-- POPC. -/
def execPopc (s : BitVec 2) (d a : XField) (st : State) := opNeed st s d a (fun x => plain (popc x)) 0
/-- BREV. -/
def execBrev (s : BitVec 2) (d a : XField) (st : State) := opNeed st s d a (fun x => plain (brev x)) 0
/-- EXTR. -/
def execExtr (s : BitVec 2) (d a b : XField) (st : State) := opNeedNeed st s d a b (fun x y => plain (extr x y)) 0
/-- INS. -/
def execIns (s : BitVec 2) (d a b : XField) (st : State) :=
  opThree st s (wordOf (.ins s d a b)) d a b (fun x y z => plain (insField z x y))
/-- BSWAP. -/
def execBswap (s : BitVec 2) (d a : XField) (st : State) := opNeed st s d a (fun x => plain (bswap x)) 0

/-! ## Immediate forms and LI (R260, R261) -/

/-- ADDI with a 32-bit immediate. -/
def addiWith (s : BitVec 2) (len : Nat) (d a : XField) (imm : Word) (st : State) :=
  opStatesImm st s len d a imm (addStates false)
/-- ADDI. -/
def execAddi (s : BitVec 2) (d a : XField) (i : BitVec 10) (st : State) := addiWith s 4 d a (sext10 i) st
/-- ANDI. -/
def execAndi (s : BitVec 2) (d a : XField) (i : BitVec 10) (st : State) := opNeedImm st s 4 d a (sext10 i) (· &&& ·)
/-- ORI. -/
def execOri (s : BitVec 2) (d a : XField) (i : BitVec 10) (st : State) := opNeedImm st s 4 d a (zext10 i) (· ||| ·)
/-- XORI. -/
def execXori (s : BitVec 2) (d a : XField) (i : BitVec 10) (st : State) := opNeedImm st s 4 d a (sext10 i) (· ^^^ ·)
/-- SLLI with an amount: marked T, a transform by 2^k (Table 5.3). -/
def slliWith (s : BitVec 2) (len : Nat) (d a : XField) (k : BitVec 5) (st : State) :=
  opStatesImm st s len d a (BitVec.twoPow 32 k.toNat) mulStates
/-- SLLI. -/
def execSlli (s : BitVec 2) (d a : XField) (k : BitVec 5) (st : State) := slliWith s 4 d a k st
/-- SRLI. -/
def execSrli (s : BitVec 2) (d a : XField) (k : BitVec 5) (st : State) := opNeedImm st s 4 d a (k.setWidth 32) srl
/-- SRAI. -/
def execSrai (s : BitVec 2) (d a : XField) (k : BitVec 5) (st : State) := opNeedImm st s 4 d a (k.setWidth 32) sra
/-- ROTRI. -/
def execRotri (s : BitVec 2) (d a : XField) (k : BitVec 5) (st : State) := opNeedImm st s 4 d a (k.setWidth 32) rotr
/-- SLTI. -/
def execSlti (s : BitVec 2) (d a : XField) (i : BitVec 10) (st : State) := opNeedImm st s 4 d a (sext10 i) slt
/-- SLTNI: the immediate is sign-extended before the unsigned comparison. -/
def execSltni (s : BitVec 2) (d a : XField) (i : BitVec 10) (st : State) := opNeedImm st s 4 d a (sext10 i) sltn

/-- LI with a 32-bit value: it reads no register. -/
def liWith (s : BitVec 2) (len : Nat) (d : XField) (v : Word) (st : State) : Host.Outcome State Fault Refusal :=
  issue st s len fun tid t => do
    generalChecks t [] [d]
    let t ← writeField st t d (.ready v)
    .ok { st := st.setThread tid t }
/-- LI. -/
def execLi (s : BitVec 2) (d : XField) (i : BitVec 17) (st : State) := liWith s 4 d (i.signExtend 32) st

/-! ## Predicates and SEL (R240, R262, R263) -/

/-- The value that a comparison writes to a predicate: ANDed into it for conditions 8 to 15 (R240). -/
def pcmpValue (t : Thread) (g : Bool) (c : Cond) (p : BitVec 3) (x y : Word) : Bool :=
  condHolds c x y && (!g || t.pred p)

/-- PCMP. -/
def execPcmp (s : BitVec 2) (g : Bool) (c : Cond) (p : BitVec 3) (a b : XField) (st : State) :
    Host.Outcome State Fault Refusal :=
  issue st s 4 fun tid t => do
    generalChecks t [a, b] []
    let (x, t) ← needField st t a
    let (y, t) ← needField st t b
    .ok { st := st.setThread tid (t.setPred p (pcmpValue t g c p x y)) }

/-- PCMPI with a 32-bit immediate. -/
def pcmpiWith (s : BitVec 2) (len : Nat) (g : Bool) (c : Cond) (p : BitVec 3) (a : XField) (imm : Word) (st : State) :
    Host.Outcome State Fault Refusal :=
  issue st s len fun tid t => do
    generalChecks t [a] []
    let (x, t) ← needField st t a
    .ok { st := st.setThread tid (t.setPred p (pcmpValue t g c p x imm)) }
/-- PCMPI. -/
def execPcmpi (s : BitVec 2) (g : Bool) (c : Cond) (p : BitVec 3) (a : XField) (i : BitVec 10) (st : State) :=
  pcmpiWith s 4 g c p a (sext10 i) st

/-- SEL: both fields are read, whatever the predicate holds (R263). -/
def execSel (s : BitVec 2) (d a b : XField) (p : BitVec 3) (st : State) : Host.Outcome State Fault Refusal :=
  issue st s 4 fun tid t => do
    generalChecks t [a, b] [d]
    let (x, t) ← needField st t a
    let (y, t) ← needField st t b
    let t ← writeField st t d (.ready (if t.pred p then x else y))
    .ok { st := st.setThread tid t }

end Sys2Proof.Machine
end

