-- ==== Sys2Proof/Machine/Fp.lean ====
section
/-! DEFINITION. The scalar floating-point instructions and the special functions (R272 to R277), and the hints that copy. -/

namespace Sys2Proof.Machine

/-- A floating-point form marked T or C (R161 to R164); FOLD at issue gives the mode of a transform. -/
def opFp (st : State) (s : BitVec 2) (d a b : XField) (o : FpOp) : Host.Outcome State Fault Refusal :=
  issue st s 4 fun tid t => do
    generalChecks t [a, b] [d]
    let (x, t1) ← readField st t a
    let (y, t2) ← readField st t1 b
    match fpStates t.fold o x y with
    | none => .error (blockOn st t [a, b])
    | some (v, fl) => writeTransform st tid t t2 d [a, b] (some v) fl

/-- FADD. -/
def execFadd (s : BitVec 2) (d a b : XField) (st : State) := opFp st s d a b .add
/-- FSUB. -/
def execFsub (s : BitVec 2) (d a b : XField) (st : State) := opFp st s d a b .sub
/-- FMUL. -/
def execFmul (s : BitVec 2) (d a b : XField) (st : State) := opFp st s d a b .mul
/-- FMIN. -/
def execFmin (s : BitVec 2) (d a b : XField) (st : State) := opNeedNeed st s d a b fMin 0
/-- FMAX. -/
def execFmax (s : BitVec 2) (d a b : XField) (st : State) := opNeedNeed st s d a b fMax 0
/-- FDIV, gap 2. -/
def execFdiv (s : BitVec 2) (d a b : XField) (st : State) := opNeedNeed st s d a b fDiv 2
/-- FSQRT, gap 2. -/
def execFsqrt (s : BitVec 2) (d a : XField) (st : State) := opNeed st s d a fSqrt 2
/-- FSGN. -/
def execFsgn (s : BitVec 2) (d a b : XField) (st : State) := opNeedNeed st s d a b fSgn 0
/-- FFMA. -/
def execFfma (s : BitVec 2) (d a b : XField) (st : State) := opThree st s (wordOf (.ffma s d a b)) d a b fFma
/-- FFMS. -/
def execFfms (s : BitVec 2) (d a b : XField) (st : State) := opThree st s (wordOf (.ffms s d a b)) d a b fFms
/-- FCVTFI. -/
def execFcvtfi (s : BitVec 2) (d a : XField) (st : State) := opNeed st s d a fCvtFi 0
/-- FCVTIF. -/
def execFcvtif (s : BitVec 2) (d a : XField) (st : State) := opNeed st s d a (fCvtInt true) 0
/-- FCVTIFZ. -/
def execFcvtifz (s : BitVec 2) (d a : XField) (st : State) := opNeed st s d a (fCvtInt false) 0
/-- FCLASS. -/
def execFclass (s : BitVec 2) (d a : XField) (st : State) := opNeed st s d a fClass 0
/-- FBF. -/
def execFbf (s : BitVec 2) (d a : XField) (st : State) := opNeed st s d a fBf 0
/-- FBFX. -/
def execFbfx (s : BitVec 2) (d a : XField) (st : State) := opNeed st s d a fBfx 0
/-- FEQ. -/
def execFeq (s : BitVec 2) (d a b : XField) (st : State) := opNeedNeed st s d a b fEq 0
/-- FLT. -/
def execFlt (s : BitVec 2) (d a b : XField) (st : State) := opNeedNeed st s d a b fLt 0
/-- FLE. -/
def execFle (s : BitVec 2) (d a b : XField) (st : State) := opNeedNeed st s d a b fLe 0
/-- FUNORD. -/
def execFunord (s : BitVec 2) (d a b : XField) (st : State) := opNeedNeed st s d a b fUnord 0

/-! ## Symbols -/

/-- Whether a thread may take a symbol-table entry (R155): there are more free ones than threads of its core that blocked before
it, equal steps in ascending THRID. -/
def symTurn (tl : Tile) (thr : Nat) : Bool :=
  let mine := (tl.threads.get? thr).bind (·.symSince)
  let before (e : Nat × Thread) : Bool := coreOf e.1 == coreOf thr && e.1 != thr && (match e.2.symSince, mine with
    | some s, some m => decide (s < m) || (s == m && decide (e.1 < thr))
    | some _, none => true
    | none, _ => false)
  decide ((tl.threads.filter before).length < 256 - (tl.core (coreOf thr)).symbols.length)

/-- Stage 7 of a memory instruction and step 1 of SFUN (R155): a ninth entry traps SYMOVF; a full table blocks. The
answer is the entry that the thread would take. -/
def symbolSlot (st : State) (tid : ThreadId) : Except Stop Nat :=
  if 8 ≤ st.symCount tid then .error (.trap .symovf 0#32)
  else match st.tile? tid.tile with
    | none => .error .hold
    | some tl => match (tl.core (coreOf tid.thr)).freeEntry with
      | none => .error (.off .symTable (symWait st))
      | some e => if symTurn tl tid.thr then .ok e else .error (.off .symTable (symWait st))
where
  /-- The thread takes its place among those that wait. -/
  symWait (st : State) : State := st.modThread tid fun t => { t with symSince := t.symSince.or (some st.clock) }

/-- Allocates a symbol-table entry (R154). -/
def State.allocSymbol (st : State) (tid : ThreadId) (entry : Nat) (source : SymSource) : State :=
  st.modCore tid.tile (coreOf tid.thr) fun c =>
    { c with symbols := c.symbols.set entry ⟨tid.thr, source, none, fNone, false, false⟩ }

/-- SFUN (R276): a pending operand blocks, a full FIFO blocks, and a request takes its place with its symbol. -/
def opSfun (st : State) (s : BitVec 2) (word : Word) (d a : XField) (fn : SfFn) : Host.Outcome State Fault Refusal :=
  issue st s 4 fun tid t => do
    checkLimits t [a, d]
    if t.isStream d then .error (.trap .illegal word)
    checkEarly t [a]
    let (x, t) ← needField st t a
    let e ← symbolSlot st tid
    match st.tile? tid.tile with
    | none => .error .hold
    | some tl =>
      if 16 ≤ tl.sfuFifo.length then .error (.off .sfuFifo st)
      else
        let st := (st.setThread tid (t.setReg d.toNat (.pending e 0 .neutral false))).allocSymbol tid e .sfun
        .ok { st := st.modTile tid.tile fun tl => { tl with sfuFifo := tl.sfuFifo ++ [⟨fn, x, tid.thr, e⟩] } }

/-- SFUN.exp2. -/
def execSfunExp2 (s : BitVec 2) (d a : XField) (st : State) := opSfun st s (wordOf (.sfunExp2 s d a)) d a .exp2
/-- SFUN.log2. -/
def execSfunLog2 (s : BitVec 2) (d a : XField) (st : State) := opSfun st s (wordOf (.sfunLog2 s d a)) d a .log2
/-- SFUN.rcp. -/
def execSfunRcp (s : BitVec 2) (d a : XField) (st : State) := opSfun st s (wordOf (.sfunRcp s d a)) d a .rcp
/-- SFUN.rsqrt. -/
def execSfunRsqrt (s : BitVec 2) (d a : XField) (st : State) := opSfun st s (wordOf (.sfunRsqrt s d a)) d a .rsqrt
/-- SFUN.sinpi. -/
def execSfunSinpi (s : BitVec 2) (d a : XField) (st : State) := opSfun st s (wordOf (.sfunSinpi s d a)) d a .sinpi
/-- SFUN.cospi. -/
def execSfunCospi (s : BitVec 2) (d a : XField) (st : State) := opSfun st s (wordOf (.sfunCospi s d a)) d a .cospi
/-- SFUN.tanh. -/
def execSfunTanh (s : BitVec 2) (d a : XField) (st : State) := opSfun st s (wordOf (.sfunTanh s d a)) d a .tanh
/-- SFUN.sigmoid. -/
def execSfunSigmoid (s : BitVec 2) (d a : XField) (st : State) := opSfun st s (wordOf (.sfunSigmoid s d a)) d a .sigmoid

/-! ## Delivery (R160) -/

/-- Resolves every register of a thread that holds a symbol of an entry, poisoned or not as `bad` says, with the flags of the
resolutions (R149, R160). -/
def Thread.resolveAs (t : Thread) (entry : Nat) (data : List Word) (bad : Bool) : Thread :=
  let rs := t.regs.map fun r =>
    match r with
    | .pending e w k p => if e = entry ∧ p = bad then
        let v := k.resolve (data.getD w 0#32)
        (RegState.ready v.bits, v.flags)
      else (r, fNone)
    | r => (r, fNone)
  { t with regs := rs.map (·.1), fflags := rs.foldl (fun f r => f ||| r.2) t.fflags }

/-- Resolves every register of a thread that holds a symbol of an entry that is not poisoned. -/
def Thread.resolve (t : Thread) (entry : Nat) (data : List Word) : Thread := t.resolveAs entry data false

/-- Poisons every register of a thread that holds a symbol of an entry (R167). -/
def Thread.poison (t : Thread) (entry : Nat) : Thread :=
  { t with regs := t.regs.map fun r =>
      match r with
      | .pending e w k p => .pending e w k (p || e == entry)
      | r => r }

/-- A result reaches its core (R160): its entry is freed, every register that holds one of its symbols resolves or is
poisoned, its flags are delivered, and an acquire hold on it ends. -/
def State.deliver (st : State) (tile : TileId) (core entry : Nat) : State :=
  match st.tile? tile with
  | none => st
  | some tl =>
    match (tl.core core).symbols.get? entry with
    | none => st
    | some e =>
      match e.data with
      | none => st
      | some data =>
        let st := st.modCore tile core fun c => { c with symbols := c.symbols.erase entry }
        if e.discard then st
        else st.modTile tile fun tl => tl.modMembers e.thr fun t =>
          let again := match e.source with
            | .recv .. => t.poisons.erase entry
            | _ => t.poisons.set entry data
          let t := if e.bad then { t.poison entry with poisons := again } else (t.resolve entry data).orFlags e.flags
          { t with acqHold := t.acqHold.erase entry }

/-- Whether a result may be delivered (R160): RECV results of one channel resolve in the order in which the RECVs were posted. -/
def State.inTurn (st : State) (tile : TileId) (core entry : Nat) : Bool :=
  match st.tile? tile with
  | none => true
  | some tl =>
    match (tl.core core).symbols.get? entry with
    | some e => tl.cores.all fun c => c.symbols.all fun x => match e.source, x.2.source with
        | .recv ch n, .recv ch' m => x.2.discard || ch' != ch || decide (n ≤ m)
        | _, _ => true
    | none => true

/-- What the words of a message meet in the inbox (Table 24.3): an uncorrectable error poisons a RECV's symbol (R167). -/
def State.readInbox (st : State) (tile : TileId) (core entry : Nat) (ecc : Ecc) : State :=
  match ((st.tile? tile).bind fun tl => (tl.core core).symbols.get? entry).map (·.source) with
  | some (SymSource.recv ..) => (st.modCore tile core fun c => { c with symbols := c.symbols.update entry fun e => { e with bad := e.bad || ecc == .bad } }).countEcc tile ecc
  | _ => st

/-- RESULT_DELIVERY (R160). -/
def execResultDelivery (tile : TileId) (core entry : Nat) (st : State) : Host.Outcome State Fault Refusal :=
  if st.inTurn tile core entry then
    .next (((st.readInbox tile core entry (st.resultEcc tile core entry)).deliver tile core entry).spend (SoftError.ofResult tile core entry))
  else .next st

/-- SFU_START (R276): the unit starts the request at the head of its FIFO, 16 tile cycles before its result, and at most
one request every 2 tile cycles; a stopped tile starts none (Table 9.9). -/
def execSfuStart (tile : TileId) (st : State) : Host.Outcome State Fault Refusal :=
  .next (st.modTile tile fun tl =>
    match tl.sfuFifo with
    | [] => tl
    | r :: rest =>
      if !tl.stopped && tl.sfuBusy.all fun b => decide (b.2 + 2 ≤ tl.cycle + 16) then
        { tl with sfuFifo := rest, sfuBusy := tl.sfuBusy ++ [(r, tl.cycle + 16)] }
      else tl)

/-- Gives a symbol-table entry its words, before they reach the registers. -/
def State.fillSymbol (st : State) (tile : TileId) (core entry : Nat) (data : List Word) (flags : FFlags) (bad : Bool) : State :=
  st.modCore tile core fun c =>
    { c with symbols := c.symbols.update entry fun e => { e with data := some data, flags := flags, bad := bad } }

/-- SFU_RESULT (R276): the oldest started request's result leaves the unit when its 16 tile cycles have passed; the
symbol resolves and its flags are delivered (R135). -/
def execSfuResult (tile : TileId) (st : State) : Host.Outcome State Fault Refusal :=
  match st.tile? tile with
  | none => .next st
  | some tl =>
    match tl.sfuBusy with
    | [] => .next st
    | (r, due) :: rest =>
      if due ≤ tl.cycle then
        let v := sfun r.fn r.arg
        let st := st.modTile tile fun tl => { tl with sfuBusy := rest }
        .next ((st.fillSymbol tile (coreOf r.thr) r.entry [v.bits] v.flags false).deliver tile (coreOf r.thr) r.entry)
      else .next st

/-- FIXED_LATENCY_DELIVERY (R175, R403): a thread's results that are due are written. -/
def execFixedLatencyDelivery (t : ThreadId) (st : State) : Host.Outcome State Fault Refusal :=
  .next (st.modThread t fun th => th.deliverDue (st.cycleOf t.tile))

end Sys2Proof.Machine
end

