-- ==== Sys2Proof/Machine/Address.lean ====
section
/-! DEFINITION. The coordinate registers of a memory operand, and GADDR (R278, R279). -/

namespace Sys2Proof.Machine

/-- Reads w registers from a number on for uses that need them (R158). -/
def needRegs (st : State) (t : Thread) (c : Nat) : Nat → Except Stop (List Word)
  | 0 => .ok []
  | w + 1 => do
    let v ← needReg st t c
    let vs ← needRegs st t (c + 1) w
    .ok (v :: vs)

/-- The fields c to c + w − 1 as scalar fields, for the checks of early reads. -/
def rangeFields (c : XField) (w : Nat) : List XField := (List.range w).map fun i => c + BitVec.ofNat 7 i

/-- A location trap of an instruction: TVAL of PRIV is the instruction's word (Table 13.1), that of any other cause the one of R70. -/
def locStop (word : Word) (e : LocTrap) : Stop := .trap e.1 (if e.1 = .priv then word else e.2)

/-- A location trap as an instruction's stop. -/
def liftLoc {α : Type} (word : Word) (r : Except LocTrap α) : Except Stop α :=
  match r with
  | .ok v => .ok v
  | .error e => .error (locStop word e)

/-- GADDR (R278): the owner and the local element index, without an access. -/
def execGaddr (s : BitVec 2) (d c : XField) (l : LEntry) (st : State) : Host.Outcome State Fault Refusal :=
  issue st s 4 fun tid t => do
    match st.launchOf tid.tile with
    | none => .error .hold
    | some la =>
      let k := la.kernel
      let w := coordCount k l.toNat
      let word := wordOf (.gaddr s d c l)
      checkRanges t word [(c, w), (d, 2)]
      checkEarly t (rangeFields c w)
      let vs ← needRegs st t c.toNat w
      let e := k.entryOf l.toNat
      let g := (vs.take e.rank).map (·.toInt)
      let (o, x) ← liftLoc word (gaddrValue k tid.tile.num l.toNat 0 g (vs.getD e.rank 0#32).toNat)
      let t := (t.setX d.toNat o).setX (d.toNat + 1) x
      .ok { st := st.setThread tid t }

end Sys2Proof.Machine
end

