-- ==== Sys2Proof/Machine/Translate.lean ====
section
/-! DEFINITION. Stage 5: the translation of a thread's access at issue (R80, R167, R471, R472). -/

namespace Sys2Proof.Machine

/-- A request takes a free walker of a field's 16, or waits behind them in global-time order of arrival, ties by source number (R469). -/
def queueWalk (r : WalkReq) (ws : List WalkReq) : List WalkReq :=
  let before (w : WalkReq) : Bool := decide (w.time < r.time) || (decide (w.time = r.time) && decide (w.source ≤ r.source))
  if ws.length < 16 then ws ++ [r]
  else ws.take 16 ++ (ws.drop 16).filter before ++ [r] ++ (ws.drop 16).filter fun w => !before w

/-- Stage 5 for a thread's rim access (R80, R167, R471): the physical address, or a trap, or the hold of a walk. -/
def translate (st : State) (tid : ThreadId) (t : Thread) (k lane va : Nat) (read write : Bool) : Except Stop (Nat × State) :=
  match st.tile? tid.tile, st.launchOf tid.tile with
  | some tl, some la =>
    match tl.berth, st.rootOf tid.tile.part la with
    | some b, some root =>
      match st.tlbLookup b root va with
      | (some e, st) =>
        if leafPermits st tid.tile.part e va read write then .ok (e.pa + (va - e.base), st)
        else .error (.trap .access (locTval k 0 lane))
      | (none, st) =>
        match t.walkFault with
        | some f =>
          if f.page = va / 65536 ∧ f.write = write then
            .error (.fault f.cause (locTval k 0 lane) va (finfoWord read write (f.kind == 3) f.level k))
          else .error (.wait (startWalk st b va))
        | none => .error (.wait (startWalk st b va))
    | _, _ => .error (.fault .translation (locTval k 0 lane) va (finfoWord read write false 1 k))
  | _, _ => .error .hold
where
  /-- Sends the thread's request to the walkers of its berth's field, unless one is out already. -/
  startWalk (st : State) (b va : Nat) : State :=
    if t.walking.isSome then st
    else
      let (id, st) := st.freshId
      (st.modField (fieldOf b) fun fl => { fl with walks := queueWalk ⟨id, tid, va, read, write, st.now, b⟩ fl.walks }).modThread tid
        fun th => { th with walking := some id, walkFault := none }

end Sys2Proof.Machine
end

