-- ==== Sys2Proof/Machine/Access.lean ====
section
/-! DEFINITION. Memory accesses from issue to performance: places, range locks, the combining buffer, fences, and the
performance order (R85 to R103, R111, R112, R281 to R290). -/

namespace Sys2Proof.Machine

/-! ## Places -/

/-- The place of a resolved location, after stage 5 for a rim location (R280); an address that the host's translation refuses traps
ACCESS (R81). -/
def placeOf (st : State) (tid : ThreadId) (t : Thread) (k : Kernel) (kidx lane : Nat) (num space off : Nat) (read write : Bool) :
    Except Stop (Place × State) :=
  let e := k.entryOf kidx
  match space with
  | 1 => .ok (.scratch tid.tile (swizzle e.swz off), st)
  | 2 => .ok (.scratch (withNum tid.tile num) (swizzle e.swz off), st)
  | 4 => (translate st tid t kidx lane off read write).map fun (pa, st) => (.rim off pa, st)
  | 5 =>
    let port := (st.part tid.tile.part).port
    if Config.hostRefuses st.clock port off then .error (.trap .access (locTval kidx 0 lane)) else .ok (.host port off, st)
  | _ => .ok (.weights tid.tile off, st)

/-- Stage 6 (R111, R283): the issuing tile's table, for a place that is not a peer's. -/
def checkLock (st : State) (tid : ThreadId) (p : Place) (size lane : Nat) (write : Bool) : Except Stop Unit :=
  if p.isPeer tid.tile then .ok ()
  else match st.tile? tid.tile with
    | none => .ok ()
    | some tl => match lockedBy tl p size write with
      | some n => .error (.trap .rlock (lockTval n lane))
      | none => .ok ()

/-! ## Issue into the performance order -/

/-- The thread whose fences cover an agent's accesses. -/
def Agent.thread? : Agent → Option ThreadId
  | .thread t => some t
  | .vector t => some t
  | .stream t _ => some t
  | _ => none

/-- Whether an access kind writes. -/
def AccKind.writes : AccKind → Bool
  | .load => false
  | _ => true

/-- A member of a checked pair presents an item (R480): it is counted as one that leaves, which the turn takes back when the other member's
item is not equal. -/
def State.present (st : State) (tid : ThreadId) (i : PairItem) : State :=
  match st.thread? tid with
  | none => st
  | some t =>
    match t.paired, t.task with
    | some _, some k => { (st.modTile tid.tile fun tl =>
        { tl with pairs := tl.pairs.set k.id ((fun (x : Nat × Nat) => (x.1 + 1, x.2)) ((tl.pairs.get? k.id).getD (0, 0))) }) with
        presented := st.presented ++ [i] }
    | _, _ => st

/-- A member of a checked pair reaches a load or a receive, which both are served from one access (R480). -/
def State.presentLoad (st : State) (tid : ThreadId) : State :=
  if (st.thread? tid).any (·.paired.isSome) then { st with presented := st.presented ++ [.load] } else st

/-- Adds an access to the order: a peer access goes to the network interface and raises the peer-write counter of a
store or atomic (R75, R102); any other stands at its visibility point. -/
def State.submit (st : State) (a : Access) : State :=
  let (id, st) := st.freshId
  let own := a.agent.tile
  if a.place.isPeer own then
    let dst := match a.place with
      | .scratch t _ => t
      | _ => own
    let st := { st with accesses := st.accesses ++ [{ a with id := id, st := .travelling }] }
    let st := st.modTile own fun tl => tl.enqueue id own dst (.access id)
    if a.kind.writes then
      match a.agent.thread? with
      | some t => st.modThread t fun th => { th with peerOut := th.peerOut ++ [id] }
      | none => st
    else st
  else { st with accesses := st.accesses ++ [{ a with id := id, st := .arrived }] }

/-- Drains a thread's combining buffer (R88): its lines in the order they were opened; each drained store enters the
performance order. -/
def State.drain (st : State) (tid : ThreadId) : State :=
  match st.thread? tid with
  | none => st
  | some t =>
    let ids := t.lines.flatMap (·.stores)
    let st := st.modThread tid fun th => { th with lines := [] }
    ids.foldl (fun st id =>
      match st.accesses.find? (·.id = id) with
      | none => st
      | some a => ({ st with accesses := st.accesses.filter (·.id ≠ id) }).submit a) st

/-- A rim store enters the combining buffer (R88), which drains first when a ninth line would open. -/
def State.buffer (st : State) (tid : ThreadId) (a : Access) (va : Nat) : State :=
  let line := va / 128
  match st.thread? tid with
  | none => st
  | some t =>
    let full := decide (8 ≤ t.lines.length) && !(t.lines.any (·.line == line))
    let st := if full then st.drain tid else st
    let (id, st) := st.freshId
    let now := st.cycleOf tid.tile
    let st := { st with accesses := st.accesses ++ [{ a with id := id, st := .buffered }] }
    st.modThread tid fun th =>
      { th with lines :=
          if th.lines.any (·.line == line) then
            th.lines.map fun l => if l.line = line then { l with stores := l.stores ++ [id], last := now } else l
          else th.lines ++ [⟨line, [id], now⟩] }

/-- COMBINING_BUFFER_TIMEOUT (R88): 512 tile cycles after the last store into a line, the buffer drains up to that line. -/
def execCombiningBufferTimeout (t : ThreadId) (st : State) : Host.Outcome State Fault Refusal :=
  match st.thread? t with
  | none => .next st
  | some th =>
    if th.lines.any fun l => decide (l.last + 512 ≤ st.cycleOf t.tile) then .next (st.drain t) else .next st

/-- Whether two byte ranges share a byte. -/
def overlap (a n b m : Nat) : Bool := decide (a < b + m) && decide (b < a + n)

/-- The bytes that a thread's buffered stores hold for a load, newest first (R88): a byte or none at each place. -/
def bufferedBytes (st : State) (tid : ThreadId) (va size : Nat) : List (Option Nat) :=
  (List.range size).map fun i =>
    st.accesses.foldl (fun r a =>
      match a.place, a.st with
      | .rim v _, .buffered =>
        if a.agent = .thread tid ∧ v ≤ va + i ∧ va + i < v + a.size then
          some ((a.data.getD 0#32).toNat / 256 ^ (va + i - v) % 256)
        else r
      | _, _ => r) none

/-! ## Fences (R103) -/

/-- Whether a result is one that a fence waits for: a load's, a RECV's or an atomic's (R99). -/
def SymSource.fenced : SymSource → Bool
  | .sfun | .cpy => false
  | _ => true

/-- Whether every earlier load, RECV and atomic of a thread has resolved, those of its vector instructions included (R99, R103). -/
def loadsResolved (st : State) (tid : ThreadId) : Bool :=
  (match st.tile? tid.tile with
    | none => true
    | some tl => (tl.core (coreOf tid.thr)).symbols.all fun e => e.2.thr != tid.thr || e.2.discard || !e.2.source.fenced) &&
  st.accesses.all fun a => a.agent != .vector tid || a.kind.writes

/-- Whether a vector instruction pushes elements to a stream. -/
def isVpush : Instr → Bool
  | .vpush .. => true
  | _ => false

/-- Whether a VPUSH of the thread is still in the queue of its vector claim (R94), and the claim is not stopped at a faulted element, which
only a push or a wait on the claim reports (R512; log entry 58). -/
def vpushQueued (st : State) (tid : ThreadId) (t : Thread) : Bool :=
  match t.claim, st.tile? tid.tile with
  | some n, some tl => (tl.vecs.getD n none).any fun c => c.stop.isNone && c.queue.any fun q => q.ops.any fun o => isVpush o.instr
  | _, _ => false

/-- Whether every pushed stream element of a thread has been performed, those of its VPUSHes included (R94, R103). -/
def streamsIssued (st : State) (tid : ThreadId) (t : Thread) : Bool :=
  (t.streams.all fun s => match s with
    | some b => !b.write || b.queue.isEmpty
    | none => true) && !vpushQueued st tid t &&
  st.accesses.all fun a => match a.agent with
    | .stream u _ => u != tid
    | _ => true

/-- Whether every vector access that a thread pushed has been performed, or is a store that has its data (R103). -/
def vectorsIssued (st : State) (tid : ThreadId) : Bool :=
  st.accesses.all fun a => a.agent != .vector tid || (a.kind.writes && a.data.isSome)

/-- Whether every host-space write and every remote write of a thread has completed (R103, R118). -/
def hostWritesDone (st : State) (tid : ThreadId) : Bool :=
  (st.accesses.all fun a => match a.place with
    | .host _ _ => !a.kind.writes || a.agent.thread? != some tid
    | _ => true) && st.remotes.all (·.thread != tid)

/-- The bank groups of TOUCH, in ascending order. -/
def touchedGroups (touch : BitVec 64) : List Nat := (List.range 64).filter fun g => touch.getLsbD g

/-- Whether every write of a thread to its own tile's scratchpad has been performed (R93 item 4). -/
def ownWritesDone (st : State) (tid : ThreadId) : Bool :=
  st.accesses.all fun a => match a.place with
    | .scratch t _ => t != tid.tile || !a.kind.writes || a.agent.thread? != some tid
    | _ => true

/-- Whether a fence that has sent its probes is complete (R93 item 4, R103). -/
def fenceDone (st : State) (tid : ThreadId) (t : Thread) (scope : Scope) (probes : List (Nat × Nat)) : Bool :=
  probes.isEmpty && t.peerCtr == 0 && ownWritesDone st tid && (scope != .system || hostWritesDone st tid)

/-- A release of a thread at tile scope is complete: what the thread has issued precedes what its tile issues later (R103). -/
def State.markFenced (st : State) (tid : ThreadId) : State :=
  { st with accesses := st.accesses.map fun a =>
      if a.agent.thread? = some tid ∧ a.st ≠ .buffered then { a with fenced := true } else a }

/-- One step of Fence(k, s) (R103): the state once the fence is complete, or the park with its progress. -/
def fenceStep (st : State) (tid : ThreadId) (t : Thread) (release : Bool) (scope : Scope) : Except Stop State :=
  let park (st : State) (r : FenceRun) : Except Stop State :=
    .error (.off .fence (st.modThread tid fun th => { th with fence := some r }))
  let finish (st : State) : State := st.modThread tid fun th => { th with touch := 0#64, fence := none }
  match t.fence.bind (·.probes) with
  | some ps => if fenceDone st tid t scope ps then .ok (finish st) else park st ⟨release, scope, some ps⟩
  | none =>
    if !loadsResolved st tid then park st ⟨release, scope, none⟩
    else if !release then .ok st
    else
      let st := st.drain tid
      if !(streamsIssued st tid t && vectorsIssued st tid) then park st ⟨release, scope, none⟩
      else if scope = .tile then .ok (st.markFenced tid)
      else
        let ps := (touchedGroups t.touch).map fun g => (g, st.nextId)
        if fenceDone st tid t scope ps then .ok (finish st) else park st ⟨release, scope, some ps⟩

/-- PROBE_ECHO (R103): a bank group echoes a thread's probe once every write ahead of it on the route is performed. -/
def execProbeEcho (t : ThreadId) (group : Nat) (st : State) : Host.Outcome State Fault Refusal :=
  match st.thread? t with
  | none => .next st
  | some th =>
    match th.fence with
    | none => .next st
    | some r =>
      match r.probes with
      | none => .next st
      | some ps =>
        let ahead (mark : Nat) := st.accesses.any fun a => match a.place with
          | .rim _ pa => a.kind.writes && a.data.isSome && a.agent.tile == t.tile && bankGroup pa == group && a.st == .arrived && decide (a.id < mark)
          | _ => false
        let ps' := ps.filter fun p => p.1 ≠ group ∨ ahead p.2
        .next (st.modThread t fun th => { th with fence := some { r with probes := some ps' } })

/-! ## Performance (R87, R93) -/

/-- Whether two accesses of a tile share a location (R85): a rim location is a virtual address. -/
def sameLocation (a : Place) (n : Nat) (b : Place) (m : Nat) : Bool :=
  match a, b with
  | .rim va _, .rim vb _ => overlap va n vb m
  | .rim _ _, _ => false
  | _, .rim _ _ => false
  | a, b => overlap a.key n b.key m

/-- Whether an earlier access of the order must be performed before another: the same thread's to a shared location (R93 item 1), a
write of the same tile on the same route, to a bank group or to a peer, and one that a release at tile scope put before the
accesses of its tile to its location (R103). -/
def mustPrecede (a b : Access) : Bool :=
  a.agent.tile == b.agent.tile && a.st != .buffered &&
  ((sameLocation a.place a.size b.place b.size && (a.fenced || a.agent.thread? == b.agent.thread?)) ||
    (a.kind.writes && a.data.isSome &&
      match a.place, b.place with
      | .rim _ pa, .rim _ pb => bankGroup pa == bankGroup pb
      | .scratch t _, .scratch t' _ => a.place.isPeer a.agent.tile && t == t'
      | _, _ => false))

/-- Whether an access of the order may be performed: it has reached its visibility point, its value is known, and nothing
before it must precede it. -/
def performable : List Access → Nat → Bool
  | [], _ => false
  | a :: as, id =>
    if a.id = id then a.st == .arrived && (a.data.isSome || a.kind == .load)
    else match as.find? (·.id = id) with
      | none => false
      | some b => !mustPrecede a b && performable as id

/-- The value an atomic leaves, and its flags (R287); none when a CAS writes nothing. -/
def amoResult (op : AmoOp) (old v cas : Word) : Option Word × FFlags :=
  match op with
  | .swap => (some v, fNone)
  | .add => (some (old + v), fNone)
  | .and => (some (old &&& v), fNone)
  | .or => (some (old ||| v), fNone)
  | .xor => (some (old ^^^ v), fNone)
  | .min => (some (minS old v), fNone)
  | .max => (some (maxS old v), fNone)
  | .minn => (some (minU old v), fNone)
  | .maxn => (some (maxU old v), fNone)
  | .cas => (if old = v then some cas else none, fNone)
  | .fadd => let r := fAdd old v; (some r.bits, r.flags)

/-- Changes a vector context of a tile. -/
def State.modVec (st : State) (tile : TileId) (ctx : Nat) (f : VCtx → VCtx) : State :=
  st.modTile tile fun tl => { tl with vecs := updAt tl.vecs ctx fun c => c.map f }

/-- Gives a lane of a pushed vector load its word. -/
def State.fillLane (st : State) (tile : TileId) (ctx op lane : Nat) (v : Word) (bad : Bool) : State :=
  st.modVec tile ctx fun c => { c with queue := c.queue.map fun q => { q with ops := q.ops.map fun o =>
    if o.id = op then { o with lanes := updAt o.lanes lane fun l => { l with value := some v, bad := bad } } else o } }

/-- Whether the host does not perform an access: its translation refuses it, or it completes with an error (R81, R289). -/
def Access.refused (a : Access) (ecc : Ecc) : Bool :=
  match a.place with
  | .host _ _ => ecc == .refused
  | _ => false

/-- Performs an access at its visibility point (R87): memory changes, the old value goes to its symbol, and a peer store or
atomic waits for its acknowledgement (R102). An access that the host refuses once it has been issued changes nothing, and its result is
poisoned (R289). A read through one virtual alias of a byte without the fences of R117 may return any value that the byte has held; the
model gives the latest one (log entry 52). -/
def State.perform (st : State) (a : Access) (ecc : Ecc) : State :=
  let key := a.place.key
  let raw := memRead st.mem key a.size
  let v := a.data.getD 0#32
  let refused := a.refused ecc
  let bad := ecc == .bad || refused
  let st := { st with accesses := st.accesses.filter (·.id ≠ a.id) }
  let (st, flags) : State × FFlags :=
    if refused then (st, fNone) else
    match a.kind with
    | .load => (st, fNone)
    | .store => ({ st with mem := memWrite st.mem key a.size v.toNat }.wrote a.place a.size, fNone)
    | .amo op cas =>
      let (r, f) := amoResult op (BitVec.ofNat 32 raw) v cas
      match r with
      | some w => ({ st with mem := memWrite st.mem key 4 w.toNat }, f)
      | none => (st, f)
  let st := match a.dest with
    | some (core, entry) => st.fillSymbol a.agent.tile core entry [a.widen.apply raw] flags bad
    | none => st
  let st := match a.lane with
    | some (ctx, op, lane) => st.fillLane a.agent.tile ctx op lane (a.widen.apply raw) bad
    | none => st
  if a.kind.writes && a.place.isPeer a.agent.tile then
    match a.agent.thread? with
    | some t => { st with acks := st.acks ++ [(a.id, t)] }
    | none => st
  else st

/-- PEER_WRITE_ACK (R102): an owning tile's acknowledgement reaches the thread and its counter falls. -/
def execPeerWriteAck (item : Nat) (st : State) : Host.Outcome State Fault Refusal :=
  match st.acks.find? (·.1 = item) with
  | none => .next st
  | some (_, t) =>
    let st := ({ st with acks := st.acks.filter (·.1 ≠ item) }).modThread t fun th => { th with peerOut := th.peerOut.filter (· ≠ item) }
    .next (st.resultFault t.tile)

end Sys2Proof.Machine
end

