-- ==== Sys2Proof/Machine/LoadStore.lean ====
section
/-! DEFINITION. LD, ST, the atomics and FENCE (R279 to R290). -/

namespace Sys2Proof.Machine

/-- The hold of R97: while an acquire of the thread is unresolved, no later memory instruction issues. -/
def checkHold (t : Thread) : Except Stop Unit := if t.acqHold.isEmpty then .ok () else .error .hold

/-- Coordinates of a memory operand: the checks of stages 1 to 3, and the values (R214, R279, R280). -/
def readCoords (st : State) (t : Thread) (k : Kernel) (c : XField) (kidx : Nat) : Except Stop (List Int × Nat) := do
  let w := coordCount k kidx
  let vs ← needRegs st t c.toNat w
  let n := (k.entryOf kidx).rank
  .ok ((vs.take n).map (·.toInt), (vs.getD n 0#32).toNat)

/-- R66 and R77: a packed L6 entry, and a write to space 3, trap ACCESS. -/
def checkElement (e : Entry) (kidx lane : Nat) (write : Bool) : Except Stop Unit :=
  if e.packed ∨ (write ∧ e.space = 3) then .error (.trap .access (locTval kidx 0 lane)) else .ok ()

/-- Whether the thread's buffered stores share a byte with a rim access. -/
def buffersByte (st : State) (tid : ThreadId) (va size : Nat) : Bool :=
  (bufferedBytes st tid va size).any (·.isSome)

/-- Issues a load of one element for a symbol-table entry (R281): it takes the bytes of its own combining buffer, or it
enters the performance order. R88 speaks of a location that the buffer holds; a load of which the buffer holds some bytes only is the
model's choice: the whole buffer drains, and the load follows it (log entry 48). -/
def State.issueLoad (st : State) (tid : ThreadId) (p : Place) (size : Nat) (w : Widen) (entry : Nat) : State :=
  let core := coreOf tid.thr
  let a : Access := ⟨0, .thread tid, p, size, .load, none, w, some (core, entry), none, .arrived, false⟩
  let st := st.presentLoad tid
  match p with
  | .rim va _ =>
    let bs := bufferedBytes st tid va size
    if bs.all (·.isSome) then st.fillSymbol tid.tile core entry [w.apply (leBytes (bs.map (·.getD 0)))] fNone false
    else if bs.any (·.isSome) then (st.drain tid).submit a
    else st.submit a
  | _ => st.submit a

/-- Issues a store of one element (R285): a rim store enters the combining buffer. -/
def State.issueStore (st : State) (tid : ThreadId) (p : Place) (size : Nat) (v : Word) : State :=
  let a : Access := ⟨0, .thread tid, p, size, .store, some v, .w32, none, none, .arrived, false⟩
  match p with
  | .rim va _ => (st.buffer tid a va).present tid (.access .store p size (some v))
  | _ => (st.submit a).present tid (.access .store p size (some v))

/-- Issues an atomic (R287): buffered stores to its bytes leave first. -/
def State.issueAmo (st : State) (tid : ThreadId) (p : Place) (op : AmoOp) (v cas : Word) (entry : Nat) : State :=
  let a : Access := ⟨0, .thread tid, p, 4, .amo op cas, some v, .w32, some (coreOf tid.thr, entry), none, .arrived, false⟩
  match p with
  | .rim va _ => ((if buffersByte st tid va 4 then st.drain tid else st).submit a).present tid (.access (.amo op cas) p 4 (some v))
  | _ => (st.submit a).present tid (.access (.amo op cas) p 4 (some v))

/-- Whether an o field makes an access ordered, and its scope: the entry's, or system for .ordw (Table 3.3). -/
def ordScope (o : MemOrd) (e : Entry) : Option Scope :=
  match o with
  | .ord => some e.scopeOf
  | .ordw => some .system
  | _ => none

/-- R252: in W1 mode an access with o = 01 is followed by a full fence at the entry's scope, before the instruction ends. -/
def w1Tail (st : State) (tid : ThreadId) (mode : DMode) (o : MemOrd) (scope : Scope) : Except Stop Done :=
  if mode = .w1 ∧ o = .ord then
    match st.thread? tid with
    | none => .ok { st := st }
    | some t =>
      match fenceStep (st.modThread tid fun th => { th with w1Done := true, fence := none }) tid { t with fence := none } true scope with
      | .ok st => .ok { st := st }
      | .error e => .error e
  else .ok { st := st }

/-- Whether a thread is migration-eligible (R44), by the bits of R375's TVAL that it fails. -/
def migrateFailures (st : State) (tid : ThreadId) (t : Thread) : Nat :=
  let kids := match st.tile? tid.tile with
    | some tl => tl.threads.any fun e => e.2.parent == some tid.thr
    | none => false
  let leads := match st.tile? tid.tile with
    | some tl => !(tl.followers tid.thr).isEmpty
    | none => false
  (t.alloc != 16).toNat + (!t.migok).toNat * 2 + t.claim.isSome.toNat * 4 + t.accGroup.isSome.toNat * 8 +
    t.member.toNat * 16 + (t.streams.any (·.isSome)).toNat * 32 + (t.follow.isSome || leads).toNat * 64 +
    t.inh.toNat * 128 + kids.toNat * 256

/-- Ends a thread's slot and its place on the wheel (R30); its other holdings have been released. -/
def State.removeThread (st : State) (tid : ThreadId) : State :=
  (st.modCore tid.tile (coreOf tid.thr) (·.undeal tid.thr)).modTile tid.tile fun tl =>
    { tl with threads := tl.threads.erase tid.thr, twins := tl.twins.erase tid.thr }

/-- The values of x0 to x15 that a migrating thread carries (R45); they are all ready. -/
def carriedRegs (t : Thread) : List Word :=
  (List.range 16).map fun n => match t.reg n with
    | .ready v => v
    | _ => 0#32

/-- What a thread has issued that its retirement waits for (R30): unperformed accesses, messages that are not acknowledged, and copies,
with those that it brought from tiles it has left. -/
def State.issuedBy (st : State) (tid : ThreadId) (t : Thread) : List Nat :=
  (st.accesses.filter fun a => a.agent.thread? == some tid).map (·.id) ++
  (st.messagesOut.filter fun m => m.1 == tid.tile && m.2.thr == tid.thr).map (·.2.id) ++
  (match st.tile? tid.tile with
    | some tl => (tl.copyQ.flatMap id |>.filter fun c => c.thr == tid.thr).map (·.id)
    | none => []) ++
  t.await.filter st.outstanding

/-- Departs to another tile (R45): the thread ends here, and one message carries it, resuming at a PC. Results that no register of it
waits for are discarded as they come; its retirement still waits for them (R30). -/
def State.depart (st : State) (tid : ThreadId) (t : Thread) (num : Nat) (pc : Word) : State :=
  let dst := withNum tid.tile num
  let (id, st) := st.freshId
  let m : Migrant := ⟨pc, carriedRegs t, t.preds, t.fmt, t.sbchk, t.fold, t.migok, t.task, t.mode, t.parent.isSome, t.paired, st.issuedBy tid t⟩
  let leave (e : Nat × SymEntry) : Nat × SymEntry := if e.2.thr = tid.thr then (e.1, { e.2 with discard := true }) else e
  let st := (st.endFollowers tid).modCore tid.tile (coreOf tid.thr) fun c => { c with symbols := c.symbols.map leave }
  (st.removeThread tid).modTile tid.tile fun tl => tl.enqueue id tid.tile dst (.migrant m)

/-- The first pending register of a thread. -/
def firstPending (t : Thread) : Option Nat := (List.range t.alloc).find? fun n => (t.reg n).isPending

/-- Why a thread with pending registers does not migrate yet: a poisoned one traps SOFT (R167), and so does one in error that it carries
(R476). -/
def allReady (st : State) (t : Thread) : Option Stop :=
  match firstPending t with
  | none => ((List.range 16).find? fun n => t.reg n == .corrupt).map fun n => .trap .soft (corruptTval n)
  | some n => match needReg st t n with
    | .error (.trap c v) => some (.trap c v)
    | _ => some (.off .allRegs st)

/-- A migration's departure conditions (R44, R46, R284): every pending register has resolved, and a grid-scope release is
complete. -/
def departReady (st : State) (tid : ThreadId) (t : Thread) : Except Stop State :=
  match allReady st t with
  | some stop => .error stop
  | none => if !t.inflight.isEmpty then .error .hold else fenceStep st tid t true .grid

/-- A load or atomic under DISCARD (R281, R287): its symbol resolves to 0 at the thread's next turn. -/
def State.issueDiscard (st : State) (tid : ThreadId) (d entry : Nat) : State :=
  ((st.modThread tid fun th => th.setReg d (.pending entry 0 .neutral false)).allocSymbol tid entry .discard).fillSymbol tid.tile
    (coreOf tid.thr) entry [0#32] fNone false

/-- LD (R281 to R284). -/
def execLd (s : BitVec 2) (d c : XField) (l : LEntry) (m z : Bool) (o : MemOrd) (st : State) : Host.Outcome State Fault Refusal :=
  issue st s 4 fun tid t => do
    match st.launchOf tid.tile with
    | none => .error .hold
    | some la =>
      let k := la.kernel
      let kidx := l.toNat
      let e := k.entryOf kidx
      let word := wordOf (.ld s d c l m z o)
      if t.w1Done then w1Resume st tid t e
      else
      checkRanges t word [(c, coordCount k kidx), (d, 1)]
      checkEarly t (rangeFields c (coordCount k kidx))
      checkHold t
      let (g, num) ← readCoords st t k c kidx
      let loc ← liftLoc word (resolveLoc k tid.tile.num tid.thr t.priv kidx .read g num 0)
      checkElement e kidx 0 false
      if z ∧ e.elem ≠ 0 ∧ e.elem ≠ 1 then .error (.trap .access (locTval kidx 0 0))
      match loc with
      | .discard =>
        let entry ← symbolSlot st tid
        w1Tail (st.issueDiscard tid d.toNat entry) tid t.mode o e.scopeOf
      | .byte num space off _ =>
        if m && num != tid.tile.num && migrateFailures st tid t == 0 then
          let st ← departReady st tid t
          .ok { st := st.depart tid t num t.pc }
        else
        let (p, st) ← placeOf st tid t k kidx 0 num space off true false
        checkLock st tid p e.size 0 false
        let entry ← symbolSlot st tid
        let st := (st.modThread tid fun th =>
          let th := th.setReg d.toNat (.pending entry 0 .neutral false)
          if (ordScope o e).isSome then { th with acqHold := th.acqHold ++ [entry] } else th).touch tid p
        let st := (st.allocSymbol tid entry .load).issueLoad tid p e.size (widenOf e.elem z) entry
        w1Tail st tid t.mode o e.scopeOf
where
  /-- The fence half of a W1 pair (R252), once its access has issued. -/
  w1Resume (st : State) (tid : ThreadId) (t : Thread) (e : Entry) : Except Stop Done :=
    (fenceStep st tid t true e.scopeOf).map fun st => { st := st }

/-- ST (R285): the release of an ordered store comes before the store leaves the thread (R103). -/
def execSt (s : BitVec 2) (d c : XField) (l : LEntry) (o : MemOrd) (st : State) : Host.Outcome State Fault Refusal :=
  issue st s 4 fun tid t => do
    match st.launchOf tid.tile with
    | none => .error .hold
    | some la =>
      let k := la.kernel
      let kidx := l.toNat
      let e := k.entryOf kidx
      let word := wordOf (.st s d c l o)
      if t.w1Done then execLd.w1Resume st tid t e
      else
      checkLimits t [d]
      checkRanges t word [(c, coordCount k kidx)]
      checkEarly t (rangeFields c (coordCount k kidx) ++ [d])
      checkHold t
      let (g, num) ← readCoords st t k c kidx
      let (v, t') ← needField st t d
      let loc ← liftLoc word (resolveLoc k tid.tile.num tid.thr t.priv kidx .write g num 0)
      checkElement e kidx 0 true
      match loc with
      | .discard =>
        let st ← (match ordScope o e with
          | some sc => fenceStep st tid t true sc
          | none => .ok st)
        w1Tail (st.modThread tid fun th => { th with streams := t'.streams }) tid t.mode o e.scopeOf
      | .byte num space off _ =>
        let (p, st) ← placeOf st tid t k kidx 0 num space off false true
        checkLock st tid p e.size 0 true
        let st ← (match ordScope o e with
          | some sc => fenceStep st tid t true sc
          | none => .ok st)
        let st := (st.modThread tid fun th => { th with streams := t'.streams }).touch tid p
        w1Tail (st.issueStore tid p e.size (storeBits e.elem v)) tid t.mode o e.scopeOf

/-- Whether an atomic may execute on an element code and a space (Table 10.2, R77). -/
def amoAllowed (op : AmoOp) (e : Entry) : Bool :=
  (match op with
    | .swap | .cas => e.elem == 2 || e.elem == 4
    | .fadd => e.elem == 4
    | _ => e.elem == 2) &&
  (match e.space with
    | 1 | 2 | 4 => true
    | 5 => op == .swap || op == .cas || op == .add
    | _ => false)

/-- An atomic with the release and acquire halves of its major (R286, R287). -/
def opAmo (st : State) (s : BitVec 2) (word : Word) (d c : XField) (l : LEntry) (op : AmoOp) (acq rel : Bool) :
    Host.Outcome State Fault Refusal :=
  issue st s 4 fun tid t => do
    match st.launchOf tid.tile with
    | none => .error .hold
    | some la =>
      let k := la.kernel
      let kidx := l.toNat
      let e := k.entryOf kidx
      let dw := if op = .cas then 2 else 1
      checkRanges t word [(c, coordCount k kidx), (d, dw)]
      checkEarly t (rangeFields c (coordCount k kidx) ++ rangeFields d dw)
      checkHold t
      let (g, num) ← readCoords st t k c kidx
      let v ← needReg st t d.toNat
      let cas ← (if op = .cas then needReg st t (d.toNat + 1) else .ok 0#32)
      let loc ← liftLoc word (resolveLoc k tid.tile.num tid.thr t.priv kidx .both g num 0)
      if !amoAllowed op e then .error (.trap .access (locTval kidx 0 0))
      match loc with
      | .discard =>
        let entry ← symbolSlot st tid
        let st ← (if rel then fenceStep st tid t true e.scopeOf else .ok st)
        .ok { st := st.issueDiscard tid d.toNat entry }
      | .byte num space off _ =>
        let (p, st) ← placeOf st tid t k kidx 0 num space off true true
        checkLock st tid p 4 0 true
        let entry ← symbolSlot st tid
        let st ← (if rel then fenceStep st tid t true e.scopeOf else .ok st)
        let st := (st.modThread tid fun th =>
          let th := th.setReg d.toNat (.pending entry 0 .neutral false)
          if acq then { th with acqHold := th.acqHold ++ [entry] } else th).touch tid p
        .ok { st := (st.allocSymbol tid entry (if op = .fadd then .fadd else .amo)).issueAmo tid p op v cas entry }

/-- AMO, relaxed. -/
def execAmoRlx (s : BitVec 2) (d c : XField) (l : LEntry) (op : AmoOp) (st : State) :=
  opAmo st s (wordOf (.amoRlx s d c l op)) d c l op false false
/-- AMO, acquire. -/
def execAmoAcq (s : BitVec 2) (d c : XField) (l : LEntry) (op : AmoOp) (st : State) :=
  opAmo st s (wordOf (.amoAcq s d c l op)) d c l op true false
/-- AMO, release. -/
def execAmoRel (s : BitVec 2) (d c : XField) (l : LEntry) (op : AmoOp) (st : State) :=
  opAmo st s (wordOf (.amoRel s d c l op)) d c l op false true
/-- AMO, acq_rel. -/
def execAmoAr (s : BitVec 2) (d c : XField) (l : LEntry) (op : AmoOp) (st : State) :=
  opAmo st s (wordOf (.amoAr s d c l op)) d c l op true true

/-- A fence (R290): the thread is parked while it waits. -/
def opFence (st : State) (s : BitVec 2) (release : Bool) (scope : Scope) : Host.Outcome State Fault Refusal :=
  issue st s 4 fun tid t => do
    let st ← fenceStep st tid t release scope
    .ok { st := st }

/-- FENCE.full. -/
def execFenceFull (s : BitVec 2) (q : Scope) (st : State) := opFence st s true q
/-- FENCE.acq. -/
def execFenceAcq (s : BitVec 2) (q : Scope) (st : State) := opFence st s false q
/-- FENCE.rel. -/
def execFenceRel (s : BitVec 2) (q : Scope) (st : State) := opFence st s true q
/-- FENCE.alias (R117): a full fence; the drain ends the forwarding of every buffered line. -/
def execFenceAlias (s : BitVec 2) (q : Scope) (st : State) := opFence st s true q

end Sys2Proof.Machine
end

