-- ==== Sys2Proof/Machine/Network.lean ====
section
/-! DEFINITION. The network interfaces and what they carry: inbox, spillway heap and posted RECVs (R82, R83, R294, R295),
mooring (R20, R21, R459), sending, arrival, return and acknowledgement (R445 to R447). -/

namespace Sys2Proof.Machine

/-! ## The inbox (R82, R83) -/

/-- The slots of 32 bytes that a message takes (R82). -/
def Message.slots (m : Message) : Nat := (m.words.length + 9) / 8

/-- The slots of some messages. -/
def slotsOf (ms : List Message) : Nat := ms.foldl (fun n m => n + m.slots) 0

/-- Whether the inbox has room for a message. -/
def Tile.inboxRoom (tl : Tile) (m : Message) : Bool := decide (slotsOf tl.inbox + m.slots ≤ 2048)

/-- Whether the spillway heap of a launch has room for a message. -/
def Tile.heapRoom (tl : Tile) (k : Kernel) (m : Message) : Bool := decide ((slotsOf tl.heap + m.slots) * 32 ≤ k.spill)

/-- The words that a RECV of n words resolves to (R295). -/
def recvWords (n : Nat) (m : Message) : List Word := (List.range n).map fun i => m.words.getD i 0#32

/-- Takes the first message of a channel out of an inbox. -/
def takeChannel (ch : Nat) : List Message → Option (Message × List Message)
  | [] => none
  | m :: ms => if m.ch = ch then some (m, ms) else (takeChannel ch ms).map fun r => (r.1, m :: r.2)

/-- A message goes to the VRECVADD at the head of a vector context (R324). -/
def State.giveMessage (st : State) (tile : TileId) (ctx : Nat) (m : Message) : State :=
  st.modTile tile fun tl => { tl with vecs := updAt tl.vecs ctx fun c => c.map fun c =>
    { c with queue := updAt c.queue 0 fun q => { q with ops := updAt q.ops 0 fun o => { o with msg := some m } } } }

/-- Posted RECVs take messages (R294): in posting order, each the oldest message of its channel, once those posted before it
on that channel have theirs. -/
def State.matchRecvs (st : State) (tile : TileId) : State :=
  match st.tile? tile with
  | none => st
  | some tl =>
    let r := tl.recvs.foldl (fun (acc : State × List PostedRecv × List Message) p =>
      if acc.2.1.any (·.ch == p.ch) then (acc.1, acc.2.1 ++ [p], acc.2.2)
      else match takeChannel p.ch acc.2.2 with
        | none => (acc.1, acc.2.1 ++ [p], acc.2.2)
        | some (m, rest) =>
          (match p.vec with
            | some ctx => acc.1.giveMessage tile ctx m
            | none => acc.1.fillSymbol tile p.core p.entry (recvWords p.words m) fNone false, acc.2.1, rest))
      (st, [], tl.inbox)
    r.1.modTile tile fun tl => { tl with recvs := r.2.1, inbox := r.2.2 }

/-- INBOX_PLACEMENT (R108): a message arrives at a tile; behind a heap, held messages or overflow it waits for the spillway
thread (R83 items 1 and 2). -/
def State.placeMessage (st : State) (tile : TileId) (m : Message) : State :=
  match st.tile? tile with
  | none => st
  | some tl =>
    if tl.heap.isEmpty && tl.held.isEmpty && tl.overflow.isEmpty && tl.inboxRoom m then
      (st.modTile tile fun tl => { tl with inbox := tl.inbox ++ [m] }).matchRecvs tile
    else st.modTile tile fun tl => { tl with overflow := tl.overflow ++ [m] }

/-- The mooring records that a launch holds (R459), held messages included (R83 item 4). -/
def State.recordCount (st : State) (part slot : Nat) : Nat :=
  (match st.launches.get? (part, slot) with
    | some l => l.moored.length
    | none => 0) +
  ((st.tilesOf part slot).foldl (fun n e => n + e.2.held.length) 0)

/-- Whether a launch's mooring queue has room for a record (R459). -/
def State.moorRoom (st : State) (part slot : Nat) : Bool :=
  match st.launches.get? (part, slot) with
  | some l => decide ((st.recordCount part slot + 1) * 128 ≤ l.moorBytes)
  | none => false

/-! ## The heap's bytes (R83): a ring of inbox slots at the top of the scratchpad (log entry 47) -/

/-- The 32-bit words of a message in the form of inbox slots (R82): its words, the source tile number, and the channel and length. -/
def Message.slotWords (m : Message) : List Word := m.words ++ [m.src, BitVec.ofNat 32 (m.ch + 256 * m.words.length)]

/-- The offset in the scratchpad of a word of a message whose first slot in the heap's ring is given. -/
def Kernel.heapWord (k : Kernel) (slot i : Nat) : Nat := 0x300000 - k.spill + (slot + i / 8) % (k.spill / 32) * 32 + i % 8 * 4

/-- Writes a message into the heap's bytes from a slot of the ring on. -/
def State.heapStore (st : State) (tile : TileId) (k : Kernel) (slot : Nat) (m : Message) : State :=
  m.slotWords.zipIdx.foldl (fun (st : State) w =>
    let p : Place := .scratch tile (k.heapWord slot w.2)
    ({ st with mem := memWrite st.mem p.key 4 w.1.toNat }).wrote p 4) st

/-- A message of the heap with its words as the heap's bytes hold them. -/
def State.heapLoad (st : State) (tile : TileId) (k : Kernel) (slot : Nat) (m : Message) : Message :=
  { m with words := (List.range m.words.length).map fun i => BitVec.ofNat 32 (memRead st.mem (Place.scratch tile (k.heapWord slot i)).key 4) }

/-- A message joins the heap, behind its other messages. -/
def State.heapAppend (st : State) (tile : TileId) (k : Kernel) (tl : Tile) (m : Message) : State :=
  (st.heapStore tile k (tl.heapAt + slotsOf tl.heap) m).modTile tile fun tl => { tl with heap := tl.heap ++ [m] }

/-- SPILLWAY_APPEND (R83 items 1 and 4): the spillway thread appends the oldest waiting message to the heap, or the message is
held in the mooring queue when the heap lacks room or others are held already. -/
def execSpillwayAppend (tile : TileId) (st : State) : Host.Outcome State Fault Refusal :=
  match st.tile? tile, st.launchOf tile with
  | some tl, some l =>
    match tl.overflow with
    | [] => .next st
    | m :: rest =>
      if tl.held.isEmpty && tl.heapRoom l.kernel m then
        .next ((st.modTile tile fun tl => { tl with overflow := rest }).heapAppend tile l.kernel tl m)
      else if st.moorRoom tile.part tile.slot then
        .next (st.modTile tile fun tl => { tl with overflow := rest, held := tl.held ++ [m] })
      else .next (st.failLaunch tile.part tile.slot 3 none)
  | _, _ => .next st

/-- SPILLWAY_REPLAY (R83 item 3): the oldest heap message goes into the inbox, as the heap's bytes hold it, when slots are free. -/
def execSpillwayReplay (tile : TileId) (st : State) : Host.Outcome State Fault Refusal :=
  match st.tile? tile, st.launchOf tile with
  | some tl, some l =>
    match tl.heap with
    | [] => .next st
    | m :: rest =>
      if tl.inboxRoom m then
        let m' := st.heapLoad tile l.kernel tl.heapAt m
        .next ((st.modTile tile fun tl => { tl with heap := rest, heapAt := (tl.heapAt + m.slots) % (l.kernel.spill / 32), inbox := tl.inbox ++ [m'] }).matchRecvs tile)
      else .next st
  | _, _ => .next st

/-- HELD_MESSAGE_MOVE (R83 item 4): the oldest held message goes into the heap as it has room, or straight into the inbox
when the heap has size 0. -/
def execHeldMessageMove (tile : TileId) (st : State) : Host.Outcome State Fault Refusal :=
  match st.tile? tile, st.launchOf tile with
  | some tl, some l =>
    match tl.held with
    | [] => .next st
    | m :: rest =>
      if l.kernel.spill = 0 then
        if tl.inboxRoom m then
          .next ((st.modTile tile fun tl => { tl with held := rest, inbox := tl.inbox ++ [m] }).matchRecvs tile)
        else .next st
      else if tl.heapRoom l.kernel m then
        .next ((st.modTile tile fun tl => { tl with held := rest }).heapAppend tile l.kernel tl m)
      else .next st
  | _, _ => .next st

/-! ## Mooring (R20, R21, R450, R459) -/

/-- Moors an item for a tile (R459); a cancelled launch discards it (R52), and a full queue fails the launch (R437). -/
def State.moor (st : State) (it : Item) (source : Nat) : State :=
  match st.launchOf it.dst with
  | none => st
  | some l =>
    if l.cancelled then st
    else if st.moorRoom it.dst.part it.dst.slot then
      let rec' : Moored := ⟨it, st.now, source⟩
      let st := st.modLaunch it.dst.part it.dst.slot fun l => { l with moored := l.moored ++ [rec'] }
      st.modGang it.dst.part it.dst.slot (l.kernel.gangOf (it.dst.num)) fun g => if g.state = .resident then g else { g with moorn := g.moorn + 1 }
    else st.failLaunch it.dst.part it.dst.slot 3 none

/-- Whether a mooring record goes before another (R460). -/
def Moored.before (a b : Moored) : Bool := decide (a.time < b.time) || (a.time == b.time && decide (a.source < b.source))

/-- A mooring record in its place among others in order; one of equal time and source comes after. -/
def insertMoored (m : Moored) : List Moored → List Moored
  | [] => [m]
  | x :: xs => if m.before x then m :: x :: xs else x :: insertMoored m xs

/-- Mooring records in the order of their delivery (R460). -/
def sortMoored (ms : List Moored) : List Moored := ms.foldl (fun acc m => insertMoored m acc) []

/-- The work packet that a mooring record for a tile holds (R374). -/
def Moored.packetFor (tile : TileId) (m : Moored) : Option Packet :=
  match m.item.payload with
  | .packet p => if m.item.dst = tile then some p else none
  | _ => none

/-- The mooring records that hold packets for a tile, in the order of their arrival (R374). -/
def State.mooredPackets (st : State) (tile : TileId) : List Moored :=
  match st.launchOf tile with
  | some l => sortMoored (l.moored.filter fun m => (m.packetFor tile).isSome)
  | none => []

/-- Packets that are moored behind a full work list of a resident tile join it as space is free (R374). -/
def State.fillWork (st : State) (tile : TileId) : State :=
  match st.tile? tile with
  | none => st
  | some tl =>
    let ms := (st.mooredPackets tile).take (1024 - tl.work.length)
    if ms.isEmpty ∨ st.gangState tile ≠ .resident then st
    else (st.modLaunch tile.part tile.slot fun l => { l with moored := l.moored.filter fun m => !ms.contains m }).modTile tile fun tl =>
      { tl with work := tl.work ++ ms.filterMap (·.packetFor tile) }

/-- A packet comes to its tile (R374): it joins the work list, or the mooring queue when the list is full or others wait there. -/
def State.takePacket (st : State) (it : Item) (p : Packet) : State :=
  match st.tile? it.dst with
  | none => st
  | some tl =>
    if tl.work.length < 1024 ∧ (st.mooredPackets it.dst).isEmpty then st.modTile it.dst fun tl => { tl with work := tl.work ++ [p] }
    else st.moor it it.origin

/-- Packets that the target of a shipment does not hold return to the tail of the sender's list, in their order (R43); what a full list
has no place for waits behind it, as a packet of TASKPUT does (R374). -/
def State.returnPackets (st : State) (it : Item) (ps : List Packet) : State :=
  ps.foldl (fun (st : State) p => st.takePacket { it with dst := it.src, payload := .packet p } p) st

/-- An item enters its tile (R446, R460): a message reaches the inbox, an access its visibility point, a packet the work list
or the mooring queue behind a full one (R374), a migrating thread the tile's arrivals (R46). A shipment is taken in by
LEVELLER_SHIPMENT_ARRIVAL, and an engine whose element was moored makes its access now (R21). -/
def State.takeIn (st : State) (it : Item) : State :=
  match it.payload with
  | .message m => st.placeMessage it.dst m
  | .access id =>
    { st with accesses := st.accesses.map fun a => if a.id = id then { a with st := .arrived } else a }
  | .packet p => st.takePacket it p
  | .migrant m => st.modTile it.dst fun tl => { tl with migrants := tl.migrants ++ [m] }
  | .shipment _ => st
  | .element _ => st

/-! ## Sending (R293, R445, R447) -/

/-- The first core at or after one, in round robin, whose outbound queue holds a message (R293). -/
def nextOutbound (cores : List Core) : Nat → Nat → Option Nat
  | 0, _ => none
  | n + 1, c => if (cores.getD (c % 8) Core.reset).outbound.isEmpty then nextOutbound cores n (c + 1) else some (c % 8)

/-- The network interface takes a message from the cores' outbound queues, one at a time in round robin (R293). -/
def State.takeOutbound (st : State) (tile : TileId) : State :=
  match st.tile? tile with
  | none => st
  | some tl =>
    match nextOutbound tl.cores 8 tl.nextCore with
    | none => st
    | some c =>
      match (tl.core c).outbound with
      | [] => st
      | m :: rest =>
        st.modTile tile fun tl =>
          { (tl.modCore c fun co => { co with outbound := rest }).enqueue m.id tile (withNum tile m.dst.toNat) (.message m) with
            nextCore := (c + 1) % 8 }

/-- Moors an item whose tile has no berth, and raises a tile fault (R445); a leveller's shipment goes back to its sender instead, since
no packet moves to an absent tile (R43). -/
def State.sendAbsent (st : State) (berth : Nat) (it : Item) : State :=
  match it.payload with
  | .shipment ps => st.returnPackets it ps
  | _ => ((st.moor it berth).tileFault it.dst berth).settleAwaited it.id

/-- Whether an item is the first of those on their way from its tile to its tile: items reach a tile in send order (R447). -/
def State.inOrder (st : State) (it : Item) : Bool :=
  (st.items.find? fun i => i.src = it.src ∧ i.dst = it.dst).map (·.id) == some it.id

/-- Sends or moors one item (R445): the interface reads its cached entry, or reads the entry and caches it, the least recently
used of 256 giving way, which drops that entry (R447); an entry with P = 0 moors the item and raises a tile fault. -/
def State.sendItem (st : State) (berth : Nat) (it : Item) : State :=
  let tag := it.dst
  let b := st.berth berth
  let send (st : State) (e : NiEntry) : State :=
    let rest := b.cache.filter (·.tile ≠ tag)
    let old := if 256 ≤ rest.length then (rest.take 1).map (·.tile) else []
    let st := st.modBerth berth fun b =>
      { b with
        cache := (rest.filter fun x => !old.contains x.tile) ++ [e]
        unacked := (b.unacked.map fun u => if old.contains u.tile then { u with dropped := true } else u) ++ [⟨it.id, tag, false⟩] }
    { st with items := st.items ++ [{ it with origin := berth, target := e.berth, back := false }] }
  match b.cache.find? (·.tile = tag) with
  | some e => send st e
  | none =>
    match st.launchOf it.dst with
    | none => st
    | some l =>
      match l.table.get? tag.num with
      | some v => match v.berth with
        | some d => send st ⟨tag, d, v.gen⟩
        | none => st.sendAbsent berth it
      | none => st.sendAbsent berth it

/-- Whether the interface may send to a tile now: no item sent under a dropped entry of that tile is unacknowledged (R447). -/
def Berth.maySend (b : Berth) (t : TileId) : Bool := b.unacked.all fun u => u.tile != t || !u.dropped

/-- Takes the first item whose tile the interface may send to now. -/
def takeSendable (b : Berth) : List Item → Option (Item × List Item)
  | [] => none
  | it :: its => if b.maySend it.dst then some (it, its) else
      (takeSendable { b with unacked := b.unacked ++ [⟨it.id, it.dst, true⟩] } its).map fun r => (r.1, it :: r.2)

/-- NI_SEND (R293, R445): a berth's network interface takes the next message of the outbound queues and sends its next item. -/
def execNiSend (berth : Nat) (st : State) : Host.Outcome State Fault Refusal :=
  match (st.berth berth).moored with
  | none => .next st
  | some tile =>
    if (st.tile? tile).bind (·.berth) ≠ some berth then .next st
    else
      let st := st.takeOutbound tile
      match st.tile? tile with
      | none => .next st
      | some tl =>
        match takeSendable (st.berth berth) tl.niq with
        | none => .next st
        | some (it, rest) => .next ((st.modTile tile fun tl => { tl with niq := rest }).sendItem berth it)

/-! ## Arrival, return and acknowledgement (R446, R447, R462) -/

/-- An item is acknowledged by the berth that took it in, to the interface that sent it (R447). -/
def State.ackItem (st : State) (it : Item) : State := { st with itemAcks := st.itemAcks ++ [(it.id, it.origin)] }

/-- ITEM_ARRIVAL (R446, R454, R462): a berth takes in an item for its moored tile, moors it while the gang is saving or
restoring, holds it for a relocated tile that is not restored yet, forwards it, or sends it back. -/
def execItemArrival (item : Nat) (st : State) : Host.Outcome State Fault Refusal :=
  match st.items.find? fun i => i.id = item ∧ !i.back with
  | none => .next st
  | some it => if !st.inOrder it then .next st else
    match it.payload with
    | .shipment _ => .next st
    | _ =>
      let b := st.berth it.target
      let rest := st.items.filter (·.id ≠ item)
      if b.moored = some it.dst then
        let st' := ({ st with items := rest }).ackItem it
        if b.state = .restoring ∧ st.gangState it.dst = .resident then
          .next (st'.modBerth it.target fun b => { b with held := b.held ++ [it] })
        else match st.gangState it.dst with
          | .resident => .next (st'.takeIn it)
          | _ => .next ((st'.moor it it.origin).tileFault it.dst it.origin)
      else match b.fwdr with
        | some (to', num) =>
          if num = it.dst.num then
            .next { st with items := st.items.map fun i => if i.id = item then { i with target := to' } else i }
          else .next { st with items := st.items.map fun i => if i.id = item then { i with back := true } else i }
        | none => .next { st with items := st.items.map fun i => if i.id = item then { i with back := true } else i }

/-- Drops an interface's cached entry of a tile (R446, R447): items sent under it count as sent under a dropped entry. -/
def State.dropEntry (st : State) (berth : Nat) (tile : TileId) : State :=
  st.modBerth berth fun b =>
    { b with
      cache := b.cache.filter (·.tile ≠ tile)
      unacked := b.unacked.map fun u => if u.tile = tile then { u with dropped := true } else u }

/-- Puts an item that was sent again ahead of the later items on their way (R447). -/
def State.keepPlace (st : State) (item : Nat) : State :=
  { st with items := (st.items.filter (·.id = item)) ++ st.items.filter (·.id ≠ item) }

/-- ITEM_RETURN (R446): an item is back at its source's interface, which drops its cached entry, reads the entry afresh, and
sends or moors the item; the items that it sent behind it stay behind it (R447). -/
def execItemReturn (item : Nat) (st : State) : Host.Outcome State Fault Refusal :=
  match st.items.find? fun i => i.id = item ∧ i.back with
  | none => .next st
  | some it => if !st.inOrder it then .next st else
    let st := { st with items := st.items.filter (·.id ≠ item) }
    let st := st.modBerth it.origin fun b => { b with unacked := b.unacked.filter (·.item ≠ item) }
    .next (((st.dropEntry it.origin it.dst).sendItem it.origin it).keepPlace item)

/-- ITEM_ACKNOWLEDGEMENT (R447). -/
def execItemAcknowledgement (item : Nat) (st : State) : Host.Outcome State Fault Refusal :=
  match st.itemAcks.find? (·.1 = item) with
  | none => .next st
  | some (_, b) =>
    .next ((({ st with itemAcks := st.itemAcks.filter (·.1 ≠ item) }).modBerth b
      fun b => { b with unacked := b.unacked.filter (·.item ≠ item) }).settleAwaited item)

/-- NIINV (R447, R448): a write of the register drops the interface's cached entry of a tile. -/
def execNiinv (berth slot num : Nat) (st : State) : Host.Outcome State Fault Refusal :=
  .next (st.dropEntry berth ⟨(st.berth berth).part, slot, num⟩)

/-- INVALIDATION (R447): one interface drops its entry of a tile and acknowledges, which a relocation waits for (R461). -/
def execInvalidation (berth : Nat) (tile : TileId) (st : State) : Host.Outcome State Fault Refusal :=
  .next ((st.dropEntry berth tile).modTile tile fun tl =>
    { tl with reloc := tl.reloc.map fun r => { r with acks := r.acks.filter (· ≠ berth) } })

end Sys2Proof.Machine
end

