-- ==== Sys2Proof/Machine/Message.lean ====
section
/-! DEFINITION. SEND and RECV (R291 to R295). -/

namespace Sys2Proof.Machine

/-- The word count that a size code names (R292). -/
def msgWords (w : MsgSize) : Nat :=
  match w with
  | .w1 => 1 | .w2 => 2 | .w4 => 4 | .w8 => 8

/-- SEND (R292): a destination outside the grid traps BOUNDS; the release of .rel comes first, then room in the core's
outbound queue. -/
def opSend (st : State) (s : BitVec 2) (word : Word) (d c : XField) (l : LEntry) (w : MsgSize) (rel : Bool) :
    Host.Outcome State Fault Refusal :=
  issue st s 4 fun tid t => do
    match st.launchOf tid.tile with
    | none => .error .hold
    | some la =>
      let n := msgWords w
      checkRanges t word [(c, 1), (d, n)]
      checkEarly t (c :: rangeFields d n)
      checkHold t
      let dst ← needReg st t c.toNat
      let ws ← needRegs st t d.toNat n
      if !la.kernel.inGrid dst.toNat then .error (.trap .bounds dst)
      let st ← (if rel then fenceStep st tid t true .grid else .ok st)
      match st.tile? tid.tile with
      | none => .error .hold
      | some tl =>
        if 8 ≤ (tl.core (coreOf tid.thr)).outbound.length then .error (.off .outbound st)
        else
          let (id, st) := st.freshId
          let m : Message := ⟨BitVec.ofNat 32 tid.tile.num, dst, l.toNat, ws, tid.thr, id⟩
          .ok { st := (st.modCore tid.tile (coreOf tid.thr) fun co => { co with outbound := co.outbound ++ [m] }).present tid (.send dst l.toNat ws) }

/-- SEND. -/
def execSend (s : BitVec 2) (d c : XField) (l : LEntry) (w : MsgSize) (st : State) :=
  opSend st s (wordOf (.send s d c l w)) d c l w false
/-- SEND.rel. -/
def execSendRel (s : BitVec 2) (d c : XField) (l : LEntry) (w : MsgSize) (st : State) :=
  opSend st s (wordOf (.sendRel s d c l w)) d c l w true

/-- Makes registers d to d + n − 1 pending on the words of an entry, beginning with word i (R294). -/
def Thread.pendRange (t : Thread) (entry d : Nat) : Nat → Nat → Thread
  | _, 0 => t
  | i, n + 1 => Thread.pendRange (t.setReg (d + i) (.pending entry i .neutral false)) entry d (i + 1) n

/-- RECV (R294): one symbol for its words, and a place among the posted RECVs of its channel. -/
def opRecv (st : State) (s : BitVec 2) (word : Word) (d : XField) (l : LEntry) (w : MsgSize) (acq : Bool) :
    Host.Outcome State Fault Refusal :=
  issue st s 4 fun tid t => do
    let n := msgWords w
    checkRanges t word [(d, n)]
    checkHold t
    let entry ← symbolSlot st tid
    let (seq, st) := st.freshId
    let st := st.modThread tid fun th =>
      let th := th.pendRange entry d.toNat 0 n
      if acq then { th with acqHold := th.acqHold ++ [entry] } else th
    let st := (st.allocSymbol tid entry (.recv l.toNat seq)).modTile tid.tile fun tl =>
      { tl with recvs := tl.recvs ++ [⟨l.toNat, n, coreOf tid.thr, entry, none⟩] }
    .ok { st := (st.presentLoad tid).matchRecvs tid.tile }

/-- RECV. -/
def execRecv (s : BitVec 2) (d : XField) (l : LEntry) (w : MsgSize) (st : State) :=
  opRecv st s (wordOf (.recv s d l w)) d l w false
/-- RECV.acq. -/
def execRecvAcq (s : BitVec 2) (d : XField) (l : LEntry) (w : MsgSize) (st : State) :=
  opRecv st s (wordOf (.recvAcq s d l w)) d l w true

end Sys2Proof.Machine
end

