-- ==== Sys2Proof/Machine/Copy.lean ====
section
/-! DEFINITION. CPY and the copy queues (R115, R166, R296 to R298). -/

namespace Sys2Proof.Machine

/-- A bit field of a descriptor register. -/
def descField (w : Word) (lo n : Nat) : Nat := (w.extractLsb' lo n).toNat

/-- The fields of a copy descriptor (Table 10.3). -/
structure CopyBox where
  src : Nat
  dst : Nat
  so : List Nat
  d0 : List Nat
  n : List Nat
  num : Nat
  deriving DecidableEq, Repr

/-- Two registers' four halves, low first. -/
def halves (a b : Word) : List Nat := [descField a 0 16, descField a 16 16, descField b 0 16, descField b 16 16]

/-- Reads a descriptor (Table 10.3). -/
def copyBox (w : List Word) : CopyBox :=
  let r (i : Nat) : Word := w.getD i 0#32
  { src := descField (r 0) 0 6, dst := descField (r 0) 8 6, so := halves (r 1) (r 2), d0 := halves (r 3) (r 4)
    n := halves (r 5) (r 6), num := (r 7).toNat }

/-- The queue that a descriptor names. -/
def copyQueueOf (w : List Word) : Nat := descField (w.getD 0 0#32) 16 2

/-- The wider of two scopes (R297). -/
def widerScope (a b : Scope) : Scope :=
  let rank (s : Scope) : Nat := match s with
    | .tile => 0 | .gang => 1 | .grid => 2 | .device => 3 | .system => 4
  if rank a ≤ rank b then b else a

/-- CPY (R297): the release at the wider scope, a place in its queue, a symbol, and the queue. -/
def execCpy (s : BitVec 2) (d c : XField) (st : State) : Host.Outcome State Fault Refusal :=
  issue st s 4 fun tid t => do
    match st.launchOf tid.tile with
    | none => .error .hold
    | some la =>
      let word := wordOf (.cpy s d c)
      checkRanges t word [(c, 8), (d, 1)]
      checkEarly t (rangeFields c 8)
      checkHold t
      let ws ← needRegs st t c.toNat 8
      let b := copyBox ws
      let q := copyQueueOf ws
      let st ← fenceStep st tid t true (widerScope (la.kernel.entryOf b.src).scopeOf (la.kernel.entryOf b.dst).scopeOf)
      match st.tile? tid.tile with
      | none => .error .hold
      | some tl =>
        if 16 ≤ (tl.copyQ.getD q []).length then .error (.off (.copyQueue q) st)
        else
          let entry ← symbolSlot st tid
          let (id, st) := st.freshId
          let st := st.modThread tid fun th => th.setReg d.toNat (.pending entry 0 .neutral false)
          let cmd : CopyCmd := ⟨id, tid.thr, entry, ws, false, [], 0, none, none, false⟩
          .ok { st := ((st.allocSymbol tid entry .cpy).modTile tid.tile fun tl =>
                  { tl with copyQ := updPad [] tl.copyQ q fun l => l ++ [cmd] }).present tid (.copy ws) }

/-- The copy status of a location trap or a translation fault (R298). -/
def copyStatus (c : Cause) : Nat :=
  match c with
  | .bounds => 5
  | .translation => 3
  | _ => 2

/-- The coordinates of a box's element: index i with i0 innermost, from an origin. -/
def boxCoords : List Nat → List Nat → Nat → List Int
  | o :: os, n :: ns, i => ((o + i % (n + 1) : Nat) : Int) :: boxCoords os ns (i / (n + 1))
  | _, _, _ => []

/-- The corner offsets of a box, i0 fastest: corner j takes the last index of dimension d when bit d of j is set. -/
def cornerCoords : List Nat → List Nat → Nat → List Int
  | o :: os, n :: ns, j => ((if j % 2 = 1 then o + n else o : Nat) : Int) :: cornerCoords os ns (j / 2)
  | _, _, _ => []

/-- The first failing corner of a box (R298). -/
def cornerStatus (k : Kernel) (own thr kidx : Nat) (u : Use) (o n : List Nat) (num : Nat) : Option Nat :=
  ((List.range (2 ^ n.length)).findSome? fun j =>
    match resolveLoc k own thr false kidx u (cornerCoords o n j) num 0 with
    | .error (c, _) => some (copyStatus c)
    | .ok _ => none)

/-- The range space of a resolved byte (R110). -/
def rangeSpaceOf (st : State) (tile : TileId) (space num : Nat) : RangeSpace :=
  match space with
  | 1 => .scratch tile
  | 2 => .scratch (withNum tile num)
  | 4 => .rim
  | 5 => .host ((st.part tile.part).port)
  | _ => .weights tile

/-- Widens the range of a space by some bytes, or begins one. -/
def coverBytes : List Range → RangeSpace → Nat → Nat → Nat → List Range
  | [], s, lo, hi, z => [⟨s, lo, hi, z⟩]
  | r :: rs, s, lo, hi, z =>
    if r.space = s then { r with lo := min r.lo lo, hi := max r.hi hi } :: rs else r :: coverBytes rs s lo hi z

/-- The smallest contiguous ranges, one for each space, that cover the elements of an index sequence through an entry (R109). -/
def coverRanges (st : State) (k : Kernel) (tile : TileId) (thr kidx : Nat) (u : Use) (coords : Nat → List Int) (num total : Nat) : List Range :=
  let e := k.entryOf kidx
  (List.range total).foldl (fun rs i =>
    match resolveLoc k tile.num thr true kidx u (coords i) num 0 with
    | .ok (.byte n space off _) => coverBytes rs (rangeSpaceOf st tile space n) off (off + e.size - 1) e.swz
    | _ => rs) []

/-- The number of elements of a box of some rank. -/
def boxTotal (n : List Nat) : Nat := n.foldl (fun t x => t * (x + 1)) 1

/-- The checks of R298 at acceptance: the status of the first failed one, or the ranges to register, each with its direction. -/
def copyCheck (st : State) (tile : TileId) (k : Kernel) (thr : Nat) (w : List Word) : Except Nat (List (Range × Bool)) :=
  let b := copyBox w
  let x0 := w.getD 0 0#32
  let es := k.entryOf b.src
  let ed := k.entryOf b.dst
  let r := es.rank
  if x0 &&& 0xFFFCC0C0#32 ≠ 0#32 ∨ es.rank ≠ ed.rank ∨ es.elem ≠ ed.elem ∨
      (b.so.drop r ++ b.d0.drop r ++ b.n.drop r).any (· != 0) then .error 2
  else if es.space = 0 ∨ es.space = 6 ∨ es.space = 7 ∨ ed.space = 0 ∨ ed.space = 3 ∨ ed.space = 6 ∨ ed.space = 7 ∨
      !es.permits .read ∨ !ed.permits .write then .error 2
  else
    let n := b.n.take r
    match cornerStatus k tile.num thr b.src .read (b.so.take r) n b.num, cornerStatus k tile.num thr b.dst .write (b.d0.take r) n b.num with
    | some s, _ => .error s
    | none, some s => .error s
    | none, none =>
      let rs := coverRanges st k tile thr b.src .read (boxCoords (b.so.take r) n) b.num (boxTotal n)
      let ws := coverRanges st k tile thr b.dst .write (boxCoords (b.d0.take r) n) b.num (boxTotal n)
      if rs.any fun x => ws.any (rangesShare x) then .error 2
      else .ok (rs.map (·, false) ++ ws.map (·, true))

/-- Changes a copy command of a tile. -/
def Tile.modCopy (tl : Tile) (id : Nat) (f : CopyCmd → CopyCmd) : Tile :=
  { tl with copyQ := tl.copyQ.map fun q => q.map fun c => if c.id = id then f c else c }

/-- Registers a list of ranges for an engine (R109). -/
def State.registerAll (st : State) (tile : TileId) (engine : Engine) (rs : List (Range × Bool)) : List (TileId × Nat) × State :=
  rs.foldl (fun (acc : List (TileId × Nat) × State) r =>
    let (ids, st) := acc.2.register tile engine r.1 r.2
    (acc.1 ++ ids, st)) ([], st)

/-- The command that a queue accepts next (R297): its first one that is not accepted, once those before it have registered. -/
def State.acceptable (st : State) (q : List CopyCmd) : Option CopyCmd :=
  (q.find? fun c => !c.accepted).filter fun _ => (q.takeWhile (·.accepted)).all fun p => st.entered p.regs

/-- The command of a tile's queues that is accepted next (R113): of those that their queues may accept, the one whose issuer has the least
THRID. -/
def State.nextAccept (st : State) (tl : Tile) : Option CopyCmd :=
  (tl.copyQ.filterMap st.acceptable).foldl (fun best c => match best with
    | some b => if c.thr < b.thr then some c else some b
    | none => some c) none

/-- COPY_ACCEPT (R113, R297, R298): a queue accepts its next command once the one before it has registered, in the order of the issuers'
THRIDs among the queues that may accept. -/
def execCopyAccept (tile : TileId) (queue : Nat) (st : State) : Host.Outcome State Fault Refusal :=
  match st.tile? tile, st.launchOf tile with
  | some tl, some la =>
    match st.acceptable (tl.copyQ.getD queue []) with
    | none => .next st
    | some c =>
      if st.nextAccept tl = some c then
        match copyCheck st tile la.kernel c.thr c.desc with
        | .error s => .next (st.modTile tile (·.modCopy c.id fun c => { c with accepted := true, ended := some s }))
        | .ok rs =>
          let (ids, st) := st.registerAll tile (.copy tile c.id) rs
          .next (st.modTile tile (·.modCopy c.id fun c => { c with accepted := true, regs := ids }))
      else .next st
  | _, _ => .next st

/-- Whether a copy has processed its whole box. -/
def CopyCmd.doneBox (c : CopyCmd) (k : Kernel) : Bool :=
  let b := copyBox c.desc
  decide (boxTotal (b.n.take (k.entryOf b.src).rank) ≤ c.pos) && c.held.isNone

/-- The thread of an engine's command, and the record number that its issue precedes. -/
def State.engineIssuer (st : State) (engine : Engine) : Option (ThreadId × Nat) :=
  match engine with
  | .copy tile n => match st.tile? tile with
    | some tl => (tl.copyQ.flatten.find? (·.id = n)).map fun c => (⟨tile, c.thr⟩, n)
    | none => none
  | .stream t m => match (st.thread? t).bind (·.stream? m) with
    | some b => b.regs.head?.map fun r => (t, r.2)
    | none => none
  | .plane tile n => match st.tile? tile with
    | some tl => ((tl.cores.flatMap (·.mcmds)).find? (·.id = n)).map fun c => (⟨tile, c.thr⟩, n)
    | none => none
  | .reload _ _ => none
  | .quay _ => none

/-- Whether a release puts an unperformed access before an engine's access to a place: one of the command's own thread, issued before
the command (R95, R115), or one of its tile to the same location (R103). -/
def State.fencedAhead (st : State) (own : TileId) (engine : Engine) (p : Place) (size : Nat) : Bool :=
  st.accesses.any fun a => a.fenced && a.agent.tile == own &&
    ((!p.isPeer own && sameLocation a.place a.size p size) ||
      match st.engineIssuer engine with
      | some (t, n) => a.agent.thread? == some t && decide (a.id < n)
      | none => false)

/-- Whether an access of an engine is moored for a tile (R21, R298). -/
def State.elementMoored (st : State) (tile : TileId) (engine : Engine) : Bool :=
  (st.launchOf tile).any fun l => l.moored.any fun m => m.item.payload == .element engine

/-- Whether two tiles are of one gang. A save completes the copies, streams and loads of a gang (R454 step 2), so that they reach its own
tiles until it ends (log entry 42). -/
def State.gangMates (st : State) (a b : TileId) : Bool :=
  a == b || (a.part == b.part && a.slot == b.slot && (st.launchOf a).any fun l => l.kernel.gangOf a.num == l.kernel.gangOf b.num)

/-- Whether an engine may touch a place now: no release puts an access before it, its owner is resident and holds no moored access of
it (R21), no registration of another command conflicts in a peer owner's table (R112), and a weight read meets no open refresh
window (R78). -/
def engineReady (st : State) (own : TileId) (engine : Engine) (p : Place) (size : Nat) (write : Bool) : Bool :=
  !st.fencedAhead own engine p size &&
  match p with
  | .scratch t _ =>
    (match st.tile? t with
      | some tl => tl.berth.isSome && (st.gangState t != .saving || st.gangMates own t) && !st.elementMoored t engine &&
          (t == own || tl.rlt.all fun e => match e with
            | some r => r.engine == engine || !((write || r.write) && rangeHits r.range p size)
            | none => true)
      | none => false)
  | .weights t _ =>
    (match (st.tile? t).bind (·.berth) with
      | some b => !refreshTime st b
      | none => false)
  | _ => true

/-- The access of an engine to the scratchpad of a tile whose gang is not resident is moored (R21, R298, R300), which raises a tile
fault; the engine waits until it is delivered. -/
def State.moorElement (st : State) (own : TileId) (engine : Engine) (p : Place) : State :=
  match p with
  | .scratch t _ =>
    if st.gangState t = .resident ∨ st.gangMates own t ∨ st.elementMoored t engine then st
    else
      let source := ((st.tile? own).bind (·.berth)).getD 0
      let (id, st) := st.freshId
      (st.moor ⟨id, own, t, .element engine, source, source, false⟩ source).tileFault t source
  | _ => st

/-- Whether the host refuses an engine's access (R81). -/
def Place.refused (p : Place) (ecc : Ecc) : Bool :=
  match p with
  | .host _ _ => ecc == .refused
  | _ => false

/-- One half of a copy's next element (R298): its read, and then its write. -/
def State.copyStep (st : State) (tile : TileId) (k : Kernel) (c : CopyCmd) (ecc : Ecc) : State :=
  let b := copyBox c.desc
  let r := (k.entryOf b.src).rank
  let n := b.n.take r
  let set (st : State) (f : CopyCmd → CopyCmd) : State := st.modTile tile (·.modCopy c.id f)
  match c.held with
  | none =>
    let e := k.entryOf b.src
    match resolveLoc k tile.num c.thr false b.src .read (boxCoords (b.so.take r) n c.pos) b.num 0 with
    | .error (cause, _) => set st fun c => { c with ended := some (copyStatus cause) }
    | .ok .discard => set st fun c => { c with held := some 0#32 }
    | .ok (.byte num space off code) =>
      match enginePlace st tile e num space off true false with
      | .error cause => set st fun c => { c with ended := some (copyStatus cause) }
      | .ok (p, st) =>
        if !engineReady st tile (.copy tile c.id) p e.size false then st.moorElement tile (.copy tile c.id) p
        else if p.refused ecc then set st fun c => { c with ended := some 2 }
        else if st.eccAt p e.size ecc = .bad then set st fun c => { c with ended := some 4 }
        else
          let v := readElem st.mem e p code
          set st fun c => { c with held := some v }
  | some v =>
    let e := k.entryOf b.dst
    match resolveLoc k tile.num c.thr false b.dst .write (boxCoords (b.d0.take r) n c.pos) b.num 0 with
    | .error (cause, _) => set st fun c => { c with held := none, ended := some (copyStatus cause) }
    | .ok .discard => set st fun c => { c with held := none, pos := c.pos + 1 }
    | .ok (.byte num space off code) =>
      match enginePlace st tile e num space off false true with
      | .error cause => set st fun c => { c with held := none, ended := some (copyStatus cause) }
      | .ok (p, st) =>
        if !engineReady st tile (.copy tile c.id) p e.size true then st.moorElement tile (.copy tile c.id) p
        else if p.refused ecc then set st fun c => { c with held := none, ended := some 2 }
        else set ({ st with mem := writeElem st.mem e p code v }.wrote p e.size) fun c => { c with held := none, pos := c.pos + 1 }

/-- The status word of a copy (Table 5.5). -/
def copyWord (status count : Nat) : Word := BitVec.ofNat 32 (status * 2 ^ 28 + min count 0xFFFFFF)

/-- The first command of a queue that ends now, with its status and count: one that met an error, the running one when its
box is done, and a cancelled one that is not running. -/
def endingCopy (st : State) (k : Kernel) : Bool → List CopyCmd → Option (CopyCmd × Nat × Nat)
  | _, [] => none
  | first, c :: cs =>
    let running := first && c.accepted && st.entered c.regs
    match c.ended with
    | some s => some (c, if c.cancelled then 1 else s, c.pos)
    | none =>
      if running && c.doneBox k then some (c, if c.cancelled then 1 else 0, c.pos)
      else if c.cancelled && !running then some (c, 1, 0)
      else endingCopy st k false cs

/-- COPY_COMPLETE (R115, R298): a copy of a queue ends; its ranges are released, and then its token resolves. -/
def execCopyComplete (tile : TileId) (queue : Nat) (st : State) : Host.Outcome State Fault Refusal :=
  match st.tile? tile, st.launchOf tile with
  | some tl, some la =>
    match endingCopy st la.kernel true (tl.copyQ.getD queue []) with
    | none => .next st
    | some (c, status, count) =>
      let st := st.release c.regs
      let st := st.modTile tile fun tl => { tl with copyQ := updPad [] tl.copyQ queue fun q => q.filter (·.id ≠ c.id) }
      .next ((st.fillSymbol tile (coreOf c.thr) c.entry [copyWord status count] fNone false).settleAwaited c.id)
  | _, _ => .next st

end Sys2Proof.Machine
end

