-- ==== Sys2Proof/Machine/Streams.lean ====
section
/-! DEFINITION. SBIND, SCTL and the stream units (R94, R169 to R174, R299 to R301). -/

namespace Sys2Proof.Machine

/-- A signed half of a register. -/
def signedHalf (w : Word) (hi : Bool) : Int := (w.extractLsb' (if hi then 16 else 0) 16).toInt

/-- The pattern block of SBIND (Table 10.4), without its registrations; the entry has rank n. -/
def patternOf (write : Bool) (k n : Nat) (w : List Word) : Stream :=
  let r (i : Nat) : Word := w.getD i 0#32
  { write := write, entry := k
    origin := ((List.range 4).map fun i => (r i).toInt).take n
    steps := (List.range 3).map fun l =>
      [signedHalf (r (4 + 2 * l)) false, signedHalf (r (4 + 2 * l)) true, signedHalf (r (5 + 2 * l)) false, signedHalf (r (5 + 2 * l)) true].take n
    counts := [descField (r 10) 0 16 + 1, descField (r 10) 16 16 + 1, descField (r 11) 0 16 + 1]
    tileNum := r 12, pos := 0, fetched := 0, queue := [], regs := [] }

/-- Corner j of a pattern: loop l stands at its last index when bit l of j is set. -/
def Stream.corner (s : Stream) (j : Nat) : List Int :=
  s.coords (((s.counts.getD 0 1 - 1) * (j % 2)) + s.counts.getD 0 1 * (((s.counts.getD 1 1 - 1) * (j / 2 % 2)) +
    s.counts.getD 1 1 * ((s.counts.getD 2 1 - 1) * (j / 4 % 2))))

/-- The Distribute checks of R173 at one corner of a space 2 entry. -/
def sbindDistribute (k : Kernel) (e : Entry) (tileNum : Nat) (g : List Int) : Option Cause :=
  let b := k.dist.getD e.dist 0
  let mode := entryField b 126 2
  if mode = 1 then
    let ex := entryField b 93 1 = 1
    let ey := entryField b 90 1 = 1
    let dx := entryField b 94 2
    let dy := entryField b 91 2
    if (ex ∧ e.rank ≤ dx) ∨ (ey ∧ e.rank ≤ dy) then some .access
    else if (ex ∧ g.getD dx 0 < 0) ∨ (ey ∧ g.getD dy 0 < 0) then some .bounds
    else none
  else if mode = 2 then none
  else if k.inGrid tileNum then none else some .bounds

/-- Whether an entry is block-cyclic (R173). -/
def Kernel.blockCyclic (k : Kernel) (e : Entry) : Bool := e.space == 2 && entryField (k.dist.getD e.dist 0) 126 2 == 1

/-- Whether coordinates lie outside an entry's extents. -/
def Entry.outside (e : Entry) (g : List Int) : Bool := (g.zip e.ext).any fun p => decide (p.1 < 0) || decide ((p.2 : Int) < p.1)

/-- The first rim corner that does not translate (R300), as a stop with its virtual address and FINFO. -/
def sbindTranslate (st : State) (tid : ThreadId) (k : Kernel) (s : Stream) (tval : Word) (priv : Bool) : Option Stop :=
  (List.range 8).findSome? fun j =>
    match resolveLoc k tid.tile.num tid.thr priv s.entry (if s.write then .write else .read) (s.corner j) s.tileNum.toNat 0 with
    | .ok (.byte _ 4 off _) =>
      match translateNow st tid.tile off (!s.write) s.write with
      | .ok _ => none
      | .error c =>
        let (va, info) := failInfo st tid.tile off s.entry (!s.write) s.write
        some (.fault c tval va info)
    | _ => none

/-- The checks of R300 in order. -/
def sbindCheck (st : State) (tid : ThreadId) (t : Thread) (k : Kernel) (m : Nat) (s : Stream) : Option Stop :=
  let e := k.entryOf s.entry
  let tv := streamTval m s.entry
  if (t.stream? m).isSome then some (.trap .access tv)
  else if e.space = 0 ∨ e.space = 6 ∨ e.space = 7 ∨ (s.write ∧ e.space = 3) ∨ !e.permits (if s.write then .write else .read) then
    some (.trap .access tv)
  else
    let dist := if e.space = 2 then (List.range 8).findSome? fun j => sbindDistribute k e s.tileNum.toNat (s.corner j) else none
    match dist with
    | some c => some (.trap c tv)
    | none =>
      if (e.bnd = 0 ∨ e.bnd = 3) ∧ !k.blockCyclic e ∧ (List.range 8).any fun j => e.outside (s.corner j) then some (.trap .bounds tv)
      else sbindTranslate st tid k s tv t.priv

/-- SBIND (R299, R300): binds a stream and registers its range. -/
def opSbind (st : State) (s : BitVec 2) (word : Word) (m : BitVec 3) (c : XField) (l : LEntry) (write : Bool) :
    Host.Outcome State Fault Refusal :=
  issue st s 4 fun tid t => do
    match st.launchOf tid.tile with
    | none => .error .hold
    | some la =>
      let k := la.kernel
      let e := k.entryOf l.toNat
      let w := if e.space = 2 ∧ entryField (k.dist.getD e.dist 0) 126 2 = 0 then 13 else 12
      checkRanges t word [(c, w)]
      checkEarly t (rangeFields c w)
      checkHold t
      let ws ← needRegs st t c.toNat w
      let str := patternOf write l.toNat e.rank ws
      match sbindCheck st tid t k m.toNat str with
      | some stop => .error stop
      | none =>
        let rs := coverRanges st k tid.tile tid.thr l.toNat (if write then .write else .read) str.coords str.tileNum.toNat str.length
        let (ids, st) := st.registerAll tid.tile (.stream tid m.toNat) (rs.map (·, write))
        .ok { st := st.modThread tid fun th => th.setStream m.toNat (some { str with regs := ids }) }

/-- SBIND.r. -/
def execSbindR (s : BitVec 2) (m : BitVec 3) (c : XField) (l : LEntry) (st : State) :=
  opSbind st s (wordOf (.sbindR s m c l)) m c l false
/-- SBIND.w. -/
def execSbindW (s : BitVec 2) (m : BitVec 3) (c : XField) (l : LEntry) (st : State) :=
  opSbind st s (wordOf (.sbindW s m c l)) m c l true

/-- Ends a binding (R301): its registration is released. -/
def State.unbind (st : State) (tid : ThreadId) (m : Nat) : State :=
  match (st.thread? tid).bind (·.stream? m) with
  | none => st
  | some b => (st.release b.regs).modThread tid fun th => th.setStream m none

/-- Whether a stream's pushed elements have all been performed. -/
def Thread.streamDrained (t : Thread) (m : Nat) : Bool :=
  match t.stream? m with
  | some b => !b.write || b.queue.isEmpty
  | none => true

/-- SCTL.unbind (R301): parked until a write stream's elements are performed. -/
def execSctlUnbind (s : BitVec 2) (m : BitVec 3) (st : State) : Host.Outcome State Fault Refusal :=
  issue st s 4 fun tid t =>
    if t.streamDrained m.toNat then .ok { st := st.unbind tid m.toNat } else .error (.off (.streamDrain m.toNat) st)

/-- SCTL.pos (R174, R301). -/
def execSctlPos (s : BitVec 2) (d : XField) (m : BitVec 3) (st : State) : Host.Outcome State Fault Refusal :=
  issue st s 4 fun tid t => do
    generalChecks t [] [d]
    let v : Word := match t.stream? m.toNat with
      | some b => BitVec.ofNat 32 b.pos
      | none => 0xFFFFFFFF#32
    let t ← writeField st t d (.ready v)
    .ok { st := st.setThread tid t }

/-- Whether an unperformed access of a thread itself shares a location with an element and orders it (R93 item 1): a peer access that
waits at its owner for the stream's own registration (R112) does not. -/
def threadOverlaps (st : State) (tid : ThreadId) (p : Place) (size : Nat) (write : Bool) : Bool :=
  st.accesses.any fun a =>
    (a.agent.thread? == some tid) && (write || a.kind.writes) && sameLocation a.place a.size p size &&
      match a.place with
      | .scratch t _ => t == tid.tile || match st.tile? t with
        | some tl => !ownerBlocks tl t a
        | none => true
      | _ => true

/-- The fetch of a read stream's next element: a held fault, a discarded element, or the element's word; an earlier buffered
store of the thread to its bytes drains first, and any other unperformed one is waited for. -/
def State.fetchElement (st : State) (tid : ThreadId) (m : Nat) (ecc : Ecc) : State :=
  match st.thread? tid, st.launchOf tid.tile with
  | some t, some la =>
    match t.stream? m with
    | none => st
    | some b =>
      let add (st : State) (e : Elem) : State := st.modThread tid fun th =>
        th.setStream m (some { b with queue := b.queue ++ [e], fetched := b.fetched + 1 })
      match streamTarget st tid t.priv b b.fetched with
      | .error c => add st (.fault c)
      | .ok (none, st) => add st (.word 0#32)
      | .ok (some (p, code), st) =>
        let e := la.kernel.entryOf b.entry
        if !engineReady st tid.tile (.stream tid m) p e.size false then st.moorElement tid.tile (.stream tid m) p
        else if threadOverlaps st tid p e.size false then st.drain tid
        else if p.refused ecc then add st (.fault .access)
        else (add st (if st.eccAt p e.size ecc = .bad then .bad else .word (readElem st.mem e p code))).touch tid p
  | _, _ => st

/-- Whether a read stream's access half may fetch its next element (R172, R173, R300). -/
def Stream.mayFetch (b : Stream) : Bool :=
  !b.write && decide (b.fetched < b.length) && decide (b.queue.length < 16) &&
    b.queue.all fun e => match e with
      | .word _ => true
      | _ => false

/-- STREAM_FETCH (R94, R172): the access half fetches one element ahead. -/
def execStreamFetch (t : ThreadId) (stream : Nat) (ecc : Ecc) (st : State) : Host.Outcome State Fault Refusal :=
  match (st.thread? t).bind (·.stream? stream) with
  | none => .next st
  | some b => if b.mayFetch && st.entered b.regs then .next (st.fetchElement t stream ecc) else .next st

/-- STREAM_DRAIN (R94, R172): the access half performs the oldest pushed element, which a host may refuse (R81); the registration ends with the last one. -/
def execStreamDrain (t : ThreadId) (stream : Nat) (ecc : Ecc) (st : State) : Host.Outcome State Fault Refusal :=
  match (st.thread? t).bind (·.stream? stream), st.launchOf t.tile with
  | some b, some la =>
    match b.write, b.queue with
    | true, .store w target :: rest =>
      if !st.entered b.regs then .next st
      else
        let spent := rest.isEmpty && decide (b.length ≤ b.pos)
        let pop (st : State) : State :=
          let st := st.modThread t fun th => th.setStream stream (some { b with queue := rest, regs := if spent then [] else b.regs })
          if spent then st.release b.regs else st
        match target with
        | none => .next (pop st)
        | some (p, code) =>
          let e := la.kernel.entryOf b.entry
          if !engineReady st t.tile (.stream t stream) p e.size true then .next (st.moorElement t.tile (.stream t stream) p)
          else if threadOverlaps st t p e.size true then .next (st.drain t)
          else .next (((pop ({ st with mem := if p.refused ecc then st.mem else writeElem st.mem e p code w }.wrote p e.size)).touch t p).present t (.access .store p e.size (some w)))
    | _, _ => .next st
  | _, _ => .next st

end Sys2Proof.Machine
end

