-- ==== Sys2Proof/Machine/Sync.lean ====
section
/-! DEFINITION. Barriers and RLWAIT (R302 to R304), and the release of a grid barrier (R208). -/

namespace Sys2Proof.Machine

/-- The participants of a barrier instance become ready in one tile cycle (R302), in ascending THRID. -/
def State.wakeAll (st : State) (tile : TileId) (ts : List Nat) : State :=
  ((List.range 512).filter ts.contains).foldl (fun st n => st.dealThread ⟨tile, n⟩) st

/-- One arrival at a barrier instance (R302): the new instance, and the threads it releases. -/
def arriveAt (bar : Option Barrier) (count thr : Nat) : Option Barrier × List Nat :=
  let before := match bar with
    | some b => b.arrived
    | none => []
  if before.length + 1 = count then (none, before ++ [thr]) else (some ⟨count, before ++ [thr]⟩, [])

/-- BAR.core and BAR.tile (R302): the count is checked, then the full fence of tile scope, then the arrival. -/
def opBar (st : State) (s : BitVec 2) (a : XField) (limit : Nat) (get : TileId → Nat → Option Barrier)
    (set : State → TileId → Nat → Option Barrier → State) (why : Why) : Host.Outcome State Fault Refusal :=
  issue st s 4 fun tid t => do
    generalChecks t [a] []
    let (n, t') ← needField st t a
    let c := coreOf tid.thr
    if n.toNat < 1 ∨ limit < n.toNat then .error (.trap .bounds n)
    match get tid.tile c with
    | some b => if b.count ≠ n.toNat then .error (.trap .bounds n)
    | none => pure ()
    let st ← fenceStep st tid t true .tile
    let st := st.modThread tid fun th => { th with streams := t'.streams }
    let (bar, released) := arriveAt (get tid.tile c) n.toNat tid.thr
    let st := set st tid.tile c bar
    if n = 1#32 then .ok { st := st }
    else .ok { st := (st.goOff tid why).wakeAll tid.tile released }

/-- BAR.core. -/
def execBarCore (s : BitVec 2) (a : XField) (st : State) : Host.Outcome State Fault Refusal :=
  opBar st s a 64 (fun t c => (st.tile? t).bind fun tl => (tl.core c).bar)
    (fun st t c b => st.modCore t c fun co => { co with bar := b }) .barCore

/-- BAR.tile. -/
def execBarTile (s : BitVec 2) (a : XField) (st : State) : Host.Outcome State Fault Refusal :=
  opBar st s a 511 (fun t _ => (st.tile? t).bind (·.barTile))
    (fun st t _ b => st.modTile t fun tl => { tl with barTile := b }) .barTile

/-- BAR.grid (R303): the full fence of grid scope, the arrival, and the park. A second arrival of a tile in one generation
counts towards the next. -/
def execBarGrid (s : BitVec 2) (st : State) : Host.Outcome State Fault Refusal :=
  issue st s 4 fun tid t => do
    let st ← fenceStep st tid t true .grid
    match st.launchOf tid.tile with
    | none => .error .hold
    | some l =>
      let num := tid.tile.num
      let second := l.arrived.contains num
      let st := st.modLaunch tid.tile.part tid.tile.slot fun l =>
        if second then { l with arrivedNext := l.arrivedNext ++ [num] } else { l with arrived := l.arrived ++ [num] }
      .ok { st := (st.goOff tid (.barGrid (if second then l.gen + 1 else l.gen))).settleBarrier tid.tile.part tid.tile.slot }

/-- The global time from which a field's offset counts (R208): that of the completion of the generation at which a thread is parked, or
of its gang's start; none for any other thread. -/
def Thread.releaseFrom (t : Thread) (l : Launch) : Option Int :=
  match t.status with
  | .off (.barGrid g) _ => if g < l.gen then some l.genTime else none
  | .off (.start at') _ => some at'
  | _ => none

/-- Whether a thread waits only for its field's offset. -/
def Thread.barReleased (t : Thread) (l : Launch) : Bool := (t.releaseFrom l).isSome

/-- Whether a thread of a field is due (R208, R503): 4 ns for each step of the field's code have passed. -/
def State.releaseDue (st : State) (l : Launch) (field : Nat) (t : Thread) : Bool :=
  (t.releaseFrom l).any fun x => decide (x + 4 * ((st.field field).code : Int) ≤ st.now)

/-- FIELD_OFFSET_RELEASE (R208, R303): after its field's offset, the threads of one field that are parked at a completed generation
become ready, and its root threads start. -/
def execFieldOffsetRelease (part slot field : Nat) (st : State) : Host.Outcome State Fault Refusal :=
  match st.launches.get? (part, slot) with
  | none => .next st
  | some l =>
    .next ((st.tilesOf part slot).foldl (fun (acc : State) e =>
      match e.2.berth with
      | none => acc
      | some b =>
        if fieldOf b = field ∧ acc.gangState e.1 = .resident then
          acc.wakeAll e.1 ((e.2.threads.filter fun th => st.releaseDue l field th.2).map (·.1))
        else acc) st)

/-- The registration that an entry of a tile's range-lock table holds. -/
def Tile.lockEntry (tl : Tile) (n : Nat) : Option Registration := tl.rlt.getD n none

/-- RLWAIT (R304): parked until the registration that the entry holds at issue is released. -/
def execRlwait (s : BitVec 2) (a : XField) (st : State) : Host.Outcome State Fault Refusal :=
  issue st s 4 fun tid t => do
    generalChecks t [a] []
    let (n, t) ← needField st t a
    let st := st.setThread tid t
    match (st.tile? tid.tile).bind (·.lockEntry (n.toNat % 32)) with
    | none => .ok { st := st }
    | some r => .ok { st := st.goOff tid (.rlwait r.id) }

end Sys2Proof.Machine
end

