-- ==== Sys2Proof/Machine/Perform.lean ====
section
/-! DEFINITION. The performance of one access of a thread, or of one element of a copy (R72, R78, R87, R112, R463, R476). -/

namespace Sys2Proof.Machine

/-- Whether a place lets an access be performed now: its owner is resident, a weight read meets no open refresh window, and no
registration of the owner's table conflicts with a peer access (R78, R112). -/
def ownerReady (st : State) (a : Access) : Bool :=
  match a.place with
  | .scratch t _ =>
    (match st.tile? t with
      | some tl => tl.berth.isSome && (!a.place.isPeer a.agent.tile || !ownerBlocks tl t a)
      | none => false)
  | .weights t _ =>
    (match (st.tile? t).bind (·.berth) with
      | some b => !refreshTime st b
      | none => false)
  | _ => true

/-- The tile whose berth's error counters an error of a place reaches: none for the rim and the host. -/
def Place.eccTile : Place → Option TileId
  | .scratch t _ => some t
  | .weights t _ => some t
  | _ => none

/-- Whether an access may be performed now. -/
def State.mayPerform (st : State) (a : Access) : Bool := performable st.accesses a.id && ownerReady st a

/-- The running copy with an identifier, and its tile. -/
def State.findCopy (st : State) (id : Nat) : Option (TileId × CopyCmd) :=
  st.tiles.findSome? fun e => e.2.copyQ.findSome? fun q =>
    match q.head? with
    | some c => if c.id = id ∧ c.accepted ∧ c.ended.isNone ∧ st.entered c.regs then some (e.1, c) else none
    | none => none

/-- ACCESS_PERFORMED (R87): one access is performed at its visibility point, or one half of a running copy's next element. -/
def execAccessPerformed (access : Nat) (ecc : Ecc) (st : State) : Host.Outcome State Fault Refusal :=
  match st.accesses.find? (·.id = access) with
  | some a =>
    if st.mayPerform a then
      let st' := match a.place.eccTile with
        | some t => st.countEcc t ecc
        | none => st
      let st' := (st'.perform a (st.eccAt a.place a.size ecc)).resultFault a.agent.tile
      .next (st'.settleLaunch a.agent.tile.part a.agent.tile.slot)
    else .next st
  | none =>
    match st.findCopy access with
    | some (tile, c) =>
      match st.launchOf tile with
      | some la => if c.doneBox la.kernel then .next st else .next (st.copyStep tile la.kernel c ecc)
      | none => .next st
    | none => .next st

end Sys2Proof.Machine
end

