-- ==== Sys2Proof/Machine/Hints.lean ====
section
/-! DEFINITION. The hint words (R247, R248). -/

namespace Sys2Proof.Machine

/-- What a hint does beyond its copy, with X[a] and X[b]. -/
abbrev HintAction := State → ThreadId → Thread → RegState → Word → State

/-- A hint word (R247): it never traps, blocks, pops or pushes; the copy is of the whole register state, and an assigned
action, which reads X[b] after the copy, runs when X[b] is ready and b lies below the allocation. In W1 mode an undelivered result that it
reads holds the thread (R251). -/
def opHint (st : State) (s : BitVec 2) (d a b : XField) (action : Option HintAction) : Host.Outcome State Fault Refusal :=
  issue st s 4 fun tid t =>
    if t.alloc ≤ d.toNat ∨ t.alloc ≤ a.toNat then .ok { st := st }
    else if t.mode = .w1 ∧ t.isEarly a.toNat then .error .hold
    else
      let v := t.reg a.toNat
      let t' := t.setReg d.toNat v
      let st' := st.setThread tid t'
      match action with
      | none => .ok { st := st' }
      | some f =>
        if t.alloc ≤ b.toNat then .ok { st := st' }
        else if t.mode = .w1 ∧ t'.isEarly b.toNat then .error .hold
        else match t'.reg b.toNat with
          | .ready w => .ok { st := f st' tid t v w }
          | _ => .ok { st := st' }

/-- PREF's action (Table 8.10): the translation of the page of a rim element goes into the TLBs, and no fault is reported. The spec drops
the action for a pending X[b] and says nothing of a pending X[a]; the model drops it for that too (log entry 56). -/
def prefAction : HintAction := fun st tid t v w =>
  match v, st.launchOf tid.tile with
  | .ready x, some la =>
    let k := w.toNat % 64
    let e := la.kernel.entryOf k
    if e.space ≠ 4 then st
    else match resolveLoc la.kernel tid.tile.num tid.thr t.priv k (if e.permits .read then .read else .write)
        (rowMajor (e.ext.take e.rank) x.toNat) 0 0 with
      | .ok (.byte _ _ off _) =>
        (match translateNow st tid.tile off false false with
          | .ok (_, st') => st'
          | .error _ => st)
      | _ => st
  | _, _ => st

/-- TCLASS's action (Table 8.10): records the gang's preferred column class. -/
def tclassAction : HintAction := fun st tid _ _ w =>
  match st.launchOf tid.tile with
  | none => st
  | some la =>
    let c := w.toNat % 4
    st.modGang tid.tile.part tid.tile.slot (la.kernel.gangOf tid.tile.num) fun g =>
      { g with cls := if c = 0 then none else some (c - 1) }

/-- PREF. -/
def execPref (s : BitVec 2) (d a b : XField) (st : State) := opHint st s d a b (some prefAction)
/-- TCLASS. -/
def execTclass (s : BitVec 2) (d a b : XField) (st : State) := opHint st s d a b (some tclassAction)
/-- BRHINT: the fetch that begins changes no state that the spec names. -/
def execBrhint (s : BitVec 2) (d a b : XField) (st : State) := opHint st s d a b (some fun st _ _ _ _ => st)
/-- Every other hint word: the fall-back alone. -/
def execHintFallback (s : BitVec 2) (d a b : XField) (_f : BitVec 3) (_hi : Bool) (st : State) := opHint st s d a b none

end Sys2Proof.Machine
end

