-- ==== Sys2Proof/Machine/Threads.lean ====
section
/-! DEFINITION. The creation of threads, dispatch, arrival of migrants, and the load leveller (R25 to R29, R38 to R46). -/

namespace Sys2Proof.Machine

/-! ## Work packets (Table 1.3) -/

/-- A word of a packet. -/
def packetWord (p : Packet) (i : Nat) : Word := p.getD i 0#32
/-- The allocation that a REGS code names (Table 1.3). -/
def regsOf (w : Word) : Nat := (descField w 24 4 + 1) * 8
/-- PIN. -/
def packetPinned (p : Packet) : Bool := (packetWord p 7).getLsbD 16
/-- PAIRED. -/
def packetPaired (p : Packet) : Bool := (packetWord p 7).getLsbD 18
/-- Whether a packet's reserved bits are all zero (R37). -/
def packetClean (p : Packet) : Bool :=
  (packetWord p 7 &&& 0xF0F8FFFF#32) == 0#32 && (List.range 5).all fun i => packetWord p (11 + i) == 0#32
/-- The task that a packet starts. -/
def packetTask (p : Packet) : Task := ⟨packetWord p 9 ++ packetWord p 8, packetWord p 10⟩

/-! ## Creation (R26 to R29) -/

/-- The program slots of a core: 64, and 63 for core 7 (R25). -/
def programSlots (core : Nat) : Nat := if core = 7 then 63 else 64

/-- The lowest free program slot of a core, as a THRID. -/
def Tile.freeSlot (tl : Tile) (core : Nat) : Option Nat :=
  ((List.range (programSlots core)).map (core * 64 + ·)).find? fun n => (tl.threads.get? n).isNone

/-- The number of free program slots of a core. -/
def Tile.freeSlots (tl : Tile) (core : Nat) : Nat :=
  (((List.range (programSlots core)).map (core * 64 + ·)).filter fun n => (tl.threads.get? n).isNone).length

/-- Whether a range of a core's 2,048 registers is free. -/
def Tile.rangeFree (tl : Tile) (core base n : Nat) : Bool :=
  decide (base + n ≤ 2048) && tl.threads.all fun e =>
    coreOf e.1 != core || decide (base + n ≤ e.2.base) || decide (e.2.base + e.2.alloc ≤ base)

/-- The lowest base of a free range of n registers of a core, in steps of 8 (R27). -/
def Tile.freeBase (tl : Tile) (core n : Nat) : Option Nat :=
  ((List.range 256).map (· * 8)).find? fun b => tl.rangeFree core b n

/-- Whether a core has a free slot and a free range (R27). -/
def Tile.canTake (tl : Tile) (n core : Nat) : Bool := (tl.freeSlot core).isSome && (tl.freeBase core n).isSome

/-- The core that R39 chooses for an allocation: one that can take it, with the most free program slots, the lowest on equal
counts. -/
def Tile.chooseCore (tl : Tile) (n : Nat) : Option Nat :=
  ((List.range 8).filter (tl.canTake n)).foldl (fun best c =>
    match best with
    | none => some c
    | some b => if tl.freeSlots b < tl.freeSlots c then some c else some b) none

/-- A thread as it is created (R29): its registers ready and zero. -/
def Thread.fresh (pc : Word) (alloc base : Nat) (mode : DMode) : Thread :=
  { pc := pc, alloc := alloc, base := base, regs := List.replicate alloc (.ready 0#32), preds := 0, inflight := [], fflags := fNone
    fmt := 0, scp := 0, step := false, migok := false, fold := false, sbchk := false, tcause := 0, tepc := 0, tval := 0, tstat := 0
    fva := 0, finfo := 0, fwTrap := none, mls := 0, coefs := List.replicate 8 0#32, accGroup := none, member := false, matMark := false, matCmd := none
    touch := 0, peerOut := [], lines := [], fence := none, w1Done := false, acqHold := [], loops := [], stall := 0, lastIssue := 0
    notBefore := 0, status := .fresh, streams := List.replicate 8 none, claim := none, follow := none, task := none, parent := none
    mode := mode, priv := false, kill := false, rerun := false, bubble := false, await := [], paired := none, poisons := [], walking := none, walkFault := none, symSince := none }

/-- Sets registers from a number on. -/
def Thread.setRegs (t : Thread) (d : Nat) : List Word → Thread
  | [] => t
  | w :: ws => Thread.setRegs (t.setX d w) (d + 1) ws

/-- The registers that every creation but a migrant's sets (R29, R76): x1 the stack extent, x2 the exit address, x4 to x7 the
arguments. -/
def Thread.withArgs (t : Thread) (k : Kernel) (args : List Word) : Thread :=
  ((t.setX 1 (BitVec.ofNat 32 ((k.entryOf 0).ext.getD 0 0 + 1))).setX 2 k.exit).setRegs 4 (args.take 4)

/-- Adds a thread to a core of a tile (R26, R27): the lowest free slot and base. The answer is its THRID. -/
def State.addThread (st : State) (tile : TileId) (core alloc : Nat) (mk : Nat → Thread) : Option (Nat × State) :=
  match st.tile? tile with
  | none => none
  | some tl =>
    match tl.freeSlot core, tl.freeBase core alloc with
    | some thr, some base => some (thr, st.modTile tile fun tl => { tl with threads := tl.threads.set thr (mk base), twins := tl.twins.erase thr })
    | _, _ => none

/-- Creates a thread on a core of a tile: it is ready and dealt (R32). -/
def State.createOn (st : State) (tile : TileId) (core alloc : Nat) (mk : Nat → Thread) : Option (Nat × State) :=
  (st.addThread tile core alloc mk).map fun r => (r.1, r.2.dealThread ⟨tile, r.1⟩)

/-- The packet of a task that a checked pair runs (R41). -/
def pairOf (k : Kernel) (p : Packet) : Option Packet := if k.pairs && packetPaired p then some p else none

/-- A task of a checked pair starts: no item has been compared (R481). -/
def Tile.startPair (tl : Tile) (k : Kernel) (p : Packet) : Tile :=
  if (pairOf k p).isSome then
    { tl with pairs := tl.pairs.set (packetTask p).id (0, ((tl.pairs.get? (packetTask p).id).getD (0, 0)).2) }
  else tl

/-- A thread from a packet (R29, R38, R40). -/
def packetThread (k : Kernel) (p : Packet) (base : Nat) : Thread :=
  { (Thread.fresh (packetWord p 0 &&& 0xFFFFFFFC#32) (regsOf (packetWord p 7)) base k.mode).withArgs k ((p.drop 1).take 4) with
    fmt := packetWord p 5, scp := packetWord p 6, migok := (packetWord p 7).getLsbD 17, task := some (packetTask p), paired := pairOf k p }

/-- The tile root thread (R29, R38): THRID 0 with the launch's arguments. -/
def rootThread (k : Kernel) (node : Word) (num : Nat) (base : Nat) : Thread :=
  { (Thread.fresh k.entry k.regs base k.mode).withArgs k k.args with
    fmt := k.fmt, scp := k.scp, task := some ⟨0x80000000#32 ++ BitVec.ofNat 32 num, node⟩ }

/-- The root thread of a tile is created in slot 0 of core 0 (R26); it is dealt once its field's offset has passed (R208). -/
def State.createRoot (st : State) (tile : TileId) : State :=
  match st.launchOf tile with
  | none => st
  | some l =>
    let root (base : Nat) : Thread := { rootThread l.kernel l.node tile.num base with status := .off (.start st.now) st.clock }
    match st.addThread tile 0 l.kernel.regs root with
    | some (_, st) => st
    | none => st

/-- The program threads of a tile (R25). -/
def Tile.programThreads (tl : Tile) : Nat := (tl.threads.filter fun e => e.1 != 511).length

/-- The core on which a tile's head packet may be dispatched (R39): none while as many program threads exist as `.threads` allows
(Table 7.2). -/
def Tile.dispatchCore (tl : Tile) (k : Kernel) (p : Packet) : Option Nat :=
  if k.threads ≤ tl.programThreads then none else tl.chooseCore (regsOf (packetWord p 7))

/-- Whether the eight cores of a tile have taken their turns of its tile cycle, so that arrivals and then dispatch may create threads
behind the cycle's TSPAWNs (R26). -/
def State.cycleOver (st : State) (tile : TileId) : Bool := st.focus.1 != tile || st.focus.2 == 7

/-- Whether an arrived thread waits at a tile that some core can take (R26, R46). -/
def Tile.arrivalFirst (tl : Tile) : Bool := !tl.migrants.isEmpty && (tl.chooseCore 16).isSome

/-- DISPATCH (R39, R41): the head packet of a resident tile's work list becomes a thread on the core that R39 chooses; a PAIRED
one of a checked-pair launch stands for the threads of both members (log entry 12), and its count of equal items starts. -/
def execDispatch (tile : TileId) (st : State) : Host.Outcome State Fault Refusal :=
  match st.tile? tile, st.launchOf tile with
  | some tl, some l =>
    match tl.work with
    | [] => .next st
    | p :: rest =>
      let n := regsOf (packetWord p 7)
      if l.cancelled ∨ tl.berth.isNone ∨ tl.stopped ∨ tl.arrivalFirst ∨ !st.cycleOver tile then .next st
      else match tl.dispatchCore l.kernel p with
        | none => .next st
        | some c =>
          match (st.modTile tile fun tl => { tl with work := rest }.startPair l.kernel p).createOn tile c n (packetThread l.kernel p) with
          | some (_, st') => .next (st'.fillWork tile)
          | none => .next st
  | _, _ => .next st

/-- The parent of a spawned thread that has migrated: none of its tile's threads. -/
def noParent : Nat := 512

/-- A migrating thread as it is created (R45, R46): x0 to x15 as carried, FFLAGS clear and SCP zero. -/
def migrantThread (m : Migrant) (base : Nat) : Thread :=
  { (Thread.fresh m.pc 16 base m.mode).setRegs 0 m.regs with
    preds := m.preds, fmt := m.fmt, sbchk := m.sbchk, fold := m.fold, migok := m.migok, task := m.task
    parent := if m.spawned then some noParent else none, paired := m.paired, await := m.await }

/-- MIGRANT_CREATE (R46): an arrived thread is created on the core that R39 chooses, before any packet. -/
def execMigrantCreate (tile : TileId) (st : State) : Host.Outcome State Fault Refusal :=
  match st.tile? tile, st.launchOf tile with
  | some tl, some l =>
    match tl.migrants with
    | [] => .next st
    | m :: rest =>
      if l.cancelled ∨ tl.berth.isNone ∨ tl.stopped ∨ !st.cycleOver tile then .next st
      else match tl.chooseCore 16 with
        | none => .next st
        | some c =>
          match (st.modTile tile fun tl => { tl with migrants := rest }).createOn tile c 16 (migrantThread m) with
          | some (_, st') => .next st'
          | none => .next st
  | _, _ => .next st

/-! ## The neighbour load leveller (R42, R43) -/

/-- The length of a neighbour at a tile's sample (R42): the one of its own sample, when it has sampled at the same boundary of the same
field already, and else its work list's. -/
def State.lengthAt (st : State) (tile : TileId) (nb : Tile) : Nat :=
  match st.tile? tile with
  | some tl => if tl.berth.map fieldOf = nb.berth.map fieldOf ∧ nb.sampled = tl.sampled then nb.sampledLen else nb.work.length
  | none => nb.work.length

/-- The resident neighbours of a tile in the grid, in ascending tile number. -/
def State.neighbours (st : State) (tile : TileId) (k : Kernel) : List (TileId × Nat) :=
  let x := tile.num % 4096
  let y := tile.num / 4096
  let cand := (if y = 0 then [] else [tileNum x (y - 1)]) ++ (if x = 0 then [] else [tileNum (x - 1) y]) ++
    (if x + 1 < k.vx then [tileNum (x + 1) y] else []) ++ (if y + 1 < k.vy then [tileNum x (y + 1)] else [])
  cand.filterMap fun n =>
    match st.tile? (withNum tile n) with
    | some tl => if tl.berth.isSome ∧ st.gangState (withNum tile n) = .resident then some (withNum tile n, st.lengthAt tile tl) else none
    | none => none

/-- The first neighbour of least length. -/
def leastNeighbour : List (TileId × Nat) → Option (TileId × Nat)
  | [] => none
  | a :: as => match leastNeighbour as with
    | some b => if b.2 < a.2 then some b else some a
    | none => some a

/-- Takes the n unpinned packets nearest the tail out of a list, kept and shipped, each in list order. -/
def shipTail (n : Nat) (ps : List Packet) : List Packet × List Packet :=
  let r := ps.reverse.foldl (fun (acc : Nat × List Packet × List Packet) p =>
    if acc.1 = 0 ∨ packetPinned p then (acc.1, p :: acc.2.1, acc.2.2) else (acc.1 - 1, acc.2.1, p :: acc.2.2)) (n, [], [])
  (r.2.1, r.2.2)

/-- The balancing interval that a tile's field is in (R42). -/
def State.balanceInterval (st : State) (tile : TileId) (k : Kernel) : Nat :=
  match (st.tile? tile).bind (·.berth) with
  | some b => (st.field (fieldOf b)).time / (1000 * max 1 k.balanceUs)
  | none => 0

/-- LEVELLER_SAMPLE (R42, R43): at an interval boundary of its field a tile ships half its excess over its least loaded neighbour. A tile that
did not run at the boundary, or has come from a field with a later count, only takes up the count. -/
def execLevellerSample (tile : TileId) (st : State) : Host.Outcome State Fault Refusal :=
  match st.tile? tile, st.launchOf tile with
  | some tl, some l =>
    let now := st.balanceInterval tile l.kernel
    if now = tl.sampled then .next st
    else if l.cancelled ∨ tl.berth.isNone ∨ tl.stopped ∨ st.gangState tile ≠ .resident ∨ now < tl.sampled then
      .next (st.modTile tile fun tl => { tl with sampled := now, sampledLen := tl.work.length })
    else
    let st := st.modTile tile fun tl => { tl with sampled := tl.sampled + 1, sampledLen := tl.work.length }
    match leastNeighbour (st.neighbours tile l.kernel) with
      | none => .next st
      | some (dst, len) =>
        let u := (tl.work.filter fun p => !packetPinned p).length
        let n := min ((tl.work.length - len) / 2) u
        if n = 0 then .next st
        else
          let (kept, shipped) := shipTail n tl.work
          let (id, st) := st.freshId
          .next ((st.modTile tile fun tl => { tl with work := kept }.enqueue id tile dst (.shipment shipped)).fillWork tile)
  | _, _ => .next st

/-- LEVELLER_SHIPMENT_ARRIVAL (R43): the target appends the packets up to its free space, and the others return to the tail of
the sender's list. -/
def execLevellerShipmentArrival (item : Nat) (st : State) : Host.Outcome State Fault Refusal :=
  match st.items.find? fun i => i.id = item ∧ !i.back with
  | none => .next st
  | some it => if !st.inOrder it then .next st else
    match it.payload, st.tile? it.dst with
    | .shipment ps, some tl =>
      let room := if tl.berth.isSome ∧ st.gangState it.dst = .resident then 1024 - tl.work.length else 0
      let st := ({ st with items := st.items.filter (·.id ≠ item) }).ackItem it
      .next ((st.modTile it.dst fun tl => { tl with work := tl.work ++ ps.take room }).returnPackets it (ps.drop room))
    | _, _ => .next st

/-! ## Retirement and the end of a thread (R30) -/

/-- A thread retires its task (R30): it counts once everything that it issued has been acknowledged. -/
def State.retire (st : State) (tid : ThreadId) (t : Thread) : State :=
  if t.task.isNone ∨ t.parent.isSome then st
  else
    let ids := st.issuedBy tid t
    if ids.isEmpty then st.modLaunch tid.tile.part tid.tile.slot fun l => { l with members := l.members + 1 }
    else st.modLaunch tid.tile.part tid.tile.slot fun l => { l with retiring := l.retiring ++ [ids] }

end Sys2Proof.Machine
end

