-- ==== Sys2Proof/Machine/VecOps.lean ====
section
/-! DEFINITION. What the vector instructions compute on a claim context's registers and masks (R311, R312, R316, R317, R323,
R325 to R330). -/

namespace Sys2Proof.Machine

/-! ## Registers, masks and active slots (R311) -/

/-- A slot of a register; slots at and beyond G read zero. -/
def VCtx.slot (c : VCtx) (r i : Nat) : Word := if i < c.g then (c.v.getD r []).getD i 0#32 else 0#32
/-- A mask register; k0 is all-true. -/
def VCtx.mask (c : VCtx) (k : Nat) : BitVec 256 := if k = 0 then BitVec.allOnes 256 else c.k.getD k 0
/-- Writes a mask register; a write to k0 is discarded. -/
def VCtx.setMask (c : VCtx) (k : Nat) (v : BitVec 256) : VCtx := if k = 0 then c else { c with k := setPad 0 c.k k v }
/-- Whether a slot is active (R311). -/
def VCtx.active (c : VCtx) (k vl i : Nat) : Bool := decide (i < vl) && (c.mask k).getLsbD i

/-- Writes a register slot by slot: a slot that answers none keeps its contents, and slots at and beyond G ignore writes. -/
def VCtx.write (c : VCtx) (r : Nat) (f : Nat → Option Word) : VCtx :=
  { c with v := updPad [] c.v r fun ws => (List.range 256).map fun i =>
      if i < c.g then (f i).getD (ws.getD i 0#32) else ws.getD i 0#32 }

/-- The flags of the slots below a bound that a function raises. -/
def orSlots (n : Nat) (f : Nat → FFlags) : FFlags := (List.range n).foldl (fun a i => a ||| f i) fNone

/-- An operation on the active slots (R311). -/
def VCtx.mapActive (c : VCtx) (d k vl : Nat) (f : Nat → FRes) : VCtx × FFlags :=
  (c.write d fun i => if c.active k vl i then some (f i).bits else none,
   orSlots (min vl c.g) fun i => if c.active k vl i then (f i).flags else fNone)

/-! ## Packed elements (R312) -/

/-- An operation on the elements of a slot at a width. -/
def lanesInt (w : VWidth) (f : {n : Nat} → BitVec n → BitVec n → BitVec n) (a b : Word) : Word :=
  match w with
  | .b32 => f a b
  | .b16 => f (a.extractLsb' 16 16) (b.extractLsb' 16 16) ++ f (a.extractLsb' 0 16) (b.extractLsb' 0 16)
  | .b8 => f (a.extractLsb' 24 8) (b.extractLsb' 24 8) ++ f (a.extractLsb' 16 8) (b.extractLsb' 16 8) ++
      f (a.extractLsb' 8 8) (b.extractLsb' 8 8) ++ f (a.extractLsb' 0 8) (b.extractLsb' 0 8)

/-- VMULH: the high half of the signed product. -/
def vMulh {n : Nat} (a b : BitVec n) : BitVec n := BitVec.ofInt n (a.toInt * b.toInt / 2 ^ n)
/-- VSLL: shifted by B mod w. -/
def vSll {n : Nat} (a b : BitVec n) : BitVec n := a <<< (b.toNat % n)
/-- VSRL. -/
def vSrl {n : Nat} (a b : BitVec n) : BitVec n := a >>> (b.toNat % n)
/-- VSRA. -/
def vSra {n : Nat} (a b : BitVec n) : BitVec n := a.sshiftRight (b.toNat % n)
/-- VMIN, signed. -/
def vMin {n : Nat} (a b : BitVec n) : BitVec n := if a.toInt ≤ b.toInt then a else b
/-- VMAX, signed. -/
def vMax {n : Nat} (a b : BitVec n) : BitVec n := if a.toInt ≤ b.toInt then b else a
/-- VMINN, unsigned. -/
def vMinn {n : Nat} (a b : BitVec n) : BitVec n := if a.toNat ≤ b.toNat then a else b
/-- VMAXN, unsigned. -/
def vMaxn {n : Nat} (a b : BitVec n) : BitVec n := if a.toNat ≤ b.toNat then b else a
/-- A saturated signed result. -/
def saturate (n : Nat) (x : Int) : BitVec n := BitVec.ofInt n (max (-(2 : Int) ^ (n - 1)) (min x ((2 : Int) ^ (n - 1) - 1)))
/-- VADDS. -/
def vAdds {n : Nat} (a b : BitVec n) : BitVec n := saturate n (a.toInt + b.toInt)
/-- VSUBS. -/
def vSubs {n : Nat} (a b : BitVec n) : BitVec n := saturate n (a.toInt - b.toInt)

/-- An element operation of a floating-point format: the bits of A, B and V[vd] to result bits and flags. -/
abbrev FltLane := FFormat → Nat → Nat → Nat → Nat × FFlags

/-- A floating-point operation on the elements of a slot (R312, R317). -/
def lanesFlt (w : FWidth) (f : FltLane) (a b d : Word) : FRes :=
  match w with
  | .f32 => let r := f f32 a.toNat b.toNat d.toNat; ⟨BitVec.ofNat 32 r.1, r.2⟩
  | .bf16 =>
    let half (x : Word) (h : Nat) : Nat := x.toNat / 65536 ^ h % 65536
    let lo := f bf16 (half a 0) (half b 0) (half d 0)
    let hi := f bf16 (half a 1) (half b 1) (half d 1)
    ⟨BitVec.ofNat 16 hi.1 ++ BitVec.ofNat 16 lo.1, lo.2 ||| hi.2⟩

/-- An exact result rounded once to a format. -/
def fmtRound (fmt : FFormat) (r : FVal × FFlags) : Nat × FFlags :=
  let x := fmt.round r.1
  (x.1, r.2 ||| x.2)

/-- The element operations of Table 11.5. -/
def ltAdd : FltLane := fun m a b _ => fmtRound m ((m.decode a).add (m.decode b))
/-- VFSUB. -/
def ltSub : FltLane := fun m a b _ => fmtRound m ((m.decode a).add (m.decode b).negate)
/-- VFMUL. -/
def ltMul : FltLane := fun m a b _ => fmtRound m ((m.decode a).mul (m.decode b))
/-- VFDIV. -/
def ltDiv : FltLane := fun m a b _ => fmtRound m ((m.decode a).div (m.decode b))
/-- VFFMA. -/
def ltFma : FltLane := fun m a b d => fmtRound m ((m.decode a).fma (m.decode b) (m.decode d))
/-- VFFMS. -/
def ltFms : FltLane := fun m a b d => fmtRound m ((m.decode a).fma (m.decode b) (m.decode d).negate)
/-- VFMIN. -/
def ltMin : FltLane := fun m a b _ => minMaxBits m false a b
/-- VFMAX. -/
def ltMax : FltLane := fun m a b _ => minMaxBits m true a b
/-- VFSQRT. -/
def ltSqrt : FltLane := fun m a _ _ => fmtRound m (m.decode a).sqrt
/-- The sign bit of a format. -/
def FFormat.signBit (m : FFormat) : Nat := 128 * 2 ^ m.p
/-- VFABS. -/
def ltAbs : FltLane := fun m a _ _ => (a % m.signBit, fNone)
/-- VFNEG. -/
def ltNeg : FltLane := fun m a _ _ => (if a < m.signBit then a + m.signBit else a - m.signBit, fNone)
/-- VFEXP2, VFLOG2, VFRCP and VFRSQRT. -/
def ltSfun (f : SfFn) : FltLane := fun m a _ _ => fmtRound m (f.value (m.decode a))

/-! ## Reductions (R323) -/

/-- One level of the fixed tree. -/
def redLevel (op : Word → Word → FRes) : List (Option Word) → List (Option Word) × FFlags
  | x :: y :: rest =>
    let r := redLevel op rest
    match x, y with
    | some a, some b => let s := op a b; (some s.bits :: r.1, s.flags ||| r.2)
    | none, y => (y :: r.1, r.2)
    | x, none => (x :: r.1, r.2)
  | xs => (xs, fNone)

/-- The tree over some levels. -/
def redTree (op : Word → Word → FRes) : Nat → List (Option Word) × FFlags → List (Option Word) × FFlags
  | 0, r => r
  | n + 1, r => let s := redLevel op r.1; redTree op n (s.1, r.2 ||| s.2)

/-- A reduction (R323): slot 0 of vd. -/
def VCtx.reduce (c : VCtx) (d a b k vl : Nat) (op : Word → Word → FRes) : VCtx × FFlags :=
  let leaves := (List.range 256).map fun i => if c.active k vl i then some (c.slot a i) else none
  let t := redTree op 8 (leaves, fNone)
  let r : FRes := match t.1 with
    | some x :: _ => op (c.slot b 0) x
    | _ => ⟨c.slot b 0, fNone⟩
  (c.write d fun i => if i = 0 then some r.bits else none, t.2 ||| r.flags)

/-! ## Byte sequences and narrow formats (R325 to R328) -/

/-- Byte j of a register (R312). -/
def VCtx.byte (c : VCtx) (r j : Nat) : Nat := (c.slot r (j / 4)).toNat / 256 ^ (j % 4) % 256

/-- Writes the slots from one on with bytes, four for a slot. -/
def VCtx.writeBytes (c : VCtx) (r first : Nat) (bs : List Nat) : VCtx :=
  c.write r fun i =>
    if first ≤ i ∧ i < first + (bs.length + 3) / 4 then
      let j := (i - first) * 4
      some (BitVec.ofNat 32 (bs.getD j 0 + 256 * bs.getD (j + 1) 0 + 65536 * bs.getD (j + 2) 0 + 16777216 * bs.getD (j + 3) 0))
    else none

/-- Packs codes by R66, four to three bytes. -/
def packCodes : List Nat → List Nat
  | a :: b :: c :: d :: rest =>
    let g := a + 64 * b + 4096 * c + 262144 * d
    g % 256 :: g / 256 % 256 :: g / 65536 % 256 :: packCodes rest
  | _ => []

/-- Unpacks bytes by R66, three to four codes. -/
def unpackCodes : List Nat → List Nat
  | a :: b :: c :: rest =>
    let g := a + 256 * b + 65536 * c
    g % 64 :: g / 64 % 64 :: g / 4096 % 64 :: g / 262144 % 64 :: unpackCodes rest
  | _ => []

/-- VPACKL6. -/
def VCtx.packl6 (c : VCtx) (d a vl : Nat) : VCtx :=
  c.writeBytes d 0 (packCodes ((List.range (4 * vl)).map fun j => c.byte a j % 64))
/-- VUNPKL6. -/
def VCtx.unpkl6 (c : VCtx) (d a vl : Nat) : VCtx :=
  c.writeBytes d 0 (unpackCodes ((List.range (3 * vl)).map (c.byte a)))

/-- VQUANT over the blocks below a count. -/
def VCtx.quant (c0 : VCtx) (d a blocks : Nat) : VCtx × FFlags :=
  (List.range blocks).foldl (fun acc b =>
    let r := l6Quantise ((List.range 32).map fun i => c0.slot a (32 * b + i))
    ((acc.1.writeBytes d (8 * b) r.1).write (d + 1) fun i => if i = b then some (BitVec.ofNat 32 r.2.1) else none,
     acc.2 ||| r.2.2)) (c0, fNone)

/-- VDEQ of one slot. -/
def VCtx.deqSlot (c : VCtx) (a b i : Nat) : FRes :=
  toF32 (l6Value (c.byte a i % 64) ((c.slot b (i / 32)).toNat % 256), fNone)

/-- BADDQ over the blocks below a count. -/
def VCtx.baddq (c0 : VCtx) (d a b blocks : Nat) : VCtx × FFlags :=
  (List.range blocks).foldl (fun acc n =>
    let codes (r : Nat) := (List.range 32).map fun i => c0.byte r (32 * n + i) % 64
    let scale (r : Nat) := (c0.slot (r + 1) n).toNat % 256
    let r := l6Badd (codes a) (scale a) (codes b) (scale b)
    ((acc.1.writeBytes d (8 * n) r.1).write (d + 1) fun i => if i = n then some (BitVec.ofNat 32 r.2.1) else none,
     acc.2 ||| r.2.2)) (c0, fNone)

/-- VCVTBF: FP32 slots into BF16 elements. -/
def VCtx.cvtbf (c : VCtx) (d a vl : Nat) : VCtx × FFlags :=
  let r (i : Nat) : FRes := fBf (c.slot a i)
  (c.write d fun s =>
    let old := c.slot d s
    let lo := if 2 * s < vl then (r (2 * s)).bits.extractLsb' 0 16 else old.extractLsb' 0 16
    let hi := if 2 * s + 1 < vl then (r (2 * s + 1)).bits.extractLsb' 0 16 else old.extractLsb' 16 16
    some (hi ++ lo : BitVec 32),
   orSlots vl fun i => (r i).flags)

/-- VCVTF: BF16 elements into FP32 slots. -/
def VCtx.cvtf (c : VCtx) (d a vl : Nat) : VCtx :=
  c.write d fun i => if i < vl then some (BitVec.ofNat 32 ((c.slot a (i / 2)).toNat / 65536 ^ (i % 2) % 65536 * 65536)) else none

/-! ## Comparisons (R330) -/

/-- A VCMP comparison of two slots. -/
def vcmpSlot (c : VCond) (a b : Word) : FRes :=
  match c with
  | .eq => plain (boolWord (condHolds .eq a b))
  | .ne => plain (boolWord (condHolds .ne a b))
  | .lt => plain (boolWord (condHolds .lt a b))
  | .ge => plain (boolWord (condHolds .ge a b))
  | .ltn => plain (boolWord (condHolds .ltn a b))
  | .gen => plain (boolWord (condHolds .gen a b))
  | .feq => fEq a b
  | .flt => fLt a b

/-- VCMP into a mask. -/
def VCtx.cmp (c : VCtx) (d a b k vl : Nat) (cond : VCond) : VCtx × FFlags :=
  let r (i : Nat) : FRes := vcmpSlot cond (c.slot a i) (c.slot b i)
  let bits := (List.range 256).foldl (fun (m : BitVec 256) i =>
    if c.active k vl i && (r i).bits == 1#32 then m ||| BitVec.twoPow 256 i else m) 0
  (c.setMask d bits, orSlots 256 fun i => if c.active k vl i then (r i).flags else fNone)

/-! ## The effect of an instruction that touches only its context -/

/-- An integer operation (R316). -/
def VCtx.int (c : VCtx) (vl : Nat) (d a b : VReg) (w : VWidth) (k : KReg) (f : {n : Nat} → BitVec n → BitVec n → BitVec n) :
    VCtx × FFlags :=
  c.mapActive d.toNat k.toNat vl fun i => plain (lanesInt w f (c.slot a.toNat i) (c.slot b.toNat i))

/-- A floating-point operation (R317). -/
def VCtx.flt (c : VCtx) (vl : Nat) (d a b : VReg) (w : FWidth) (k : KReg) (f : FltLane) : VCtx × FFlags :=
  c.mapActive d.toNat k.toNat vl fun i => lanesFlt w f (c.slot a.toNat i) (c.slot b.toNat i) (c.slot d.toNat i)

/-- What an instruction of majors 0x31 to 0x37 that reaches no memory, stream or message does to its context, with its scalar
operands and VL as read at push; the flags are delivered at its end. -/
def vecEffect (i : Instr) (xs : List Word) (vl : Nat) (c : VCtx) : VCtx × FFlags :=
  match i with
  | .vadd _ d a b w k => c.int vl d a b w k (fun x y => x + y)
  | .vsub _ d a b w k => c.int vl d a b w k (fun x y => x - y)
  | .vmul _ d a b w k => c.int vl d a b w k (fun x y => x * y)
  | .vmulh _ d a b w k => c.int vl d a b w k vMulh
  | .vand _ d a b w k => c.int vl d a b w k (fun x y => x &&& y)
  | .vor _ d a b w k => c.int vl d a b w k (fun x y => x ||| y)
  | .vxor _ d a b w k => c.int vl d a b w k (fun x y => x ^^^ y)
  | .vsll _ d a b w k => c.int vl d a b w k vSll
  | .vsrl _ d a b w k => c.int vl d a b w k vSrl
  | .vsra _ d a b w k => c.int vl d a b w k vSra
  | .vmin _ d a b w k => c.int vl d a b w k vMin
  | .vmax _ d a b w k => c.int vl d a b w k vMax
  | .vminn _ d a b w k => c.int vl d a b w k vMinn
  | .vmaxn _ d a b w k => c.int vl d a b w k vMaxn
  | .vadds _ d a b w k => c.int vl d a b w k vAdds
  | .vsubs _ d a b w k => c.int vl d a b w k vSubs
  | .vfadd _ d a b w k => c.flt vl d a b w k ltAdd
  | .vfsub _ d a b w k => c.flt vl d a b w k ltSub
  | .vfmul _ d a b w k => c.flt vl d a b w k ltMul
  | .vffma _ d a b w k => c.flt vl d a b w k ltFma
  | .vffms _ d a b w k => c.flt vl d a b w k ltFms
  | .vfmin _ d a b w k => c.flt vl d a b w k ltMin
  | .vfmax _ d a b w k => c.flt vl d a b w k ltMax
  | .vfdiv _ d a b w k => c.flt vl d a b w k ltDiv
  | .vfsqrt _ d a w k => c.flt vl d a a w k ltSqrt
  | .vfabs _ d a w k => c.flt vl d a a w k ltAbs
  | .vfneg _ d a w k => c.flt vl d a a w k ltNeg
  | .vfexp2 _ d a w k => c.flt vl d a a w k (ltSfun .exp2)
  | .vflog2 _ d a w k => c.flt vl d a a w k (ltSfun .log2)
  | .vfrcp _ d a w k => c.flt vl d a a w k (ltSfun .rcp)
  | .vfrsqrt _ d a w k => c.flt vl d a a w k (ltSfun .rsqrt)
  | .vsplat _ d _ k => c.mapActive d.toNat k.toNat vl fun _ => plain (xs.getD 0 0#32)
  | .vins _ d i _ j => (c.write d.toNat fun n => if n = i.toNat * 8 + j.toNat then some (xs.getD 0 0#32) else none, fNone)
  | .vrsum _ d a b k => c.reduce d.toNat a.toNat b.toNat k.toNat vl fun x y => plain (x + y)
  | .vrfsum _ d a b k => c.reduce d.toNat a.toNat b.toNat k.toNat vl fAdd
  | .vrmin _ d a b k => c.reduce d.toNat a.toNat b.toNat k.toNat vl fun x y => plain (minS x y)
  | .vrmax _ d a b k => c.reduce d.toNat a.toNat b.toNat k.toNat vl fun x y => plain (maxS x y)
  | .vrfmin _ d a b k => c.reduce d.toNat a.toNat b.toNat k.toNat vl fMin
  | .vrfmax _ d a b k => c.reduce d.toNat a.toNat b.toNat k.toNat vl fMax
  | .vpackl6 _ d a => (c.packl6 d.toNat a.toNat vl, fNone)
  | .vunpkl6 _ d a => (c.unpkl6 d.toNat a.toNat vl, fNone)
  | .vquant _ d a => c.quant d.toNat a.toNat (vl / 32)
  | .vdeq _ d a b => c.mapActive d.toNat 0 vl (c.deqSlot a.toNat b.toNat)
  | .vcvtbf _ d a => c.cvtbf d.toNat a.toNat vl
  | .vcvtf _ d a => (c.cvtf d.toNat a.toNat vl, fNone)
  | .baddq _ d a b => c.baddq d.toNat a.toNat b.toNat (vl / 8)
  | .vpermv _ d a b k => c.mapActive d.toNat k.toNat vl fun i => plain (c.slot a.toNat ((c.slot b.toNat i).toNat % 256))
  | .vslup _ d a n k =>
    (c.write d.toNat fun i => if c.active k.toNat vl i && decide (n.toNat ≤ i) then some (c.slot a.toNat (i - n.toNat)) else none, fNone)
  | .vsldn _ d a n k => c.mapActive d.toNat k.toNat vl fun i =>
      plain (if i + n.toNat < vl then c.slot a.toNat (i + n.toNat) else 0#32)
  | .vmerge _ d a b k => (c.write d.toNat fun i =>
      if i < vl then some (if (c.mask k.toNat).getLsbD i then c.slot a.toNat i else c.slot b.toNat i) else none, fNone)
  | .vkand _ d a b => (c.setMask d.toNat (c.mask a.toNat &&& c.mask b.toNat), fNone)
  | .vkor _ d a b => (c.setMask d.toNat (c.mask a.toNat ||| c.mask b.toNat), fNone)
  | .vkxor _ d a b => (c.setMask d.toNat (c.mask a.toNat ^^^ c.mask b.toNat), fNone)
  | .vknot _ d a => (c.setMask d.toNat (~~~(c.mask a.toNat)), fNone)
  | .vcmp _ d a b cond k => c.cmp d.toNat a.toNat b.toNat k.toNat vl cond
  | _ => (c, fNone)

end Sys2Proof.Machine
end

