-- ==== Sys2Proof/Machine/Vector.lean ====
section
/-! DEFINITION. Vector claims, the push of vector instructions, and their execution by the sequencer (R306 to R322, R324, R331,
R332, R512). -/

namespace Sys2Proof.Machine

/-! ## Claims (R306 to R310) -/

/-- A vector context of a tile. -/
def State.vec? (st : State) (tile : TileId) (ctx : Nat) : Option VCtx := (st.tile? tile).bind fun tl => tl.vecs.getD ctx none

/-- The granted slots for a request at the tile's berth (Table 11.2). -/
def State.granted (st : State) (tile : TileId) (grq : Nat) : Nat :=
  match (st.tile? tile).bind (·.berth) with
  | some b => 16 * min grq (st.berth b).lanes
  | none => 0

/-- VLREQ of a claim word (Table 11.1). -/
def claimVl (w : Word) : Nat := min (descField w 16 9) 256
/-- GRQ of a claim word. -/
def claimGrq (w : Word) : Nat := let n := descField w 4 5; if n = 0 ∨ 17 ≤ n then 16 else n
/-- The weight of a claim word. -/
def claimWeight (w : Word) : Nat := descField w 0 4 + 1

/-- VCLAIM (R307): the lowest free context, zeroed, or 0 when none is free. -/
def execVclaim (s : BitVec 2) (d a : XField) (st : State) : Host.Outcome State Fault Refusal :=
  issue st s 4 fun tid t => do
    generalChecks t [a] [d]
    if t.claim.isSome then .error (.trap .vclaim 1#32)
    let (w, t) ← needField st t a
    match st.tile? tid.tile with
    | none => .error .hold
    | some tl =>
      match tl.vecs.idxOf? none with
      | none =>
        let t ← writeField st t d (.ready 0#32)
        .ok { st := st.setThread tid t }
      | some n =>
        let g := st.granted tid.tile (claimGrq w)
        let t ← writeField st t d (.ready (BitVec.ofNat 32 g))
        let c : VCtx := ⟨tid.thr, claimWeight w, claimGrq w, g, min (claimVl w) g,
          List.replicate 32 (List.replicate 256 0#32), List.replicate 8 0, [], none, none, false⟩
        .ok { st := (st.setThread tid { t with claim := some n }).modTile tid.tile fun tl => { tl with vecs := setPad none tl.vecs n (some c) } }

/-- FVA and FINFO of the stream element that a mark of R512 names. -/
def markInfo (st : State) (tid : ThreadId) (tval : Word) : Option (Nat × Word) :=
  match st.thread? tid with
  | none => none
  | some t => (t.stream? (tval.toNat / 65536 % 8)).bind fun b => streamInfo st tid t.priv b b.pos

/-- Traps with a claim's mark of a held stream fault, and clears it (R512). -/
def checkStreamMark (st : State) (tid : ThreadId) (ctx : Nat) (c : VCtx) : Except Stop Unit :=
  match c.stop with
  | some (cause, tval) => .error (.trapIn cause tval (markInfo st tid tval) (st.modVec tid.tile ctx fun c => { c with stop := none }))
  | none => .ok ()

/-- VRENEG (R308). -/
def execVreneg (s : BitVec 2) (d a : XField) (st : State) : Host.Outcome State Fault Refusal :=
  issue st s 4 fun tid t => do
    generalChecks t [a] [d]
    match t.claim.bind fun n => (st.vec? tid.tile n).map fun c => (n, c) with
    | none => .error (.trap .vclaim 3#32)
    | some (n, c) =>
      checkStreamMark st tid n c
      if t.isStream a ∧ !c.queue.isEmpty then .error (.off .vecDrain st)
      let (w, t) ← needField st t a
      if w.getLsbD 9 then
        let t ← writeField st t d (.ready (BitVec.ofNat 32 c.g))
        .ok { st := (st.setThread tid t).modVec tid.tile n fun c => { c with vl := min (claimVl w) c.g } }
      else if !c.queue.isEmpty then .error (.off .vecDrain st)
      else
        let g := st.granted tid.tile (claimGrq w)
        let t ← writeField st t d (.ready (BitVec.ofNat 32 g))
        .ok { st := (st.setThread tid t).modVec tid.tile n fun c =>
                { c with weight := claimWeight w, grq := claimGrq w, g := g, vl := min (claimVl w) g } }

/-- Ends a claim: its context is free again. -/
def State.endClaim (st : State) (tid : ThreadId) : State :=
  match (st.thread? tid).bind (·.claim) with
  | none => st
  | some n => (st.modThread tid fun t => { t with claim := none }).modTile tid.tile fun tl =>
      { tl with vecs := setPad none tl.vecs n none, recvs := tl.recvs.filter fun p => p.vec ≠ some n }

/-- VYIELD (R309). -/
def execVyield (s : BitVec 2) (st : State) : Host.Outcome State Fault Refusal :=
  issue st s 4 fun tid t => do
    match t.claim.bind fun n => (st.vec? tid.tile n).map fun c => (n, c) with
    | none => .ok { st := st }
    | some (n, c) =>
      checkStreamMark st tid n c
      if !c.queue.isEmpty then .error (.off .vecDrain st)
      .ok { st := st.endClaim tid }

/-! ## The push (R313) -/

/-- The queue entries that a claim's queue holds. -/
def VCtx.used (c : VCtx) : Nat := c.queue.foldl (fun n q => n + q.cost) 0

/-- Steps 2 and 3 of R313, and the marks of R315 and R512: each mark clears as it traps. A mark of R315 is older than one of R512 and
comes first; both come before the pending trap of R310 (log entry 58). -/
def vecGate (st : State) (tid : ThreadId) (t : Thread) : Except Stop (Nat × VCtx) :=
  match t.claim.bind fun n => (st.vec? tid.tile n).map fun c => (n, c) with
  | none => .error (.trap .vclaim 3#32)
  | some (n, c) =>
    match c.mark with
    | some (cause, tval) => .error (.trapIn cause tval none (st.modVec tid.tile n fun c => { c with mark := none }))
    | none => do
      checkStreamMark st tid n c
      if c.reneg then .error (.trapIn .vclaim (BitVec.ofNat 32 (2 + c.g * 65536)) none (st.modVec tid.tile n fun c => { c with reneg := false }))
      else .ok (n, c)

/-- Values of fields in order, with the thread as the pops leave it. -/
def needFields (st : State) (t : Thread) : List XField → Except Stop (List Word × Thread)
  | [] => .ok ([], t)
  | f :: fs => do
    let (v, t) ← needField st t f
    let (vs, t) ← needFields st t fs
    .ok (v :: vs, t)

/-- The scalar fields that a vector instruction of one word reads at push. -/
def vecFields : Instr → List XField
  | .vsplat _ _ b _ => [b]
  | .vins _ _ _ b _ => [b]
  | .vgaddr _ _ _ b _ => [b]
  | _ => []

/-- Register numbers that an entry calls ILLEGAL (R326, R328). -/
def vecIllegal : Instr → Bool
  | .vquant _ d _ => d == 31#5
  | .baddq _ d a b => d == 31#5 || a == 31#5 || b == 31#5
  | _ => false

/-- The checks of an entry at push over VL (R326, R328). -/
def vecEntryTrap (i : Instr) (vl : Nat) : Option (Cause × Word) :=
  match i with
  | .vquant .. => if vl % 32 = 0 then none else some (.bounds, BitVec.ofNat 32 vl)
  | .baddq .. => if vl % 8 = 0 then none else some (.bounds, BitVec.ofNat 32 vl)
  | _ => none

/-- The stream and direction of VPOP and VPUSH. -/
def vecStream : Instr → Option (Nat × Bool)
  | .vpop _ _ m _ => some (m.toNat, false)
  | .vpush _ _ m => some (m.toNat, true)
  | _ => none

/-- The elements of a stream that pushed instructions of a claim still take or give (R322). -/
def VCtx.projected (c : VCtx) (m : Nat) : Nat :=
  c.queue.foldl (fun n q => q.ops.foldl (fun n o =>
    match vecStream o.instr with
    | some (m', _) => if m' = m then n + (o.vl - o.prog) else n
    | none => n) n) 0

/-- The checks of R322 for a push, with elements already projected ahead of it. -/
def checkVecStream (t : Thread) (m : Nat) (write : Bool) (ahead vl : Nat) : Except Stop Unit :=
  match t.stream? m with
  | none => .error (.trap .access (streamTval m 0))
  | some b =>
    if b.write ≠ write then .error (.trap .access (streamTval m b.entry))
    else if b.length < b.pos + ahead + vl then .error (.trap .bounds (streamTval m b.entry))
    else .ok ()

/-- Whether the vector unit of a thread's berth is awake; a push to a unit that is powered down waits for its wake (R504). -/
def checkVecAwake (st : State) (tid : ThreadId) : Except Stop Unit :=
  match (st.tile? tid.tile).bind (·.berth) with
  | some b => if st.isDark b 2 then .error (.off .wake (st.requestWake b 2)) else .ok ()
  | none => .ok ()

/-- Appends an instruction to a claim's queue. -/
def State.pushVec (st : State) (tile : TileId) (ctx cost : Nat) (ops : List VOp) : State :=
  st.modVec tile ctx fun c => { c with queue := c.queue ++ [⟨cost, ops⟩] }

/-- Step 7 of R313: free queue entries. -/
def checkRoom (st : State) (c : VCtx) (n : Nat) : Except Stop Unit :=
  if 16 < c.used + n then .error (.off (.vecQueue n) st) else .ok ()

/-- A vector instruction that reaches no memory (R313): its checks, its scalar operands, and the queue. -/
def opVec (st : State) (s : BitVec 2) (i : Instr) : Host.Outcome State Fault Refusal :=
  issue st s 4 fun tid t => do
    if vecIllegal i then .error (.trap .illegal (wordOf i))
    generalChecks t (vecFields i) []
    let (n, c) ← vecGate st tid t
    let (xs, t') ← needFields st t (vecFields i)
    match vecStream i with
    | some (m, write) =>
      checkHold t
      checkVecStream t m write (c.projected m) c.vl
    | none => pure ()
    match vecEntryTrap i c.vl with
    | some (cause, v) => .error (.trap cause v)
    | none => pure ()
    checkVecAwake st tid
    checkRoom st c 1
    let (id, st) := st.freshId
    .ok { st := (st.setThread tid t').pushVec tid.tile n 1 [⟨id, i, xs, c.vl, [], false, 0, none⟩] }

/-! ## Vector memory instructions (R320, R321) -/

/-- A VMEM form 0 to 5 (Table 11.6). -/
structure VMem where
  form : Nat
  d : VReg
  l : LEntry
  c : XField
  k : KReg
  deriving DecidableEq, Repr

/-- The fields of a vector load or store. -/
def vmemOf : Instr → Option VMem
  | .vld _ d l c k => some ⟨0, d, l, c, k⟩
  | .vst _ d l c k => some ⟨1, d, l, c, k⟩
  | .vlds _ d l c k => some ⟨2, d, l, c, k⟩
  | .vsts _ d l c k => some ⟨3, d, l, c, k⟩
  | .vgath _ d l c k => some ⟨4, d, l, c, k⟩
  | .vscat _ d l c k => some ⟨5, d, l, c, k⟩
  | _ => none

/-- Whether a form stores. -/
def VMem.stores (m : VMem) : Bool := m.form % 2 == 1

/-- Adds increments to the first coordinates. -/
def addCoords : List Int → List Int → List Int
  | c :: cs, d :: ds => (c + d) :: addCoords cs ds
  | cs, _ => cs

/-- The elements of a form over the active slots (Table 11.6): slot, place in the slot, coordinates. -/
def VMem.elements (m : VMem) (c : VCtx) (e : Entry) (g : List Int) (step : Word) : List (Nat × Nat × List Int) :=
  let slots := (List.range c.vl).filter (c.active m.k.toNat c.vl)
  match m.form / 2 with
  | 0 =>
    let per := 4 / e.size
    slots.flatMap fun i => (List.range per).map fun j => (i, j, addCoords g [((i * per + j : Nat) : Int)])
  | 1 => slots.map fun i => (i, 0, addCoords g [(i : Int) * signedHalf step false, (i : Int) * signedHalf step true])
  | _ => slots.map fun i =>
      let x := c.slot ((m.d.toNat + 1) % 32) i
      (i, 0, addCoords g [signedHalf x false, signedHalf x true])

/-- Stages 4 to 6 for every element, lowest lane first (R321): its place, or none when it is discarded. -/
def vecResolve (st : State) (tid : ThreadId) (t : Thread) (k : Kernel) (word : Word) (kidx num : Nat) (store : Bool) :
    List (Nat × Nat × List Int) → Except Stop (List (Nat × Nat × Option Place) × State)
  | [] => .ok ([], st)
  | (slot, sub, g) :: rest => do
    let e := k.entryOf kidx
    let loc ← liftLoc word (resolveLoc k tid.tile.num tid.thr t.priv kidx (if store then .write else .read) g num slot)
    checkElement e kidx slot store
    match loc with
    | .discard =>
      let (r, st) ← vecResolve st tid t k word kidx num store rest
      .ok ((slot, sub, none) :: r, st)
    | .byte n space off _ =>
      let (p, st) ← placeOf st tid t k kidx slot n space off (!store) store
      checkLock st tid p e.size slot store
      let (r, st) ← vecResolve st tid t k word kidx num store rest
      .ok ((slot, sub, some p) :: r, st)

/-- Enters the resolved elements into the performance order (R321): each rim element sets TOUCH, and a buffered store of the
thread to its bytes leaves first. -/
def State.submitLanes (st : State) (tid : ThreadId) (ctx op size : Nat) (w : Widen) (store : Bool) :
    Nat → List (Nat × Nat × Option Place) → List VLane × State
  | _, [] => ([], st)
  | i, (slot, sub, none) :: rest =>
    let (ls, st) := State.submitLanes st tid ctx op size w store (i + 1) rest
    (⟨slot, sub, none, some 0#32, false⟩ :: ls, st)
  | i, (slot, sub, some p) :: rest =>
    let st := match p with
      | .rim va _ => if buffersByte st tid va size then st.drain tid else st
      | _ => st
    let id := st.nextId
    let kind : AccKind := if store then .store else .load
    let st := (st.submit ⟨0, .vector tid, p, size, kind, none, w, none, some (ctx, op, i), .arrived, false⟩).touch tid p
    let st := if store then st.present tid (.access .store p size none) else st.presentLoad tid
    let (ls, st) := State.submitLanes st tid ctx op size w store (i + 1) rest
    (⟨slot, sub, some id, none, false⟩ :: ls, st)

/-- A vector load or store (R313, R320, R321). A form whose locations depend on vector registers is held until the claim's
earlier instructions have executed. -/
def opVmem (st : State) (s : BitVec 2) (i : Instr) (m : VMem) : Host.Outcome State Fault Refusal :=
  issue st s 4 fun tid t => do
    match st.launchOf tid.tile with
    | none => .error .hold
    | some la =>
      let k := la.kernel
      let kidx := m.l.toNat
      let e := k.entryOf kidx
      let stepped := m.form = 2 ∨ m.form = 3
      let w := coordCount k kidx + (if stepped then 1 else 0)
      checkRanges t (wordOf i) [(m.c, w)]
      checkEarly t (rangeFields m.c w)
      let (n, c) ← vecGate st tid t
      let vs ← needRegs st t m.c.toNat w
      checkHold t
      if (4 ≤ m.form ∨ m.k ≠ 0#3) ∧ !c.queue.isEmpty then .error .hold
      let g := (vs.take e.rank).map (·.toInt)
      let num := (vs.getD e.rank 0#32).toNat
      let step := if stepped then vs.getD (w - 1) 0#32 else 0#32
      let (places, st) ← vecResolve st tid t k (wordOf i) kidx num m.stores (m.elements c e g step)
      checkVecAwake st tid
      checkRoom st c 1
      let (id, st) := st.freshId
      let widen : Widen := if m.form < 2 then (match e.size with
        | 1 => .z8
        | 2 => .z16
        | _ => .w32) else widenOf e.elem false
      let (lanes, st) := st.submitLanes tid n id e.size widen m.stores 0 places
      .ok { st := st.pushVec tid.tile n 1 [⟨id, i, [], c.vl, lanes, false, 0, none⟩] }

/-- VGADDR's coordinates of a slot (R319). -/
def vgaddrCoords (c : VCtx) (a rank i : Nat) : List Int :=
  ([(c.slot a i).toInt, if 2 ≤ rank then (c.slot (a + 1) i).toInt else 0, 0, 0]).take rank

/-- VGADDR over the active slots, lowest lane first: each slot's owner and index. -/
def vgaddrLanes (k : Kernel) (own kidx a r : Nat) (explicit : Bool) (c : VCtx) : List Nat → Except LocTrap (List VLane)
  | [] => .ok []
  | i :: is =>
    let num := if explicit then (c.slot (a + r) i).toNat else 0
    match gaddrValue k own kidx i (vgaddrCoords c a (k.entryOf kidx).rank i) num with
    | .error e => .error e
    | .ok (o, x) => (vgaddrLanes k own kidx a r explicit c is).map fun ls =>
        ⟨i, 0, none, some o, false⟩ :: ⟨i, 1, none, some x, false⟩ :: ls

/-- VGADDR (R319). -/
def execVgaddr (s : BitVec 2) (d a : VReg) (b : XField) (k : KReg) (st : State) : Host.Outcome State Fault Refusal :=
  issue st s 4 fun tid t => do
    match st.launchOf tid.tile with
    | none => .error .hold
    | some la =>
      let i : Instr := .vgaddr s d a b k
      let word := wordOf i
      if d = 31#5 then .error (.trap .illegal word)
      generalChecks t [b] []
      let (n, c) ← vecGate st tid t
      let (w, t') ← needField st t b
      let kidx := w.toNat % 64
      let e := la.kernel.entryOf kidx
      let r := if 2 ≤ e.rank then 2 else 1
      let explicit := decide (e.space = 2 ∧ entryField (la.kernel.dist.getD e.dist 0) 126 2 = 0)
      if (2 ≤ e.rank ∧ a = 31#5) ∨ (explicit ∧ 31 < a.toNat + r) then .error (.trap .illegal word)
      if !c.queue.isEmpty then .error .hold
      let slots := (List.range c.vl).filter (c.active k.toNat c.vl)
      if e.space = 0 ∨ e.space = 7 then .error (.trap .access (locTval kidx 0 (slots.headD 0)))
      let lanes ← liftLoc word (vgaddrLanes la.kernel tid.tile.num kidx a.toNat r explicit c slots)
      checkVecAwake st tid
      let (id, st) := st.freshId
      .ok { st := (st.setThread tid t').pushVec tid.tile n 1 [⟨id, i, [w], c.vl, lanes, false, 0, none⟩] }

/-- VEXTR (R318): held until the claim's earlier instructions have executed, and then a ready value. -/
def execVextr (s : BitVec 2) (i : BitVec 5) (a : VReg) (b : XField) (j : BitVec 3) (st : State) : Host.Outcome State Fault Refusal :=
  issue st s 4 fun tid t => do
    generalChecks t [] [b]
    let (_, c) ← vecGate st tid t
    if !c.queue.isEmpty then .error .hold
    let t ← writeField st t b (.ready (c.slot a.toNat (i.toNat * 8 + j.toNat)))
    .ok { st := st.setThread tid t }

/-- A VRECVADD of a thread that waits on its claim is withdrawn, to trap at its own place (R512). -/
def State.withdrawRecv (st : State) (tid : ThreadId) : State :=
  match (st.thread? tid).bind (·.claim) with
  | none => st
  | some n => st.modVec tid.tile n fun c => { c with queue := c.queue.filter fun q => q.ops.all fun o => match o.instr with
      | .vrecvadd .. => false
      | _ => true }

/-- VRECVADD (R324): pushed; its thread is blocked, with its PC on it, until it ends. -/
def execVrecvadd (s : BitVec 2) (d : VReg) (n : XField) (st : State) : Host.Outcome State Fault Refusal :=
  issue st s 4 fun tid t => do
    let i : Instr := .vrecvadd s d n
    checkLimits t [n]
    if t.isStream n then .error (.trap .illegal (wordOf i))
    checkEarly t [n]
    let st := st.withdrawRecv tid
    let (ctx, c) ← vecGate st tid t
    let _ ← needReg st t n.toNat
    checkHold t
    checkVecAwake st tid
    checkRoom st c 1
    let (id, st) := st.freshId
    .error (.off .vecRecv (st.pushVec tid.tile ctx 1 [⟨id, i, [], c.vl, [], false, 0, none⟩]))

end Sys2Proof.Machine
end

