-- ==== Sys2Proof/Machine/Sequencer.lean ====
section
/-! DEFINITION. The execution of a claim's queue by the vector sequencer (R311 to R315, R318 to R324, R512). -/

namespace Sys2Proof.Machine

/-- Changes the instruction at the head of a claim's queue. -/
def VCtx.modHead (c : VCtx) (f : VOp → VOp) : VCtx :=
  { c with queue := updAt c.queue 0 fun q => { q with ops := updAt q.ops 0 f } }

/-- The head instruction has executed: a REPF block keeps its queue entries until its last run's last word (R331). -/
def VCtx.popHead (c : VCtx) : VCtx :=
  { c with queue := match c.queue with
      | [] => []
      | q :: qs => if q.ops.length ≤ 1 then qs else { q with ops := q.ops.drop 1 } :: qs }

/-- Marks a claim with the first fault that arrives after push (R315). -/
def VCtx.marked (c : VCtx) (cause : Cause) (tval : Word) : VCtx := if c.mark.isSome then c else { c with mark := some (cause, tval) }

/-- Marks a claim whose head instruction stops before a faulted stream element (R512). -/
def VCtx.halted (c : VCtx) (cause : Cause) (tval : Word) : VCtx := { c with stop := some (cause, tval) }

/-- TVAL of the SOFT trap of R315. -/
def vecSoftTval (d slot : Nat) : Word := BitVec.ofNat 32 (0x40000000 + d * 256 + slot)

/-- The head instruction ends: its context after it, and its flags into FFLAGS (R135, R314). -/
def State.finishVec (st : State) (tile : TileId) (ctx : Nat) (c : VCtx) (fl : FFlags) : State :=
  (st.modVec tile ctx fun _ => c.popHead).modThread ⟨tile, c.owner⟩ fun t => t.orFlags fl

/-- The word that a store's element takes from a register (Table 5.6, R320). -/
def VMem.storeWord (m : VMem) (c : VCtx) (e : Entry) (l : VLane) : Word :=
  if m.form < 2 then BitVec.ofNat 32 ((c.slot m.d.toNat l.slot).toNat / 2 ^ (8 * e.size * l.sub) % 2 ^ (8 * e.size))
  else storeBits e.elem (c.slot m.d.toNat l.slot)

/-- A store executes: its elements get their data, read in queue order (R321). -/
def State.startStores (st : State) (tile : TileId) (ctx : Nat) (c : VCtx) (m : VMem) (e : Entry) (o : VOp) : State :=
  let st := { st with accesses := st.accesses.map fun (a : Access) => match a.lane with
    | some (_, op, i) =>
      if op = o.id ∧ a.agent.tile = tile ∧ a.kind.writes then { a with data := (o.lanes[i]?).map (m.storeWord c e) } else a
    | none => a }
  st.modVec tile ctx fun c => c.modHead fun o => { o with started := true }

/-- Puts loaded elements into their slots: a packed slot takes its elements' bytes, a slot with a bad element becomes zero and the claim
is marked (R315). -/
def VMem.loaded (m : VMem) (c : VCtx) (e : Entry) (lanes : List VLane) (bad : Option Nat) : VCtx :=
  let isBad (l : VLane) : Bool := l.bad || bad == some l.slot
  let word (l : VLane) : Word := l.value.getD 0#32
  let c := c.write m.d.toNat fun i =>
    match lanes.filter (·.slot = i) with
    | [] => none
    | ls => if ls.any isBad then some 0#32
            else if m.form < 2 then some (BitVec.ofNat 32 (ls.foldl (fun n l => n + (word l).toNat * 2 ^ (8 * e.size * l.sub)) 0))
            else ls.head?.map word
  match lanes.find? isBad with
  | some l => c.marked .soft (vecSoftTval m.d.toNat l.slot)
  | none => c

/-- One element of a VPOP (R322, R512): the context and the stream after it, none when it cannot go on now. An uncorrectable element
marks the claim with its slot, whether the slot is active or not: it is popped either way (log entry 53). -/
def vpopStep (c : VCtx) (o : VOp) (d : VReg) (k : Nat) (m : Nat) (b : Stream) : Option (VCtx × Stream) :=
  let put (w : Word) : VCtx := c.write d.toNat fun i => if i = o.prog ∧ (c.mask k).getLsbD i then some w else none
  match b.queue with
  | .word w :: q => some ((put w).modHead fun o => { o with prog := o.prog + 1 }, { b with queue := q, pos := b.pos + 1 })
  | .bad :: q => some (((put 0#32).marked .soft (vecSoftTval d.toNat o.prog)).modHead fun o => { o with prog := o.prog + 1 },
      { b with queue := q, pos := b.pos + 1 })
  | .fault cause :: _ => some (c.halted cause (streamTval m b.entry), b)
  | _ => none

/-- The head instruction acts on a stream: it ends after its last element, an unbound stream marks the claim by R171, and a marked one
waits until the trap has been taken (R512). -/
def State.vecStreamStep (st : State) (tile : TileId) (ctx : Nat) (c : VCtx) (o : VOp) (m : Nat)
    (step : State → Thread → Stream → Option (VCtx × Stream × State)) : State :=
  let tid : ThreadId := ⟨tile, c.owner⟩
  if o.vl ≤ o.prog then st.finishVec tile ctx c fNone
  else if c.stop.isSome then st
  else match st.thread? tid with
    | none => st
    | some t => match t.stream? m with
      | none => st.modVec tile ctx fun c => c.halted .access (streamTval m 0)
      | some b => match step st t b with
        | none => st
        | some (c, b, st) =>
          let spent := !b.write && decide (b.length ≤ b.pos)
          let st := (st.modVec tile ctx fun _ => c).modThread tid fun t =>
            t.setStream m (some { b with regs := if spent then [] else b.regs })
          if spent then st.release b.regs else st

/-- One element of a VPUSH (R322, R512). -/
def vpushStep (tid : ThreadId) (c : VCtx) (o : VOp) (d : VReg) (m : Nat) (st : State) (t : Thread) (b : Stream) :
    Option (VCtx × Stream × State) :=
  if 16 ≤ b.queue.length then none
  else match streamTarget st tid t.priv b b.pos with
    | .error cause => some (c.halted cause (streamTval m b.entry), b, st)
    | .ok (target, st) => some (c.modHead fun o => { o with prog := o.prog + 1 },
        { b with queue := b.queue ++ [.store (c.slot d.toNat o.prog) target], pos := b.pos + 1 }, st)

/-- The progress word of VRECVADD (Table 11.8). -/
def recvAddWord (w : Word) (slot left : Nat) : Word := BitVec.ofNat 32 (w.toNat / 2 ^ 24 * 2 ^ 24 + slot * 65536 + left)

/-- Adds a message's words by R324: the context, SLOT and LEFT after them, and the flags. -/
def recvAddWords (isInt : Bool) (d vl : Nat) : List Word → VCtx × Nat × Nat × FFlags → VCtx × Nat × Nat × FFlags
  | [], r => r
  | u :: us, (c, slot, left, fl) =>
    if left = 0 then (c, slot, left, fl)
    else
      let s := slot % vl
      let r : FRes := if isInt then ⟨c.slot d s + u, fNone⟩ else fAdd (c.slot d s) u
      recvAddWords isInt d vl us (c.write d fun i => if i = s then some r.bits else none, (s + 1) % 256, left - 1, fl ||| r.flags)

/-- VRECVADD at the head of its queue (R324): it posts a RECV of eight words, adds a message that it has taken, and ends. -/
def State.recvAddStep (st : State) (tile : TileId) (ctx : Nat) (c : VCtx) (o : VOp) (d : VReg) (n : Nat) (s : BitVec 2) : State :=
  let tid : ThreadId := ⟨tile, c.owner⟩
  match st.thread? tid with
  | none => st
  | some t =>
    match t.reg n with
    | .pending .. | .corrupt => st
    | .ready w =>
      let left := w.toNat % 65536
      let finish (st : State) : State :=
        let st := st.modVec tile ctx VCtx.popHead
        (st.dealThread tid).complete tid s 4 .fall (if t.step then some stepTval else none)
      if o.vl = 0 ∨ left = 0 then finish st
      else match o.msg with
        | some m =>
          let r := recvAddWords (w.getLsbD 25) d.toNat o.vl m.words (c, w.toNat / 65536 % 256, left, fNone)
          let st := (st.modVec tile ctx fun _ => r.1.modHead fun o => { o with msg := none, started := false }).modThread tid
            fun t => (t.setX n (recvAddWord w r.2.1 r.2.2.1)).orFlags r.2.2.2
          if r.2.2.1 = 0 then finish st else st
        | none =>
          if o.started then st
          else
            let st := st.modVec tile ctx fun c => c.modHead fun o => { o with started := true }
            (st.modTile tile fun tl => { tl with recvs := tl.recvs ++ [⟨w.toNat / 2 ^ 26, 8, coreOf c.owner, 0, some ctx⟩] }).matchRecvs tile

/-- Writes VGADDR's results (R319). -/
def VCtx.putLanes (c : VCtx) (d : Nat) (lanes : List VLane) : VCtx :=
  [0, 1].foldl (fun c sub => c.write (d + sub) fun i =>
    (lanes.find? fun l => l.slot = i ∧ l.sub = sub).bind (·.value)) c

/-- VECTOR_COMPLETE (R313, R314): the instruction at the head of a claim's queue executes as far as it can; `bad` names a slot
whose host-space element the host refused (R315). -/
def execVectorComplete (tile : TileId) (ctx : Nat) (bad : Option Nat) (st : State) : Host.Outcome State Fault Refusal :=
  match (st.vec? tile ctx).bind fun c => c.queue.head?.bind fun q => q.ops.head?.map fun o => (c, o) with
  | none => .next st
  | some (c, o) =>
    match vmemOf o.instr, st.launchOf tile with
    | some m, some la =>
      let e := la.kernel.entryOf m.l.toNat
      if m.stores then
        if !o.started then .next (st.startStores tile ctx c m e o)
        else if o.lanes.any fun l => st.accesses.any fun a => l.access == some a.id then .next st
        else .next (st.finishVec tile ctx (match bad with
          | some i => c.marked .soft (vecSoftTval m.d.toNat i)
          | none => c) fNone)
      else if o.lanes.all (·.value.isSome) then .next (st.finishVec tile ctx (m.loaded c e o.lanes bad) fNone)
      else .next st
    | _, _ =>
      match o.instr with
      | .vpop _ d m k => .next (st.vecStreamStep tile ctx c o m.toNat fun st _ b =>
          (vpopStep c o d k.toNat m.toNat b).map fun r => (r.1, r.2, st))
      | .vpush _ d m => .next (st.vecStreamStep tile ctx c o m.toNat (vpushStep ⟨tile, c.owner⟩ c o d m.toNat))
      | .vrecvadd s d n => .next (st.recvAddStep tile ctx c o d n.toNat s)
      | .mtov .. =>
        if o.lanes.all (·.value.isSome) then
          .next (st.finishVec tile ctx (c.putLanes (descField (o.xs.getD 0 0#32) 8 5) o.lanes) fNone)
        else .next st
      | .vgaddr _ d _ _ _ => .next (st.finishVec tile ctx (c.putLanes d.toNat o.lanes) fNone)
      | i =>
        let r := vecEffect i o.xs o.vl c
        .next (st.finishVec tile ctx r.1 r.2)

/-! ## REPF (R331) -/

/-- Adds to a five-bit field of a word, modulo 32. -/
def bumpField (w lo δ : Nat) : Nat := w - w / 2 ^ lo % 32 * 2 ^ lo + (w / 2 ^ lo + δ) % 32 * 2 ^ lo

/-- The word of a block as run r modifies it: vd, va and vb where its format has them. -/
def repfWord (w x y z r : Nat) : Nat :=
  let op := w / 2 ^ 24 % 64
  let w := bumpField w 19 (r * x)
  let w := if op = 0x34 then w else bumpField w 14 (r * y)
  if op = 0x34 ∨ op = 0x33 then w else bumpField w 9 (r * z)

/-- Whether a block word may be captured: majors 0x31 to 0x37 with S = 0, and no form that R331 rules out. -/
def repfAllowed (w : Nat) (i : Instr) : Bool :=
  let op := w / 2 ^ 24 % 64
  decide (0x31 ≤ op) && decide (op ≤ 0x37) && decide (w / 2 ^ 30 % 4 = 0) &&
  match i with
  | .vextr .. | .vrecvadd .. | .vgaddr .. => false
  | i => (vmemOf i).isNone

/-- Whether the deltas mark a mask field of an instruction. -/
def marksMask (i : Instr) (x y z : Nat) : Bool :=
  match i with
  | .vcmp .. => x != 0
  | .vkand .. | .vkor .. | .vkxor .. | .vknot .. => x != 0 || y != 0 || z != 0
  | _ => false

/-- Decodes a block word for a run. -/
def repfDecode (w x y z r : Nat) : Except Stop Instr :=
  let m := repfWord w x y z r
  match decodeWord m with
  | .ok i =>
    if repfAllowed m i && !vecIllegal i && !marksMask i x y z then .ok i else .error (.trap .illegal (BitVec.ofNat 32 m))
  | .error _ => .error (.trap .illegal (BitVec.ofNat 32 m))

/-- Every captured instruction of every run, in order, each with the place of its word in the block. -/
def repfRuns (ws : List Nat) (x y z : Nat) : List Nat → Except Stop (List (Nat × Instr))
  | [] => .ok []
  | r :: rs => do
    let is ← ws.mapM fun w => repfDecode w x y z r
    let rest ← repfRuns ws x y z rs
    .ok (is.zipIdx.map (fun p => (p.2, p.1)) ++ rest)

/-- The stream checks of every captured VPOP and VPUSH, with the counts of those before it. -/
def repfStreams (t : Thread) (c : VCtx) : List (Nat × Nat) → List (Nat × Instr) → Except Stop Unit
  | _, [] => .ok ()
  | used, (_, i) :: rest =>
    match vecStream i with
    | some (m, write) =>
      let ahead := ((used.find? (·.1 = m)).map (·.2)).getD (c.projected m)
      match checkVecStream t m write ahead c.vl with
      | .error e => .error e
      | .ok _ => repfStreams t c ((m, ahead + c.vl) :: used) rest
    | none => repfStreams t c used rest

/-- The scalar operands of the words of a block, each read once. -/
def repfScalars (st : State) (t : Thread) : List (Nat × Instr) → Except Stop (List (List Word) × Thread)
  | [] => .ok ([], t)
  | (_, i) :: rest => do
    let (xs, t) ← needFields st t (vecFields i)
    let (more, t) ← repfScalars st t rest
    .ok (xs :: more, t)

/-- Numbers captured instructions as queue contents. -/
def repfOps (vl : Nat) (xss : List (List Word)) : List (Nat × Instr) → State → List VOp × State
  | [], st => ([], st)
  | (j, i) :: rest, st =>
    let (id, st) := st.freshId
    let (ops, st) := repfOps vl xss rest st
    (⟨id, i, xss.getD j [], vl, [], false, 0, none⟩ :: ops, st)

/-- REPF (R331): the block's runs enter the claim's queue in one turn, and the PC moves past the block. The order of the checks over the
block, and the word in TVAL when the block reaches past the code section, are the model's (log entry 57). -/
def execRepf (s : BitVec 2) (d : XField) (n : BitVec 4) (x y z : BitVec 2) (st : State) : Host.Outcome State Fault Refusal :=
  let cnt := n.toNat + 1
  issueWith false st s (4 + 4 * cnt) fun tid t => do
    match st.launchOf tid.tile with
    | none => .error .hold
    | some la =>
      generalChecks t [d] []
      let (count, t) ← needField st t d
      if 4096 < count.toNat then .error (.trap .bounds count)
      if count = 0#32 then .ok { st := st.setThread tid t }
      else
        let word (j : Nat) : Nat := memRead st.mem (codeKey tid.tile.part tid.tile.slot (t.pc.toNat + 4 + 4 * j)) 4
        if la.kernel.codeSize ≤ t.pc.toNat + 4 + 4 * cnt then
          let inside := (la.kernel.codeSize - (t.pc.toNat + 4)) / 4
          .error (.trap .illegal (if inside = 0 then wordOf (.repf s d n x y z) else BitVec.ofNat 32 (word (min inside cnt - 1))))
        let runs ← repfRuns ((List.range cnt).map word) x.toNat y.toNat z.toNat (List.range count.toNat)
        let fields := (runs.take cnt).flatMap fun r => vecFields r.2
        generalChecks t fields []
        let (ctx, c) ← vecGate st tid t
        let (xss, t') ← repfScalars st t (runs.take cnt)
        if runs.any fun r => (vecStream r.2).isSome then checkHold t
        repfStreams t' c [] runs
        match runs.findSome? fun r => vecEntryTrap r.2 c.vl with
        | some (cause, v) => .error (.trap cause v)
        | none => pure ()
        checkVecAwake st tid
        checkRoom st c cnt
        let (ops, st) := repfOps c.vl xss runs st
        .ok { st := (st.setThread tid t').pushVec tid.tile ctx cnt ops }

end Sys2Proof.Machine
end

