-- ==== Sys2Proof/Machine/Lease.lean ====
section
/-! DEFINITION. Leases of the matrix array, plane records and their reload, and the rows of an MMA (R177 to R182, R190, R191,
R192, R201, R340, R347, R348). -/

namespace Sys2Proof.Machine

/-- Changes a tile's array. -/
def State.modArr (st : State) (tile : TileId) (f : MatArray → MatArray) : State := st.modTile tile fun tl => { tl with arr := f tl.arr }

/-! ## Members and requests (R177) -/

/-- Whether a core has a lease member. -/
def Tile.hasMember (tl : Tile) (c : Nat) : Bool := tl.threads.any fun e => coreOf e.1 == c && e.2.member

/-- Whether a core's request for the lease is outstanding. -/
def Tile.requests (tl : Tile) (c : Nat) : Bool := tl.hasMember c && tl.arr.holder != some c

/-- The requesting cores in ascending order, wrapping, from one on. -/
def Tile.requestersFrom (tl : Tile) (c : Nat) : List Nat := ((List.range 8).map fun i => (c + i) % 8).filter tl.requests

/-! ## Plane records (R190, R340) -/

/-- Whether an instruction is MITER or MPOLY. -/
def isIter : Instr → Bool
  | .miterNs3 .. | .miterNs5 .. | .miterInv .. | .mpoly .. => true
  | _ => false

/-- A plane as the checks at issue see it: its record, and a fault of its reload. -/
abbrev PlaneView := PlaneSrc × Option (Cause × Word × Nat × Word)

/-- What a command does to the records of its core (R340), active and shadow. -/
def MatCmd.project (c : MatCmd) (r : PlaneView × PlaneView) : PlaneView × PlaneView :=
  match c.instr with
  | .mswap _ => (r.2, r.1)
  | .mloads .. | .mloadsFb .. => (r.1, (c.src.getD PlaneSrc.empty, none))
  | i => if isIter i then ((PlaneSrc.empty, none), (PlaneSrc.empty, none)) else r

/-- The projected records of a core (R340). -/
def Tile.projected (tl : Tile) (c : Nat) : PlaneView × PlaneView :=
  let co := tl.core c
  let held (f : Option (Cause × Word × Nat × Word)) := if tl.arr.holder = some c then f else none
  co.mcmds.foldl (fun r m => m.project r) ((co.active, held tl.arr.active.fault), (co.shadow, held tl.arr.shadow.fault))

/-! ## The lease passes (R178, R191, R201) -/

/-- The lease goes to a core, or is left unheld: the planes are lost, the budget starts, and the recorded planes of the new
holder are to be reloaded, active first. -/
def Tile.grant (tl : Tile) (c : Option Nat) : Tile :=
  let tl := { tl with arr := { tl.arr with holder := c, cmds := 0, cyc := 0, active := Plane.empty, shadow := Plane.empty } }
  match c with
  | none => tl
  | some c => tl.modCore c fun co =>
      { co with reload := (if co.active.code = 0 then [] else [false]) ++ (if co.shadow.code = 0 then [] else [true]) }

/-- MLS from its fields (Table 6.3). -/
def mlsWord (r : Word) (stat run form acc k : Nat) : BitVec 64 :=
  BitVec.ofNat 64 (r.toNat * 2 ^ 32 + stat % 8 * 2 ^ 29 + run % 4 * 2 ^ 27 + form % 8 * 2 ^ 24 + acc % 8 * 2 ^ 21 + k % 2048)
/-- A field of MLS. -/
def mlsField (m : BitVec 64) (lo n : Nat) : Nat := (m.extractLsb' lo n).toNat
/-- MLS with another STAT. -/
def mlsStat (m : BitVec 64) (stat : Nat) : BitVec 64 :=
  mlsWord (m.extractLsb' 32 32) stat (mlsField m 27 2) (mlsField m 24 3) (mlsField m 21 3) (mlsField m 0 11)

/-- The accumulator of an iteration, relative to its group. -/
def iterAcc : Instr → Nat
  | .miterNs3 _ d _ _ => d.toNat
  | .miterNs5 _ d _ _ => d.toNat
  | .miterInv _ d _ _ _ => d.toNat
  | .mpoly _ d _ _ => d.toNat
  | _ => 0

/-- An accumulator of +0. -/
def accZero : List Word := List.replicate 4096 0#32

/-- Writes an accumulator. -/
def MatArray.setAcc (a : MatArray) (n : Nat) (v : List Word) : MatArray := { a with accs := setPad accZero a.accs n v }
/-- Reads an accumulator. -/
def MatArray.acc (a : MatArray) (n : Nat) : List Word := a.accs.getD n accZero

/-- R201: a started iteration of a core is interrupted. Its step is discarded, X is as it was, its workspace is zeroed, MLS
takes STAT = 1, both planes of the core are empty, and its thread waits for the lease to reissue it. -/
def State.interruptIter (st : State) (tile : TileId) (core : Nat) : State :=
  match st.tile? tile with
  | none => st
  | some tl =>
    match (tl.core core).mcmds with
    | c :: rest =>
      if isIter c.instr && c.started.isSome then
        let a := c.base + iterAcc c.instr
        let st := st.modCore tile core fun co => { co with mcmds := rest, active := PlaneSrc.empty, shadow := PlaneSrc.empty }
        let st := st.modArr tile fun r => { (r.setAcc (a + 1) accZero).setAcc (a + 2) accZero with active := Plane.empty, shadow := Plane.empty }
        (st.modThread ⟨tile, c.thr⟩ fun t => { t with mls := mlsStat t.mls 1 }).goOff ⟨tile, c.thr⟩ .lease
      else st
    | [] => st

/-- A core that loses the lease in the middle of a reload gives the loader's registration up. -/
def State.dropReload (st : State) (tile : TileId) (core : Nat) : State :=
  match st.tile? tile with
  | none => st
  | some tl => (st.release ((tl.core core).reloadRegs.getD [])).modCore tile core fun co => { co with reloadRegs := none, reloadAt := none }

/-- R178 after a member has joined or left: an unheld lease goes to the lowest requesting core, and a holder without members
gives it up. -/
def State.settleLease (st : State) (tile : TileId) : State :=
  match st.tile? tile with
  | none => st
  | some tl =>
    match tl.arr.holder with
    | none => match tl.requestersFrom 0 with
      | c :: _ => st.modTile tile fun tl => tl.grant (some c)
      | [] => st
    | some h => if tl.hasMember h then st
      else (st.dropReload tile h).modTile tile fun tl => tl.grant (tl.requestersFrom (h + 1)).head?

/-- Whether the array executes a command that completes before the lease passes (R181). -/
def Tile.arrayBusy (tl : Tile) : Bool :=
  match tl.arr.holder with
  | none => false
  | some h => (tl.core h).mcmds.any fun c => c.started.isSome && !isIter c.instr

/-- Whether the lease's budget is spent (R178). -/
def MatArray.spent (a : MatArray) : Bool := decide (32 ≤ a.cmds) || decide (16384 ≤ a.cyc)

/-- LEASE_BUDGET_SPENT (R178, R181): the lease passes to the next requesting core, or its budget restarts. -/
def execLeaseBudgetSpent (tile : TileId) (st : State) : Host.Outcome State Fault Refusal :=
  match st.tile? tile with
  | none => .next st
  | some tl =>
    match tl.arr.holder with
    | none => .next st
    | some h =>
      if !tl.arr.spent then .next st
      else match tl.requestersFrom (h + 1) with
        | [] => .next (st.modArr tile fun a => { a with cmds := 0, cyc := 0 })
        | c :: _ => if tl.arrayBusy then .next st
          else .next (((st.interruptIter tile h).dropReload tile h).modTile tile fun tl => tl.grant (some c))

/-! ## Rows of an MMA (R192, R347, R348) -/

/-- The fields of an MMA: destination, L6, zero, compensated, sparse. -/
structure MmaForm where
  d : Nat
  l6 : Bool
  z : Bool
  comp : Bool
  sp : Bool
  /-- The stream register, or the accumulator and transpose of the feedback form. -/
  stream : Option Nat
  fb : Nat × Bool

/-- The form of an MMA. -/
def mmaForm : Instr → Option MmaForm
  | .mma _ d _ m l z c p => some ⟨d.toNat, l, z, c, p, some m.toNat, (0, false)⟩
  | .mmaFb _ d b _ z t => some ⟨d.toNat, false, z, false, false, none, (b.toNat, t)⟩
  | _ => none

/-- The row count of a scalar operand (R345, R354). -/
def rowCount (x : Word) : Nat := x.toNat % 128

/-- The row slots of some rows (R348). -/
def MmaForm.slotsOf (f : MmaForm) (rows : Nat) : Nat := (if f.l6 then (rows + 1) / 2 else rows) * (if f.comp then 2 else 1)

/-- The row slots that an MMA may be admitted with the elements that the array has (R348); a compensated MMA fills the row buffer
with them first, and updates once it has them all (R194). -/
def MatCmd.available (c : MatCmd) : Nat :=
  match mmaForm c.instr with
  | none => 0
  | some f =>
    let rows := match f.stream with
      | none => rowCount c.x
      | some _ =>
        let depth := planeDepth f.l6 ((c.src.map (·.width)).getD 0)
        let rows := c.data.length / depth
        if f.l6 then min rows (c.scales.length / (depth / 32)) else rows
    if f.comp ∧ rows < rowCount c.x then f.slotsOf rows / 2 else f.slotsOf rows

/-- The row slots of an MMA in all (R348). -/
def MatCmd.total (c : MatCmd) : Nat := ((mmaForm c.instr).map fun f => f.slotsOf (rowCount c.x)).getD 0

/-- The dense depth of an MMA's plane. -/
def MatCmd.depth (c : MatCmd) (f : MmaForm) : Nat := planeDepth f.l6 ((c.src.map (·.width)).getD 0)

/-- Whether the array has popped an MMA's last row (Table 12.2). -/
def MatCmd.fetched (c : MatCmd) (f : MmaForm) : Bool :=
  f.stream.isNone || (decide (rowCount c.x * c.depth f ≤ c.data.length) &&
    (!f.l6 || decide (rowCount c.x * (c.depth f / 32) ≤ c.scales.length)))

end Sys2Proof.Machine
end

