-- ==== Sys2Proof/Machine/Matrix.lean ====
section
/-! DEFINITION. The issue of the matrix instructions (R333 to R346, R349, R353 to R355). -/

namespace Sys2Proof.Machine

/-! ## Stages of issue (R333) -/

/-- Stage 2: a matrix command's thread is a lease member. -/
def checkMember (t : Thread) : Except Stop Unit := if t.member then .ok () else .error (.trap .lease 1#32)

/-- Stage 3: the accumulators named lie in the thread's group; the answer is its physical base. -/
def checkGroup (t : Thread) (accs : List Nat) : Except Stop Nat :=
  match t.accGroup with
  | some (b, n) => if accs.all (· < n) then .ok b else .error (.trap .lease 2#32)
  | none => .error (.trap .lease 2#32)

/-- Stage 6: a deferred data error (R334); its mark clears as it traps. -/
def checkMark (st : State) (tid : ThreadId) (t : Thread) : Except Stop Unit :=
  if t.matMark then .error (.trapIn .soft 0x20000000#32 none (st.modThread tid fun t => { t with matMark := false })) else .ok ()

/-- Whether the array accepts a command of a core now: the core holds the lease, its planes are reloaded, its budget is not spent,
and its queue of 8 has room (R180, R191). -/
def Tile.accepts (tl : Tile) (core : Nat) : Bool :=
  tl.arr.holder == some core && (tl.core core).reload.isEmpty && decide ((tl.core core).mcmds.length < 8) && !tl.arr.spent

/-- Stage 7; an array that is powered down is woken first (R504). -/
def checkArray (st : State) (tid : ThreadId) : Except Stop Unit :=
  match st.tile? tid.tile with
  | none => .error .hold
  | some tl =>
    let dark := match tl.berth with
      | some b => st.isDark b 1
      | none => false
    if dark then .error (.off .wake (st.requestWake (tl.berth.getD 0) 1))
    else if tl.accepts (coreOf tid.thr) then .ok () else .error (.off .lease st)

/-- Stage 8: acceptance, which counts one command; the answer is the command's identifier. -/
def State.accept (st : State) (tid : ThreadId) (i : Instr) (x : Word) (base : Nat) (src : Option PlaneSrc) : Nat × State :=
  let (id, st) := st.freshId
  let pc := ((st.thread? tid).map (·.pc)).getD 0#32
  let c : MatCmd := ⟨id, tid.thr, i, x, base, src, ⟨[], [], []⟩, [], none, [], [], 0, false, [], none, pc, 0⟩
  (id, (st.modCore tid.tile (coreOf tid.thr) fun co => { co with mcmds := co.mcmds ++ [c] }).modArr tid.tile
    fun a => { a with cmds := a.cmds + 1 })

/-- Changes an accepted command. -/
def State.modCmd (st : State) (tile : TileId) (core id : Nat) (f : MatCmd → MatCmd) : State :=
  st.modCore tile core fun co => { co with mcmds := co.mcmds.map fun c => if c.id = id then f c else c }

/-- The accepted commands of a thread that have not completed. -/
def State.cmdsOf (st : State) (tid : ThreadId) : List MatCmd :=
  match st.tile? tid.tile with
  | none => []
  | some tl => (tl.core (coreOf tid.thr)).mcmds.filter (·.thr = tid.thr)

/-- The projected records of a thread's core. -/
def State.planesOf (st : State) (tid : ThreadId) : PlaneView × PlaneView :=
  match st.tile? tid.tile with
  | none => ((PlaneSrc.empty, none), (PlaneSrc.empty, none))
  | some tl => tl.projected (coreOf tid.thr)

/-! ## MLEASE, MACCA, MCOEF and MSTAT (R336 to R339) -/

/-- MLEASE (R336): joins the lease members of the core. -/
def execMlease (s : BitVec 2) (st : State) : Host.Outcome State Fault Refusal :=
  issue st s 4 fun tid t => do
    checkMark st tid t
    .ok { st := (st.modThread tid fun t => { t with member := true }).settleLease tid.tile }

/-- MLEASE.rel (R336): blocks until the thread's commands have completed, and leaves. -/
def execMleaseRel (s : BitVec 2) (st : State) : Host.Outcome State Fault Refusal :=
  issue st s 4 fun tid t => do
    checkMark st tid t
    if t.member && !(st.cmdsOf tid).isEmpty then .error (.off .matrix st)
    .ok { st := (st.modThread tid fun t => { t with member := false }).settleLease tid.tile }

/-- Whether a range of accumulators is free. -/
def Tile.accFree (tl : Tile) (b n : Nat) : Bool :=
  tl.threads.all fun e => match e.2.accGroup with
    | some (b', n') => decide (b + n ≤ b') || decide (b' + n' ≤ b)
    | none => true

/-- MACCA (R183, R337): a group of n at the lowest free base, zeroed. -/
def execMacca (s : BitVec 2) (n : BitVec 3) (st : State) : Host.Outcome State Fault Refusal :=
  issue st s 4 fun tid t => do
    let n := n.toNat + 1
    if t.accGroup.isSome then .error (.trap .lease 4#32)
    match st.tile? tid.tile with
    | none => .error .hold
    | some tl =>
      match (List.range (9 - n)).find? fun b => tl.accFree b n with
      | none => .error (.trap .lease 3#32)
      | some b =>
        checkMark st tid t
        .ok { st := (st.modThread tid fun t => { t with accGroup := some (b, n) }).modArr tid.tile
                fun a => (List.range n).foldl (fun (a : MatArray) i => a.setAcc (b + i) accZero) a }

/-- MCOEF (R338). -/
def execMcoef (s : BitVec 2) (n : BitVec 3) (x : XField) (st : State) : Host.Outcome State Fault Refusal :=
  issue st s 4 fun tid t => do
    generalChecks t [x] []
    let (v, t') ← needField st t x
    checkMark st tid t
    .ok { st := st.setThread tid { t' with coefs := setPad 0#32 t'.coefs n.toNat v } }

/-- MCOEF.r (R338). -/
def execMcoefR (s : BitVec 2) (n : BitVec 3) (x : XField) (st : State) : Host.Outcome State Fault Refusal :=
  issue st s 4 fun tid t => do
    generalChecks t [] [x]
    checkMark st tid t
    let t ← writeField st t x (.ready (t.coefs.getD n.toNat 0#32))
    .ok { st := st.setThread tid t }

/-- An MSTAT that does not wait: its mark, and its word. -/
def opMstat (st : State) (s : BitVec 2) (x : XField) (f : ThreadId → Thread → Word) : Host.Outcome State Fault Refusal :=
  issue st s 4 fun tid t => do
    generalChecks t [] [x]
    checkMark st tid t
    let t' ← writeField st t x (.ready (f tid t))
    .ok { st := st.setThread tid t' }

/-- MSTAT.wait (R339): blocks until every command of the thread has completed. -/
def execMstatWait (s : BitVec 2) (x : XField) (st : State) : Host.Outcome State Fault Refusal :=
  issue st s 4 fun tid t => do
    generalChecks t [] [x]
    checkMark st tid t
    if !(st.cmdsOf tid).isEmpty then .error (.off .matrix st)
    let t ← writeField st t x (.ready 0#32)
    .ok { st := st.setThread tid t }
/-- MSTAT.grp. -/
def execMstatGrp (s : BitVec 2) (x : XField) (st : State) := opMstat st s x fun _ t =>
  match t.accGroup with
  | some (b, n) => BitVec.ofNat 32 (b * 16 + n)
  | none => 0#32
/-- MSTAT.plane. -/
def execMstatPlane (s : BitVec 2) (x : XField) (st : State) := opMstat st s x fun tid _ =>
  let p := st.planesOf tid
  BitVec.ofNat 32 (p.2.1.code * 16 + p.1.1.code)
/-- MSTAT.cmds. -/
def execMstatCmds (s : BitVec 2) (x : XField) (st : State) := opMstat st s x fun tid _ => BitVec.ofNat 32 (st.cmdsOf tid).length

/-! ## MLOADS and MSWAP (R340 to R344) -/

/-- The coordinates of plane element (k, n) from an origin (R185). -/
def planeCoords (o : List Int) (k n : Nat) : List Int :=
  match o with
  | [a] => [a + (64 * k + n : Nat)]
  | a :: b :: rest => (a + (n : Int)) :: (b + (k : Int)) :: rest
  | [] => []

/-- Whether a record holds L6. -/
def PlaneSrc.l6 (p : PlaneSrc) : Bool := p.code == 2 || p.code == 4
/-- Whether a record is sparse. -/
def PlaneSrc.sparse (p : PlaneSrc) : Bool := p.code == 3 || p.code == 4
/-- The kept K positions of a plane (R185). -/
def PlaneSrc.kept (p : PlaneSrc) : Nat := if p.l6 then 128 else 64
/-- The mask words of a column (R187). -/
def PlaneSrc.maskWords (p : PlaneSrc) : Nat := if p.sparse then 2 * (p.kept / p.width) else 0

/-- The element sequences that a plane reads: entry, and each element's column and coordinates. -/
def PlaneSrc.elements (p : PlaneSrc) : List (Nat × List Int) :=
  (List.range (p.kept * 64)).map fun i => (i % 64, planeCoords p.origin (i / 64) (i % 64))
/-- The scale elements by block and column (R186). -/
def PlaneSrc.scaleElements (p : PlaneSrc) (k : Kernel) : List (Nat × List Int) :=
  if p.l6 then
    let e := k.entryOf p.scale.1
    (List.range 256).map fun i => (i % 64, rowMajor (e.ext.take e.rank) (p.scale.2 + i))
  else []
/-- The mask words by group, column and half (R187). -/
def PlaneSrc.maskElements (p : PlaneSrc) (k : Kernel) : List (Nat × List Int) :=
  let e := k.entryOf (p.entry + 1)
  (List.range (p.maskWords * 64)).map fun i => (i / 2 % 64, rowMajor (e.ext.take e.rank) i)

/-- Resolves a sequence of elements, each with its column as the lane. -/
def resolveAll (k : Kernel) (own : Nat) (p : PlaneSrc) (kidx : Nat) (es : List (Nat × List Int)) : List (Nat × Except LocTrap Loc) :=
  es.map fun e => (e.1, resolveLoc k own p.thr p.priv kidx .read e.2 p.num e.1)

/-- The first trap of a resolution that a test picks. -/
def firstTrap (word : Word) (pick : Cause → Bool) (rs : List (Nat × Except LocTrap Loc)) : Except Stop Unit :=
  match rs.findSome? fun r => match r.2 with
    | .error e => if pick e.1 then some e else none
    | .ok _ => none with
  | some e => .error (locStop word e)
  | none => .ok ()

/-- Stage 5 for a sequence: the places of its elements, each page translated for the thread (R342 check 6). -/
def placeAll (st : State) (tid : ThreadId) (t : Thread) (k : Kernel) (kidx : Nat) :
    List (Nat × Except LocTrap Loc) → Except Stop (List (Option (Place × Nat)) × State)
  | [] => .ok ([], st)
  | (lane, r) :: rest =>
    match r with
    | .ok (.byte num space off code) => do
      let (p, st) ← placeOf st tid t k kidx lane num space off true false
      let (ps, st) ← placeAll st tid t k kidx rest
      .ok (some (p, code) :: ps, st)
    | _ => do
      let (ps, st) ← placeAll st tid t k kidx rest
      .ok (none :: ps, st)

/-- The checks of R342: the plane's places. -/
def planeCheck (st : State) (tid : ThreadId) (t : Thread) (k : Kernel) (word : Word) (p : PlaneSrc) (badWidth : Bool) :
    Except Stop (PlanePlaces × State) := do
  let e := k.entryOf p.entry
  let here := locTval p.entry 0 0
  if e.space = 6 ∧ !p.priv then .error (.trap .priv word)
  if e.space = 0 ∨ 4 < e.space then .error (.trap .access here)
  let own := tid.tile.num
  let es := resolveAll k own p p.entry p.elements
  firstTrap word (· != .bounds) es
  if e.elem ≠ (if p.l6 then 5 else 3) then .error (.trap .access here)
  if p.l6 ∧ (k.entryOf p.scale.1).elem ≠ 6 then .error (.trap .access (locTval p.scale.1 0 0))
  if badWidth then .error (.trap .access here)
  if p.sparse ∧ p.entry = 63 then .error (.trap .access (locTval 63 0 0))
  if p.sparse ∧ (k.entryOf (p.entry + 1)).elem ≠ 2 then .error (.trap .access (locTval (p.entry + 1) 0 0))
  let ss := resolveAll k own p p.scale.1 (p.scaleElements k)
  let ms := resolveAll k own p (p.entry + 1) (p.maskElements k)
  firstTrap word (fun _ => true) es
  firstTrap word (fun _ => true) ss
  firstTrap word (fun _ => true) ms
  let (a, st) ← placeAll st tid t k p.entry es
  let (b, st) ← placeAll st tid t k p.scale.1 ss
  let (c, st) ← placeAll st tid t k (p.entry + 1) ms
  .ok (⟨a, b, c⟩, st)

/-- Registers the ranges that a plane's loader reads (R109). -/
def State.registerPlane (st : State) (tile : TileId) (engine : Engine) (k : Kernel) (p : PlaneSrc) : List (TileId × Nat) × State :=
  let cover (kidx : Nat) (es : List (Nat × List Int)) : List Range :=
    coverRanges st k tile p.thr kidx .read (fun i => (es.getD i (0, [])).2) p.num es.length
  st.registerAll tile engine ((cover p.entry p.elements ++ cover p.scale.1 (p.scaleElements k) ++
    cover (p.entry + 1) (p.maskElements k)).map (·, false))

/-- MLOADS from a layout entry (R341, R342). An unresolved acquire holds the thread, whose plane reads follow it (R93 item 3, R97). -/
def execMloads (s : BitVec 2) (x : XField) (l p : Bool) (st : State) : Host.Outcome State Fault Refusal :=
  issue st s 4 fun tid t => do
    match st.launchOf tid.tile with
    | none => .error .hold
    | some la =>
      let k := la.kernel
      let i : Instr := .mloads s x l p
      checkLimits t [x]
      if t.isStream x then .error (.trap .illegal (wordOf i))
      checkEarly t [x]
      checkHold t
      checkMember t
      let w0 ← needReg st t x.toNat
      let kidx := descField w0 0 6
      let w := 1 + coordCount k kidx
      checkRanges t (wordOf i) [(x, w)]
      checkEarly t (rangeFields x w)
      let ws ← needRegs st t x.toNat w
      let r := (k.entryOf kidx).rank
      let wc := descField w0 6 2
      let src : PlaneSrc :=
        { code := (if l then 2 else 1) + (if p then 2 else 0), entry := kidx, origin := ((ws.drop 1).take r).map (·.toInt)
          num := (ws.getD (r + 1) 0#32).toNat, width := if p then 8 * 2 ^ wc else 0
          scale := (t.scp.toNat / 2 ^ 26, t.scp.toNat % 2 ^ 26), acc := 0, thr := tid.thr, priv := t.priv }
      let (places, st) ← planeCheck st tid t k (wordOf i) src (p && wc == 3)
      checkMark st tid t
      checkArray st tid
      let (id, st) := st.accept tid i w0 0 (some src)
      let (regs, st) := st.registerPlane tid.tile (.plane tid.tile id) k src
      .ok { st := st.modCmd tid.tile (coreOf tid.thr) id fun c => { c with places := places, regs := regs } }

/-- MLOADS.fb (R341, R343). -/
def execMloadsFb (s : BitVec 2) (b : BitVec 3) (tr : Bool) (st : State) : Host.Outcome State Fault Refusal :=
  issue st s 4 fun tid t => do
    checkMember t
    let base ← checkGroup t [b.toNat]
    checkMark st tid t
    checkArray st tid
    let src : PlaneSrc := { PlaneSrc.empty with code := if tr then 6 else 5, acc := base + b.toNat, thr := tid.thr }
    .ok { st := (st.accept tid (.mloadsFb s b tr) 0#32 base (some src)).2 }

/-- MSWAP (R344). -/
def execMswap (s : BitVec 2) (st : State) : Host.Outcome State Fault Refusal :=
  issue st s 4 fun tid t => do
    checkMember t
    checkMark st tid t
    checkArray st tid
    .ok { st := (st.accept tid (.mswap s) 0#32 0 none).2 }

/-! ## MMA (R345, R346) -/

/-- Check 2 of R346: whether a record serves an MMA. -/
def MmaForm.matches (f : MmaForm) (code : Nat) : Bool :=
  if f.sp then code == (if f.l6 then 4 else 3)
  else code == 0 || (if f.l6 then code == 2 else code == 1 || code == 5 || code == 6)

/-- A stream that the array reads or writes: bound to the thread in a direction, with an element code (R346, R354). -/
def matStream (t : Thread) (k : Kernel) (m : Nat) (write : Bool) (elem : Nat) : Except Stop Stream :=
  match t.stream? m with
  | none => .error (.trap .access (streamTval m 0))
  | some b =>
    if b.write ≠ write ∨ (k.entryOf b.entry).elem ≠ elem then .error (.trap .access (streamTval m b.entry)) else .ok b

/-- The elements that a claim's queue will still take from, or give to, a thread's stream. -/
def State.claimAhead (st : State) (tid : ThreadId) (t : Thread) (m : Nat) : Nat :=
  match t.claim.bind (st.vec? tid.tile) with
  | some c => c.projected m
  | none => 0

/-- The end of a sequence lies before the elements that a command needs. -/
def checkEnough (st : State) (tid : ThreadId) (t : Thread) (m : Nat) (b : Stream) (n : Nat) : Except Stop Unit :=
  if b.length < b.pos + st.claimAhead tid t m + n then .error (.trap .bounds (streamTval m b.entry)) else .ok ()

/-- Checks 3 and 4 of R346. -/
def mmaStreams (st : State) (tid : ThreadId) (t : Thread) (k : Kernel) (f : MmaForm) (depth rows : Nat) : Except Stop Unit :=
  match f.stream with
  | none => .ok ()
  | some m => do
    let b ← matStream t k m false (if f.l6 then 5 else 3)
    if f.l6 then
      let c ← matStream t k (m + 1) false 6
      checkEnough st tid t m b (rows * depth)
      checkEnough st tid t (m + 1) c (rows * (depth / 32))
    else checkEnough st tid t m b (rows * depth)

/-- The fault that a reload left in the active plane (R191): the first command that reads it traps, and the plane is reloaded
again. -/
def checkPlaneFault (st : State) (tid : ThreadId) (v : PlaneView) : Except Stop Unit :=
  match v.2 with
  | none => .ok ()
  | some (c, tv, va, info) =>
    .error (.trapIn c tv (some (va, info)) ((st.modArr tid.tile fun a =>
      { a with active := { a.active with fault := none }, shadow := { a.shadow with fault := none } }).modCore tid.tile (coreOf tid.thr)
      fun co => { co with reload := (if co.active.code = 0 then [] else [false]) ++ (if co.shadow.code = 0 then [] else [true]) }))

/-- An MMA (R345, R346): a stream form's thread is held until the array has popped its last row, and by an unresolved acquire before that
(R97). -/
def opMma (st : State) (s : BitVec 2) (i : Instr) (f : MmaForm) (x : XField) : Host.Outcome State Fault Refusal :=
  issue st s 4 fun tid t => do
    match t.matCmd with
    | some id => heldMma st tid id f
    | none =>
      match st.launchOf tid.tile with
      | none => .error .hold
      | some la =>
        generalChecks t [x] []
        if f.stream.isSome then checkHold t
        checkMember t
        let base ← checkGroup t ([f.d] ++ (if f.comp then [f.d + 1] else []) ++ (if f.stream.isNone then [f.fb.1] else []))
        let (v, t') ← needField st t x
        let rows := rowCount v
        if rows = 0 ∨ 64 < rows then .error (.trap .bounds v)
        let rec' := (st.planesOf tid).1
        if !f.matches rec'.1.code then .error (.trap .access (BitVec.ofNat 32 (0x40000000 + rec'.1.code)))
        let width := if f.sp then rec'.1.width else 0
        mmaStreams st tid t' la.kernel f (planeDepth f.l6 width) rows
        checkPlaneFault st tid rec'
        checkMark st tid t
        checkArray st tid
        let (id, st) := (st.setThread tid t').accept tid i v base (some { PlaneSrc.empty with width := width })
        if f.stream.isNone then .ok { st := st }
        else .error (.wait (st.modThread tid fun t => { t with matCmd := some id }))
where
  /-- The turns of a thread that Table 12.2 holds at its MMA. -/
  heldMma (st : State) (tid : ThreadId) (id : Nat) (f : MmaForm) : Except Stop Done :=
    match (st.cmdsOf tid).find? (·.id = id) with
    | none => .ok { st := st }
    | some c => if c.fetched f then .ok { st := st } else .error .hold

/-- MMA with stream rows. -/
def execMma (s : BitVec 2) (d : BitVec 3) (x : XField) (m : BitVec 3) (l z c p : Bool) (st : State) :=
  opMma st s (.mma s d x m l z c p) ⟨d.toNat, l, z, c, p, some m.toNat, (0, false)⟩ x
/-- MMA with feedback rows. -/
def execMmaFb (s : BitVec 2) (d b : BitVec 3) (x : XField) (z tr : Bool) (st : State) :=
  opMma st s (.mmaFb s d b x z tr) ⟨d.toNat, false, z, false, false, none, (b.toNat, tr)⟩ x

/-! ## MITER, MPOLY, MZERO, MDRAIN and MTOV -/

/-- MITER and MPOLY (R349): the thread is blocked, with its PC on the instruction, until it ends. -/
def opIter (st : State) (s : BitVec 2) (i : Instr) (x : XField) (check : Word → Option Stop) (accs : List Nat) :
    Host.Outcome State Fault Refusal :=
  issue st s 4 fun tid t => do
    generalChecks t [x] []
    checkMember t
    let base ← checkGroup t accs
    let (v, t') ← needField st t x
    match check v with
    | some stop => .error stop
    | none => pure ()
    checkMark st tid t
    checkArray st tid
    .error (.off .matrix ((st.setThread tid t').accept tid i v base none).2)

/-- The check of a row count of MITER (R349). -/
def iterRows (v : Word) : Option Stop :=
  let m := descField v 16 7
  if m = 0 ∨ 64 < m then some (.trap .bounds v) else none

/-- MITER.ns3. -/
def execMiterNs3 (s : BitVec 2) (d : BitVec 3) (x : XField) (n : Bool) (st : State) :=
  opIter st s (.miterNs3 s d x n) x iterRows [d.toNat, d.toNat + 1, d.toNat + 2]
/-- MITER.ns5. -/
def execMiterNs5 (s : BitVec 2) (d : BitVec 3) (x : XField) (n : Bool) (st : State) :=
  opIter st s (.miterNs5 s d x n) x iterRows [d.toNat, d.toNat + 1, d.toNat + 2]
/-- MITER.inv: A lies outside a to a + 2 (R195). -/
def execMiterInv (s : BitVec 2) (d b : BitVec 3) (x : XField) (n : Bool) (st : State) :=
  opIter st s (.miterInv s d b x n) x
    (fun _ => if d.toNat ≤ b.toNat ∧ b.toNat ≤ d.toNat + 2 then some (.trap .illegal (wordOf (.miterInv s d b x n))) else none)
    [d.toNat, d.toNat + 1, d.toNat + 2, b.toNat]
/-- MPOLY. -/
def execMpoly (s : BitVec 2) (d : BitVec 3) (x : XField) (n : Bool) (st : State) :=
  opIter st s (.mpoly s d x n) x (fun _ => none) [d.toNat, d.toNat + 1, d.toNat + 2]

/-- MZERO (R353). -/
def execMzero (s : BitVec 2) (d : BitVec 3) (st : State) : Host.Outcome State Fault Refusal :=
  issue st s 4 fun tid t => do
    checkMember t
    let base ← checkGroup t [d.toNat]
    checkMark st tid t
    checkArray st tid
    .ok { st := (st.accept tid (.mzero s d) 0#32 base none).2 }

/-- MDRAIN (R354): the thread is held until the array has pushed the last element, and by an unresolved acquire before that (R93 item 3,
R97). -/
def execMdrain (s : BitVec 2) (d : BitVec 3) (x : XField) (m : BitVec 3) (z tr h u : Bool) (st : State) :
    Host.Outcome State Fault Refusal :=
  issue st s 4 fun tid t => do
    let i : Instr := .mdrain s d x m z tr h u
    match t.matCmd with
    | some id =>
      match (st.cmdsOf tid).find? (·.id = id) with
      | none => .ok { st := st }
      | some c => if 64 * rowCount c.x ≤ c.prog then .ok { st := st } else .error .hold
    | none =>
      match st.launchOf tid.tile with
      | none => .error .hold
      | some la =>
        if u ∧ d.toNat % 2 = 1 then .error (.trap .illegal (wordOf i))
        generalChecks t [x] []
        checkHold t
        checkMember t
        let base ← checkGroup t ([d.toNat] ++ if u then [d.toNat + 1] else [])
        let (v, t') ← needField st t x
        let rows := rowCount v
        if rows = 0 ∨ 64 < rows then .error (.trap .bounds v)
        let b ← matStream t' la.kernel m.toNat true (if h then 3 else 4)
        checkEnough st tid t' m.toNat b (64 * rows)
        checkMark st tid t
        checkArray st tid
        let (id, st) := (st.setThread tid t').accept tid i v base none
        .error (.wait (st.modThread tid fun t => { t with matCmd := some id }))

/-- MTOV (R355): a matrix command, and a place in the claim's queue that waits for its rows. -/
def execMtov (s : BitVec 2) (d : BitVec 3) (x : XField) (tr h : Bool) (st : State) : Host.Outcome State Fault Refusal :=
  issue st s 4 fun tid t => do
    let i : Instr := .mtov s d x tr h
    generalChecks t [x] []
    checkMember t
    let base ← checkGroup t [d.toNat]
    let (v, t') ← needField st t x
    let (n, c) ← vecGate st tid t
    let groups := descField v 16 2 + 1
    if 64 < descField v 0 6 + groups then .error (.trap .bounds v)
    checkRoom st c 1
    checkMark st tid t
    checkArray st tid
    let (vid, st) := (st.setThread tid t').freshId
    let (id, st) := st.accept tid i v base none
    let st := st.modCmd tid.tile (coreOf tid.thr) id fun c => { c with vop := some (n, vid) }
    let lanes := (List.range (groups * if h then 32 else 64)).map fun i => (⟨i, 0, none, none, false⟩ : VLane)
    .ok { st := st.pushVec tid.tile n 1 [⟨vid, i, [v], c.vl, lanes, false, 0, none⟩] }

end Sys2Proof.Machine
end

