-- ==== Sys2Proof/Machine/Weir.lean ====
section
/-! DEFINITION. The command that an array executes, its ramp, and the Weir that lets arrays onto it (R181, R189, R204 to R207, R343,
R390, R392). -/

namespace Sys2Proof.Machine

/-! ## The next command -/

/-- Whether a command is an MLOADS from a layout entry, which the plane loader carries out. -/
def isEntryLoad : Instr → Bool
  | .mloads .. => true
  | _ => false

/-- Whether a command observes the shadow plane (R343). -/
def usesShadow : Instr → Bool
  | .mloads .. | .mloadsFb .. | .mswap .. => true
  | i => isIter i

/-- The command that the array may execute: the first of its holder's queue, or one behind loads from layout entries that does
not observe the shadow plane (R343). -/
def nextCommand : Bool → List MatCmd → Option MatCmd
  | _, [] => none
  | behind, c :: cs =>
    if isEntryLoad c.instr then nextCommand true cs
    else if behind && usesShadow c.instr then none else some c

/-- The load from a layout entry that the plane loader may complete: the first one of a queue with no command before it that
observes the shadow plane (R189, R343). -/
def nextLoad : List MatCmd → Option MatCmd
  | [] => none
  | c :: cs => if isEntryLoad c.instr then some c else if usesShadow c.instr then none else nextLoad cs

/-- The command that a tile's array may execute, with its core. None starts on a stopped tile (R454 step 4), before the core's
planes are reloaded (R191), or once the budget is spent (R178, R181). -/
def State.running (st : State) (tile : TileId) : Option (Tile × Nat × MatCmd) :=
  match st.tile? tile with
  | none => none
  | some tl => match tl.arr.holder with
    | none => none
    | some h => ((nextCommand false (tl.core h).mcmds).filter fun c =>
        c.started.isSome || !(tl.stopped || tl.arr.spent || !(tl.core h).reload.isEmpty)).map fun c => (tl, h, c)

/-! ## The ramp (R204, R206, Table 6.5) -/

/-- The first tile cycle's rows of each ramp step and the rows admitted before it (Table 6.5). -/
def rampTable : List (Nat × Nat) := [(1, 0), (1, 1), (2, 2), (2, 4), (3, 6), (3, 9), (4, 12), (4, 16)]

/-- The row slots admitted in the first cycles after a grant (Table 6.5). -/
def rampRows (t : Nat) : Nat :=
  if t < 32 then
    let r := rampTable.getD (t / 4) (4, 16)
    r.2 + min (t % 4) r.1
  else 20 + (t - 32)

/-- The cycles from a grant after which a number of row slots has been admitted (Table 6.5). -/
def rampTime (rows : Nat) : Nat :=
  if rows ≤ 20 then ((List.range 33).find? fun t => decide (rows ≤ rampRows t)).getD 32 else 32 + (rows - 20)

/-- The row slots that a climb since a cycle gives a command by another, whether it has rows for them or not. -/
def MatCmd.slots (c : MatCmd) (since cycle : Nat) : Nat :=
  match c.started with
  | none => c.prog
  | some s => c.prog + (rampRows (cycle - since) - rampRows (s - since))

/-- The row slots that a command has been admitted by a cycle: none are while the array does not climb (R204, R206). -/
def MatCmd.admitted (c : MatCmd) (r : Ramp) (cycle : Nat) : Nat :=
  match r with
  | .up since => min c.available (c.slots since cycle)
  | _ => c.prog

/-- The tile cycles that an MMA has occupied the array since it was last counted: up to the one in which its last row entered. -/
def MatCmd.ran (c : MatCmd) (r : Ramp) (cycle : Nat) : Nat :=
  match c.started with
  | none => 0
  | some s =>
    if c.total ≤ c.prog then 0
    else match r with
      | .up since =>
        if c.total ≤ c.admitted r cycle then since + rampTime (c.total - c.prog + rampRows (s - since)) - s else cycle - s
      | _ => cycle - s

/-- An MMA's row slots and cycles are counted up to a cycle, before it has more rows or its ramp turns. -/
def MatCmd.settle (c : MatCmd) (r : Ramp) (cycle : Nat) : MatCmd :=
  match c.started with
  | none => c
  | some s => { c with prog := c.admitted r cycle, paid := c.paid + c.ran r cycle, started := some (max s cycle) }

/-- Whether an MMA has a row to admit (R206). -/
def MatCmd.rowWaits (c : MatCmd) (r : Ramp) (cycle : Nat) : Bool := decide (c.admitted r cycle < c.available)

/-- Changes the running command of an array. -/
def State.modRunning (st : State) (tile : TileId) (f : MatCmd → MatCmd) : State :=
  match st.running tile with
  | none => st
  | some (_, h, c) => st.modCore tile h fun co => { co with mcmds := co.mcmds.map fun m => if m.id = c.id then f m else m }

/-- The climb that an array turns to at the next boundary of its ramp-down begins (R206): from the step that it had reached. -/
def State.settleRamp (st : State) (tile : TileId) : State :=
  match st.tile? tile with
  | none => st
  | some tl =>
    match tl.arr.ramp with
    | .climb j s =>
      if s ≤ tl.cycle then
        (st.modRunning tile fun c => if isIter c.instr then { c with started := c.started.map (max s) } else c.settle .cold s).modArr tile
          fun a => { a with ramp := .up (s - 4 * j) }
      else st
    | _ => st

/-- The Weir step that a field's clock stands in (R205): 4 tile cycles of 2.25 GHz are 16/9 field nanoseconds from its reset release
(R491). -/
def Field.weirNow (f : Field) : Nat := f.time * 9 / 16

/-- A cold array asks its field's Weir (R204, R205): in the order of Weir steps, and of source numbers within one. -/
def State.requestWeir (st : State) (tile : TileId) : State :=
  match (st.tile? tile).bind (·.berth) with
  | none => st
  | some b =>
    let f := fieldOf b
    let w := (st.field f).weirNow
    (st.modField f fun fl => { fl with
      weirStep := if fl.weirQueue.isEmpty then max fl.weirStep w else fl.weirStep
      weirQueue := (fl.weirQueue.filter fun q => q.1 < w ∨ (q.1 = w ∧ q.2.1 < b)) ++ [(w, b, tile)] ++
        (fl.weirQueue.filter fun q => ¬(q.1 < w ∨ (q.1 = w ∧ q.2.1 < b))) }).modArr tile fun a => { a with ramp := .requested }

/-- The ramp of an array that has a row to take in (R204, R206): it asks the Weir when it is cold, and turns at the next boundary, to
climb from the step it has reached, when it is ramping down. -/
def State.climb (st : State) (tile : TileId) : State :=
  match st.tile? tile with
  | none => st
  | some tl =>
    match tl.arr.ramp with
    | .cold => st.requestWeir tile
    | .down j s =>
      if s + 4 * (j + 1) ≤ tl.cycle then (st.modArr tile fun a => { a with ramp := .cold }).requestWeir tile
      else
        let n := (tl.cycle - s) / 4
        st.modArr tile fun a => { a with ramp := .climb (j - n) (s + 4 * (n + 1)) }
    | _ => st

/-- Whether an array has a row to admit at a boundary (R206): its command is an MMA with a row that waits, or an iteration, which keeps
the ramp to its end (R204). -/
def State.rowsWait (st : State) (tile : TileId) : Bool :=
  match st.running tile with
  | none => false
  | some (tl, _, c) => isIter c.instr || c.rowWaits tl.arr.ramp tl.cycle

/-- An array with no row to admit at a step boundary begins its ramp-down, from the last step that it has run (R206). -/
def State.idleRamp (st : State) (tile : TileId) : State :=
  let st := st.settleRamp tile
  match st.tile? tile with
  | none => st
  | some tl =>
    match tl.arr.ramp with
    | .up since =>
      if st.rowsWait tile then st
      else (st.modRunning tile fun c => c.settle tl.arr.ramp tl.cycle).modArr tile
        fun a => { a with ramp := .down (min 7 ((tl.cycle - since - 1) / 4)) tl.cycle }
    | _ => st

/-- RAMP_DOWN_END (R206): the ramp-down has run its steps, and the array is cold. -/
def execRampDownEnd (tile : TileId) (st : State) : Host.Outcome State Fault Refusal :=
  .next (st.modTile tile fun tl =>
    match tl.arr.ramp with
    | .down j s => if s + 4 * (j + 1) ≤ tl.cycle then { tl with arr := { tl.arr with ramp := .cold } } else tl
    | _ => tl)

/-! ## The Weir (R205 to R207) -/

/-- How many requests a Weir step grants (R205, R207). -/
def Field.weirGrants (f : Field) : Nat :=
  if f.weirLimit = 0 then 2
  else match f.weirLast with
    | none => 1
    | some l => if l + f.weirLimit ≤ f.weirStep then 1 else 0

/-- The tiles moored in a field whose arrays climb or are warm. -/
def State.rampedUp (st : State) (field : Nat) : List TileId :=
  (st.tiles.filter fun e => e.2.berth.any (fieldOf · == field) && (match e.2.arr.ramp with
    | .up _ => true
    | .climb _ s => decide (s ≤ e.2.cycle)
    | _ => false)).map (·.1)

/-- Whether a field's Weir has a boundary to run: its clock has passed one since the last, and an array waits or climbs. -/
def State.weirDue (st : State) (field : Nat) : Bool :=
  decide ((st.field field).weirStep < (st.field field).weirNow) && (!(st.field field).weirQueue.isEmpty || !(st.rampedUp field).isEmpty)

/-- WEIR_STEP (R205 to R207): at a step boundary of the field's clock the Weir grants requests that arrived before it, and arrays
with no row to admit begin to ramp down. While requests wait, the boundaries are taken one by one. -/
def execWeirStep (field : Nat) (st : State) : Host.Outcome State Fault Refusal :=
  if !st.weirDue field then .next st
  else
    let idle := st.rampedUp field
    let st := st.modField field fun f => { f with weirStep := if f.weirQueue.isEmpty then f.weirNow else f.weirStep + 1 }
    let f := st.field field
    let granted := (f.weirQueue.filter fun q => decide (q.1 < f.weirStep)).take f.weirGrants
    let st := st.modField field fun f =>
      { f with weirQueue := f.weirQueue.drop granted.length, weirLast := if granted.isEmpty then f.weirLast else some f.weirStep }
    let st := granted.foldl (fun (st : State) g => st.modTile g.2.2 fun tl => { tl with arr := { tl.arr with ramp := .up tl.cycle } }) st
    .next (idle.foldl State.idleRamp st)

end Sys2Proof.Machine
end

