-- ==== Sys2Proof/Machine/Array.lean ====
section
/-! DEFINITION. The execution of matrix commands by the array and its plane loader (R181, R185 to R203, R334, R343, R347, R348,
R350 to R355). -/

namespace Sys2Proof.Machine

/-! ## The end and the start of a command -/

/-- A command ends: it leaves its queue, and the tile cycles it occupied count (R179). -/
def State.endCmd (st : State) (tile : TileId) (core : Nat) (c : MatCmd) (cycles : Nat) : State :=
  (st.modCore tile core fun co => { co with mcmds := co.mcmds.filter (·.id ≠ c.id) }).modArr tile fun a => { a with cyc := a.cyc + cycles }

/-- Starts a command at the tile's cycle. -/
def State.startCmd (st : State) (tile : TileId) (core : Nat) (c : MatCmd) : State :=
  st.modCmd tile core c.id fun c => { c with started := some (st.cycleOf tile) }

/-! ## Planes -/

/-- The element that a plane or a row takes for uncorrectable data (R334). -/
def badCode (l6 : Bool) : Nat := if l6 then 0x20 else 0x7FC0

/-- The word at a place that a plane reads, or zero for a discarded element. -/
def readPlace (mem : List Host.Cell) (e : Entry) (p : Option (Place × Nat)) : Nat :=
  match p with
  | some (pl, code) => (readElem mem e pl code).toNat
  | none => 0

/-- A plane from its places (R185 to R187); `bad` numbers what is in error, the elements first, then the scales, then the mask words
(R334). A scale in error enters as the NaN code, and a mask word in error puts the kept elements of its group in error (log entry 24). -/
def buildPlane (mem : List Host.Cell) (k : Kernel) (p : PlaneSrc) (pl : PlanePlaces) (bad : List Nat) : Plane :=
  let e := k.entryOf p.entry
  let nScale := pl.elems.length
  let nMask := nScale + pl.scales.length
  let badMask (i n : Nat) : Bool :=
    !bad.isEmpty && p.sparse && (let w := nMask + 2 * (64 * (i / p.width) + n); bad.contains w || bad.contains (w + 1))
  let vals := pl.elems.zipIdx.map fun x =>
    let v := if bad.contains x.2 || badMask (x.2 / 64) (x.2 % 64) then badCode p.l6 else readPlace mem e x.1
    if p.l6 then v else flushBf v
  let kept (n : Nat) : List Nat := (List.range p.kept).map fun i => vals.getD (64 * i + n) 0
  let ms := pl.masks.map (readPlace mem (k.entryOf (p.entry + 1)))
  let masks (n : Nat) : List Nat := (List.range (p.maskWords / 2)).map fun g =>
    ms.getD (2 * (64 * g + n)) 0 + 2 ^ 32 * ms.getD (2 * (64 * g + n) + 1) 0
  let ss := pl.scales.zipIdx.map fun x => if bad.contains (nScale + x.2) then 0xFF else readPlace mem (k.entryOf p.scale.1) x.1
  { cols := (List.range 64).map fun n => if p.sparse then sparseColumn p.width (kept n) (masks n) else kept n
    scales := (List.range 4).map fun j => (List.range 64).map fun n => ss.getD (64 * j + n) 127
    fault := none }

/-- A plane from an accumulator (R188). -/
def feedbackPlane (a : MatArray) (p : PlaneSrc) : Plane :=
  { cols := columnsOf (feedbackRows (a.acc p.acc) (p.code == 6) 64), scales := [], fault := none }

/-- Whether every place of a plane may be read now (R78, R112). -/
def planeReady (st : State) (tile : TileId) (engine : Engine) (pl : PlanePlaces) : Bool :=
  (pl.elems ++ pl.scales ++ pl.masks).all fun p => match p with
    | some (p, _) => engineReady st tile engine p 4 false
    | none => true

/-- The accesses of a plane's loader to the scratchpad of an absent tile are moored (R21). -/
def State.moorPlane (st : State) (tile : TileId) (engine : Engine) (pl : PlanePlaces) : State :=
  (pl.elems ++ pl.scales ++ pl.masks).foldl (fun st p => match p with
    | some (p, _) => st.moorElement tile engine p
    | none => st) st

/-- What a plane reads from poisoned lines (R478): elements, scales and mask words by number. -/
def poisonedElems (st : State) (pl : PlanePlaces) : List Nat :=
  (pl.elems ++ pl.scales ++ pl.masks).zipIdx.filterMap fun x => match x.1 with
    | some (p, _) => if st.poisoned p 1 then some x.2 else none
    | none => none

/-- Marks a thread's matrix context after an uncorrectable error of its plane (R334). -/
def State.markPlane (st : State) (tile : TileId) (thr : Nat) (bad : List Nat) : State :=
  if bad.isEmpty then st else st.modThread ⟨tile, thr⟩ fun t => { t with matMark := t.matMark || t.member }

/-- PLANE_LOAD_COMPLETE (R185 to R187, R334, R342, R343): the loader takes the next load of the holder's queue up once its data are
available, and fills the shadow plane 64 tile cycles later; a load that has started completes (Table 12.5). -/
def execPlaneLoadComplete (tile : TileId) (bad : List Nat) (st : State) : Host.Outcome State Fault Refusal :=
  match st.tile? tile, st.launchOf tile with
  | some tl, some la =>
    match tl.arr.holder with
    | none => .next st
    | some h =>
      match nextLoad (tl.core h).mcmds with
      | some c =>
        match c.src with
        | some p =>
          if !(tl.core h).reload.isEmpty then .next st
          else match c.started with
            | none =>
              if st.entered c.regs && planeReady st tile (.plane tile c.id) c.places then .next (st.startCmd tile h c)
              else .next (st.moorPlane tile (.plane tile c.id) c.places)
            | some s =>
              if s + 64 ≤ tl.cycle then
                let bad := bad ++ poisonedElems st c.places
                let plane := buildPlane st.mem la.kernel p c.places bad
                let st := ((st.release c.regs).endCmd tile h c 0).modArr tile fun a => { a with shadow := plane }
                let st := st.modCore tile h fun co => { co with shadow := p }
                .next (st.markPlane tile c.thr bad)
              else .next st
        | none => .next st
      | none => .next st
  | _, _ => .next st

/-- The places of a reload, translated by the loader itself, or the fault that it meets (R191). -/
def reloadPlaces (st : State) (tile : TileId) (k : Kernel) (p : PlaneSrc) :
    Except (Cause × Word × Nat × Word) (PlanePlaces × State) :=
  let own := tile.num
  let rec go (kidx : Nat) (st : State) : List (Nat × Except LocTrap Loc) →
      Except (Cause × Word × Nat × Word) (List (Option (Place × Nat)) × State)
    | [] => .ok ([], st)
    | (lane, r) :: rest =>
      match r with
      | .error (c, v) => .error (c, v, 0, 0#32)
      | .ok .discard => (go kidx st rest).map fun r => (none :: r.1, r.2)
      | .ok (.byte num space off code) =>
        match enginePlace st tile (k.entryOf kidx) num space off true false with
        | .error c => let i := failInfo st tile off kidx true false; .error (c, locTval kidx 0 lane, i.1, i.2)
        | .ok (pl, st) => (go kidx st rest).map fun r => (some (pl, code) :: r.1, r.2)
  match go p.entry st (resolveAll k own p p.entry p.elements) with
  | .error e => .error e
  | .ok (a, st) => match go p.scale.1 st (resolveAll k own p p.scale.1 (p.scaleElements k)) with
    | .error e => .error e
    | .ok (b, st) => match go (p.entry + 1) st (resolveAll k own p (p.entry + 1) (p.maskElements k)) with
      | .error e => .error e
      | .ok (c, st) => .ok (⟨a, b, c⟩, st)

/-- The reload of a plane is done (R191): its contents, and PLOST after the last one. -/
def State.endReload (st : State) (tile : TileId) (core : Nat) (shadow : Bool) (p : Plane) : State :=
  (st.modArr tile fun a => if shadow then { a with shadow := p } else { a with active := p }).modCore tile core fun co =>
    { co with reload := co.reload.drop 1, reloadRegs := none, reloadAt := none, plost := co.plost || decide (co.reload.length ≤ 1) }

/-- PLANE_RELOAD_COMPLETE (R191, R410): the next plane of the holder's reload is registered, and read as its source stands after the
64 tile cycles for which it occupies the loader. -/
def execPlaneReloadComplete (tile : TileId) (shadow : Bool) (st : State) : Host.Outcome State Fault Refusal :=
  match st.tile? tile, st.launchOf tile with
  | some tl, some la =>
    match tl.arr.holder with
    | none => .next st
    | some h =>
      let co := tl.core h
      if co.reload.head? ≠ some shadow then .next st
      else
        let p := if shadow then co.shadow else co.active
        let begun (st : State) : State := st.modCore tile h fun co => { co with reloadAt := some (co.reloadAt.getD tl.cycle) }
        let done := co.reloadAt.any fun s => decide (s + 64 ≤ tl.cycle)
        if p.code = 5 ∨ p.code = 6 then
          .next (if done then st.endReload tile h shadow (feedbackPlane tl.arr p) else begun st)
        else match co.reloadRegs with
          | none =>
            let (regs, st) := st.registerPlane tile (.reload tile h) la.kernel p
            .next (st.modCore tile h fun co => { co with reloadRegs := some regs })
          | some regs =>
            if !st.entered regs then .next st
            else match reloadPlaces st tile la.kernel p with
              | .error f => .next ((st.release regs).endReload tile h shadow { Plane.empty with fault := some f })
              | .ok (pl, st) =>
                if !planeReady st tile (.reload tile h) pl then .next (st.moorPlane tile (.reload tile h) pl)
                else if !done then .next (begun st)
                else
                  let bad := st.planeErrors tile ++ poisonedElems st pl
                  .next ((((st.release regs).endReload tile h shadow (buildPlane st.mem la.kernel p pl bad)).markPlane tile p.thr bad).spend
                    (SoftError.ofPlane tile))
  | _, _ => .next st

/-! ## Streams of the array (R192, R193, R354) -/

/-- Pops up to a number of elements of a read stream for the array: its words, and whether one of them is in error. -/
def popElems (bad : Nat) : Nat → List Elem → List Nat × Bool × List Elem
  | 0, q => ([], false, q)
  | n + 1, .word w :: q => let r := popElems bad n q; (w.toNat :: r.1, r.2.1, r.2.2)
  | n + 1, .bad :: q => let r := popElems bad n q; (bad :: r.1, true, r.2.2)
  | _ + 1, q => ([], false, q)

/-- The array pops what a stream has of the elements that it still needs, at once: it waits for no VPOP of the stream in the claim's queue
(log entry 55). -/
def State.arrayPop (st : State) (tid : ThreadId) (m need bad : Nat) : List Nat × State :=
  match (st.thread? tid).bind (·.stream? m) with
  | none => ([], st)
  | some b =>
    let r := popElems bad need b.queue
    (r.1, st.modThread tid fun t =>
      { t.setStream m (some { b with queue := r.2.2, pos := b.pos + r.1.length }) with matMark := t.matMark || r.2.1 })

/-- Releases the registration of a read stream whose last element the array has popped. -/
def State.spendStream (st : State) (tid : ThreadId) (m : Nat) : State :=
  match (st.thread? tid).bind (·.stream? m) with
  | none => st
  | some b =>
    if !b.write && decide (b.length ≤ b.pos) then
      (st.release b.regs).modThread tid fun t => t.setStream m (some { b with regs := [] })
    else st

/-- The streams of an MMA. -/
def MmaForm.streams (f : MmaForm) : List Nat :=
  match f.stream with
  | none => []
  | some m => if f.l6 then [m, m + 1] else [m]

/-- The elements of streams that an MMA still needs. -/
def MatCmd.needs (c : MatCmd) (f : MmaForm) : List Nat :=
  let rows := rowCount c.x
  [rows * c.depth f - c.data.length, rows * (c.depth f / 32) - c.scales.length]

/-- The positions of the streams that an MMA reads, as they were before it popped (R193). -/
def State.streamMarks (st : State) (tid : ThreadId) (c : MatCmd) (f : MmaForm) : List Nat :=
  if c.marks.isEmpty then f.streams.map fun s => (((st.thread? tid).bind (·.stream? s)).map (·.pos)).getD 0 else c.marks

/-- Rewinds the streams that an MMA reads to its start (R193); what was fetched beyond, a held fault among it, is fetched anew. -/
def State.rewind (st : State) (tile : TileId) (c : MatCmd) (f : MmaForm) : State :=
  (f.streams.zip (st.streamMarks ⟨tile, c.thr⟩ c f)).foldl (fun (st : State) sm => st.modThread ⟨tile, c.thr⟩ fun t =>
    match t.stream? sm.1 with
    | some b => t.setStream sm.1 (some { b with pos := sm.2, fetched := sm.2, queue := [] })
    | none => t) st

/-- The array fetches what an MMA's streams have, after its rows so far are counted, and records the streams' positions at its start. -/
def State.fetchRows (st : State) (tile : TileId) (core : Nat) (c : MatCmd) (f : MmaForm) : State :=
  let tid : ThreadId := ⟨tile, c.thr⟩
  match f.stream with
  | none => st
  | some m =>
    let marks := st.streamMarks tid c f
    let r := ((st.tile? tile).map (·.arr.ramp)).getD .cold
    let now := st.cycleOf tile
    let (a, st) := st.arrayPop tid m ((c.needs f).getD 0 0) (badCode f.l6)
    let (b, st) := if f.l6 then st.arrayPop tid (m + 1) ((c.needs f).getD 1 0) 0xFF else ([], st)
    st.modCmd tile core c.id fun c => { c.settle r now with marks := marks, data := c.data ++ a, scales := c.scales ++ b }

/-- Splits a list into rows of a length. -/
def splitRows (n : Nat) : Nat → List Nat → List (List Nat)
  | 0, _ => []
  | k + 1, xs => xs.take n :: splitRows n k (xs.drop n)

/-- The rows that an MMA streams, as array operands, and their scales (R141, R146, R192, R347). -/
def MatCmd.rows (c : MatCmd) (a : MatArray) (f : MmaForm) : List (List Nat) × List (List Nat) :=
  let n := rowCount c.x
  match f.stream with
  | none => ((List.range n).map (feedbackRow (a.acc (c.base + f.fb.1)) f.fb.2), [])
  | some _ =>
    let rows := splitRows (c.depth f) n c.data
    (if f.l6 then rows else rows.map fun r => r.map flushBf, splitRows (c.depth f / 32) n c.scales)

/-- An MMA's effect on its accumulators (R347). -/
def State.finishMma (st : State) (tile : TileId) (core : Nat) (c : MatCmd) (f : MmaForm) : State :=
  match st.tile? tile with
  | none => st
  | some tl =>
    let w2 := match st.thread? ⟨tile, c.thr⟩ with
      | some t => t.mode == .w2
      | none => false
    let a := tl.arr
    let (rows, scales) := c.rows a f
    let ad := c.base + f.d
    let (s, k, fl) := mmaApply w2 f.l6 f.z f.comp ((c.src.map (·.width)).getD 0) a.active.cols a.active.scales rows scales (a.acc ad) (a.acc (ad + 1))
    let st := st.modArr tile fun a => let a := a.setAcc ad s; if f.comp then a.setAcc (ad + 1) k else a
    let st := (st.endCmd tile core c (c.paid + c.ran a.ramp tl.cycle)).modThread ⟨tile, c.thr⟩ fun t => t.orFlags fl
    f.streams.foldl (fun st m => st.spendStream ⟨tile, c.thr⟩ m) st

/-- A command that reads an active plane whose reload faulted (R191): it traps at its own instruction with its streams rewound, and the
core's planes are reloaded again. -/
def State.planeFaultTrap (st : State) (tile : TileId) (core : Nat) (c : MatCmd) (form : MmaForm) (f : Cause × Word × Nat × Word) : State :=
  let tid : ThreadId := ⟨tile, c.thr⟩
  let st := ((st.rewind tile c form).endCmd tile core c 0).modArr tile fun a =>
    { a with active := { a.active with fault := none }, shadow := { a.shadow with fault := none } }
  let st := st.modCore tile core fun co =>
    { co with reload := (if co.active.code = 0 then [] else [false]) ++ (if co.shadow.code = 0 then [] else [true]) }
  match st.thread? tid with
  | none => st
  | some _ => ((st.modThread tid fun t => { t with matCmd := none }).setInfo tid f.1 f.2.2).takeTrap tid f.1 f.2.1 c.pc false

/-- One advance of an MMA (R204, R206, R347, R348): it meets the fault of its plane's reload before it starts, fetches rows, takes the
ramp, and completes when its last row slot has been admitted, whatever the ramp does then. -/
def State.advanceMma (st : State) (tile : TileId) (core : Nat) (c : MatCmd) (f : MmaForm) : State :=
  match (if c.started.isNone then (st.tile? tile).bind (·.arr.active.fault) else none) with
  | some fault => st.planeFaultTrap tile core c f fault
  | none =>
  let st := (st.settleRamp tile).fetchRows tile core c f
  match (st.cmdsOf ⟨tile, c.thr⟩).find? (·.id = c.id), st.tile? tile with
  | some c, some tl =>
    if c.started.isSome && c.fetched f && decide (c.total ≤ c.admitted tl.arr.ramp tl.cycle) then st.finishMma tile core c f
    else if !c.rowWaits tl.arr.ramp tl.cycle then st
    else match tl.arr.ramp with
      | .up _ =>
        if c.started.isNone then
          (st.startCmd tile core c).modArr tile fun a => if f.comp then a else { a with replay := a.acc (c.base + f.d) }
        else st
      | .requested | .climb .. => st
      | _ => st.climb tile
  | _, _ => st

/-- MMA_OPERAND_FAULT (R193, R194): the array restores ad, rewinds the streams, drops the command, and traps the thread at the
MMA. -/
def execMmaOperandFault (tile : TileId) (st : State) : Host.Outcome State Fault Refusal :=
  match st.running tile with
  | none => .next st
  | some (tl, h, c) =>
    match mmaForm c.instr with
    | none => .next st
    | some f =>
      let tid : ThreadId := ⟨tile, c.thr⟩
      match st.thread? tid with
      | none => .next st
      | some t =>
        let faulted := (f.streams.zip (c.needs f)).findSome? fun sn =>
          if sn.2 = 0 then none
          else (t.stream? sn.1).bind fun b => match b.queue with
            | .fault cause :: _ => some (sn.1, b, cause)
            | _ => none
        match faulted with
        | none => .next st
        | some (m, b, cause) =>
          let info := streamInfo st tid t.priv b b.pos
          let st := if f.comp ∨ c.started.isNone then st else st.modArr tile fun a => a.setAcc (c.base + f.d) tl.arr.replay
          let st := ((st.rewind tile c f).endCmd tile h c (c.paid + c.ran tl.arr.ramp tl.cycle)).modThread tid fun t => { t with matCmd := none }
          .next ((st.setInfo tid cause info).takeTrap tid cause (streamTval m b.entry) t.pc false)

/-! ## MDRAIN and MTOV (R354, R355) -/

/-- The value that an MDRAIN pushes as its element i. -/
def drainValue (a : MatArray) (base d : Nat) (tr bf sum : Bool) (i : Nat) : FRes :=
  let j := i / 64
  let n := i % 64
  let at' (x : List Word) : Word := if tr then accAt x n j else accAt x j n
  drainElement sum bf (at' (a.acc (base + d))) (at' (a.acc (base + d + 1)))

/-- Clears what an MDRAIN has read, for .z. -/
def clearRead (a : List Word) (tr : Bool) (rows : Nat) : List Word :=
  accOf fun r c => if (if tr then c else r) < rows then 0#32 else accAt a r c

/-- One element of an MDRAIN, at most one a tile cycle (R354): pushed, or a full queue, or a held fault that traps the thread at the MDRAIN
with the stream set back. -/
def State.advanceDrain (st : State) (tile : TileId) (core : Nat) (c : MatCmd) (d m : Nat) (z tr bf sum : Bool) : State :=
  let tid : ThreadId := ⟨tile, c.thr⟩
  match st.thread? tid, st.tile? tile with
  | some t, some tl =>
    let rows := rowCount c.x
    match c.started with
    | none => st.modCmd tile core c.id fun c => { c with started := some tl.cycle, marks := [((t.stream? m).map (·.pos)).getD 0] }
    | some s =>
      if 64 * rows ≤ c.prog then
        if s + c.paid ≤ tl.cycle then
          let fl := (List.range (64 * rows)).foldl (fun f i => f ||| (drainValue tl.arr c.base d tr bf sum i).flags) fNone
          let st := st.modThread tid fun t => t.orFlags fl
          let st := if z then st.modArr tile fun a =>
              let a' := a.setAcc (c.base + d) (clearRead (a.acc (c.base + d)) tr rows)
              if sum then a'.setAcc (c.base + d + 1) (clearRead (a.acc (c.base + d + 1)) tr rows) else a'
            else st
          st.endCmd tile core c c.paid
        else st
      else if tl.cycle < s + c.paid then st
      else match t.stream? m with
        | none => st
        | some b =>
          if 16 ≤ b.queue.length then st
          else match streamTarget st tid t.priv b b.pos with
            | .error cause =>
              let info := streamInfo st tid t.priv b b.pos
              let st := (st.endCmd tile core c (tl.cycle - s)).modThread tid fun t =>
                { t.setStream m (some { b with pos := c.marks.getD 0 b.pos }) with matCmd := none }
              (st.setInfo tid cause info).takeTrap tid cause (streamTval m b.entry) t.pc false
            | .ok (target, st) =>
              let v := drainValue tl.arr c.base d tr bf sum c.prog
              (st.modCmd tile core c.id fun c => { c with prog := c.prog + 1, paid := tl.cycle - s + 1 }).modThread tid fun t =>
                t.setStream m (some { b with queue := b.queue ++ [.store v.bits target], pos := b.pos + 1 })
  | _, _ => st

/-- The slots that an MTOV delivers to its place in the claim's queue (R355). -/
def tovWords (a : List Word) (row groups : Nat) (tr bf : Bool) : List Word :=
  (List.range groups).flatMap fun i =>
    let v (e : Nat) : Word := if tr then accAt a e (row + i) else accAt a (row + i) e
    if bf then (List.range 32).map fun s => BitVec.ofNat 32 (drainBf (v (2 * s)) + 65536 * drainBf (v (2 * s + 1)))
    else (List.range 64).map v

/-- An MTOV: 16 tile cycles per group, and then its rows go to the vector instruction. -/
def State.advanceTov (st : State) (tile : TileId) (core : Nat) (c : MatCmd) (d : Nat) (tr bf : Bool) : State :=
  match st.tile? tile with
  | none => st
  | some tl =>
    let groups := descField c.x 16 2 + 1
    match c.started with
    | none => st.startCmd tile core c
    | some s =>
      if s + 16 * groups ≤ tl.cycle then
        let ws := tovWords (tl.arr.acc (c.base + d)) (descField c.x 0 6) groups tr bf
        let st := match c.vop with
          | none => st
          | some (ctx, op) => (ws.zipIdx.foldl (fun (st : State) (w : Word × Nat) => st.fillLane tile ctx op w.2 w.1 false) st)
        st.endCmd tile core c (16 * groups)
      else st

/-- MATRIX_COMMAND_COMPLETE (R181, R343, R344, R347, R353 to R355): the array's command goes on as far as it can, and ends. -/
def execMatrixCommandComplete (tile : TileId) (st : State) : Host.Outcome State Fault Refusal :=
  match st.running tile with
  | none => .next st
  | some (tl, h, c) =>
    match c.instr with
    | .mswap _ =>
      let st := st.modArr tile fun a => { a with active := a.shadow, shadow := a.active }
      .next ((st.modCore tile h fun co => { co with active := co.shadow, shadow := co.active }).endCmd tile h c 0)
    | .mloadsFb .. =>
      match c.src with
      | none => .next (st.endCmd tile h c 0)
      | some p =>
        let st := st.modArr tile fun a => { a with shadow := feedbackPlane a p }
        .next ((st.modCore tile h fun co => { co with shadow := p }).endCmd tile h c 0)
    | .mzero _ d =>
      match c.started with
      | none => .next (st.startCmd tile h c)
      | some s =>
        if s + 16 ≤ tl.cycle then .next ((st.modArr tile fun a => a.setAcc (c.base + d.toNat) accZero).endCmd tile h c 16)
        else .next st
    | .mdrain _ d _ m z tr bf sum => .next (st.advanceDrain tile h c d.toNat m.toNat z tr bf sum)
    | .mtov _ d _ tr bf => .next (st.advanceTov tile h c d.toNat tr bf)
    | i =>
      match mmaForm i with
      | some f => .next (st.advanceMma tile h c f)
      | none => .next st

/-- Whether an MMA can go on now: a row that its streams hold, its end, or the next act of its ramp. -/
def State.mmaDue (st : State) (tile : TileId) (tl : Tile) (c : MatCmd) (f : MmaForm) : Bool :=
  (c.started.isNone && tl.arr.active.fault.isSome) ||
  ((f.streams.zip (c.needs f)).any fun sn => decide (0 < sn.2) &&
    (match (st.thread? ⟨tile, c.thr⟩).bind (·.stream? sn.1) with
      | some b => (match b.queue with
        | .word _ :: _ => true
        | .bad :: _ => true
        | _ => false)
      | none => false)) ||
  (c.started.isSome && c.fetched f && decide (c.total ≤ c.admitted tl.arr.ramp tl.cycle)) ||
  (c.rowWaits tl.arr.ramp tl.cycle && (match tl.arr.ramp with
    | .up _ => c.started.isNone
    | .requested => false
    | .climb _ s => decide (s ≤ tl.cycle)
    | _ => true))

/-- Whether the array's command can go on in the tile cycle in which it stands. -/
def State.commandDue (st : State) (tile : TileId) : Bool :=
  match st.running tile with
  | none => false
  | some (tl, _, c) =>
    let since (n : Nat) : Bool := match c.started with
      | none => true
      | some s => decide (s + n ≤ tl.cycle)
    match c.instr with
    | .mswap _ | .mloadsFb .. => true
    | .mzero .. => since 16
    | .mtov .. => since (16 * (descField c.x 16 2 + 1))
    | .mdrain _ _ _ m .. => (st.thread? ⟨tile, c.thr⟩).isSome && since c.paid && (c.started.isNone || decide (64 * rowCount c.x ≤ c.prog) ||
        ((st.thread? ⟨tile, c.thr⟩).bind (·.stream? m.toNat)).any fun b => decide (b.queue.length < 16))
    | i => (mmaForm i).any fun f => st.mmaDue tile tl c f

/-! ## MITER and MPOLY (R195 to R203, R350 to R352) -/

/-- What an iteration's instruction and operand say. -/
structure IterForm where
  form : Nat
  a : Nat
  other : Nat
  fresh : Bool
  rows : Nat
  cap : Nat

/-- The form of an iteration with its scalar operand (R349); the degree of MPOLY stands as the cap. -/
def iterForm (i : Instr) (x : Word) : Option IterForm :=
  let cap := min (descField x 0 16) 1024
  match i with
  | .miterNs3 _ d _ n => some ⟨0, d.toNat, 0, n, descField x 16 7, cap⟩
  | .miterNs5 _ d _ n => some ⟨1, d.toNat, 0, n, descField x 16 7, cap⟩
  | .miterInv _ d b _ n => some ⟨2, d.toNat, b.toNat, n, 64, cap⟩
  | .mpoly _ d _ n => some ⟨3, d.toNat, 0, n, 64, descField x 0 3⟩
  | _ => none

/-- The plane loads and the rows of one step (Table 6.4). -/
def IterForm.cost (f : IterForm) (prog : Nat) : Nat × Nat :=
  match f.form with
  | 0 => (2, 2 * f.rows)
  | 1 => (3, 3 * f.rows)
  | 2 => (2, 128)
  | _ => (if prog = 0 then 1 else 0, 64)

/-- Whether an issue starts afresh (R200). -/
def IterForm.startsFresh (f : IterForm) (m : BitVec 64) : Bool :=
  f.fresh || mlsField m 29 3 == 0 || mlsField m 24 3 != f.form || mlsField m 21 3 != f.a

/-- TVAL of a reissue on STAT = 4 (R200, R350). -/
def mdivAgain (form : Nat) (r limit : Word) : Nat :=
  if form = 3 ∨ !isFinite r then 1 else if (fLt limit r).bits = 1#32 then 2 else 3

/-- An iteration ends, or traps MDIV: both planes of the core are empty, the command is done, and its thread goes on (R202). -/
def State.finishIter (st : State) (tile : TileId) (core : Nat) (c : MatCmd) (cycles : Nat) (mdiv : Option Nat) : State :=
  let tid : ThreadId := ⟨tile, c.thr⟩
  let st := (st.modCore tile core fun co => { co with active := PlaneSrc.empty, shadow := PlaneSrc.empty }).modArr tile
    fun a => { a with active := Plane.empty, shadow := Plane.empty }
  let st := (st.endCmd tile core c cycles).dealThread tid
  match st.thread? tid with
  | none => st
  | some t =>
    match mdiv with
    | some v => st.takeTrap tid .mdiv (BitVec.ofNat 32 v) t.pc false
    | none =>
      let s : BitVec 2 := match c.instr with
        | .miterNs3 s .. => s
        | .miterNs5 s .. => s
        | .miterInv s .. => s
        | .mpoly s .. => s
        | _ => 0
      st.complete tid s 4 .fall (if t.step then some stepTval else none)

/-- The start of an iteration by R200, R350 and R351: it ends at once, or its steps begin. -/
def State.beginIter (st : State) (tile : TileId) (core : Nat) (c : MatCmd) (f : IterForm) : State :=
  let tid : ThreadId := ⟨tile, c.thr⟩
  match st.thread? tid with
  | none => st
  | some t =>
    let fresh := f.startsFresh t.mls
    let mls := if fresh then mlsWord 0#32 0 0 f.form f.a 0 else t.mls
    let k := mlsField mls 0 11
    let stat := mlsField mls 29 3
    let set (st : State) (m : BitVec 64) : State := st.modThread tid fun t => { t with mls := m }
    let steps (st : State) : State :=
      (st.modCmd tile core c.id fun c => { c with first := k == 0 }).startCmd tile core c
    if stat = 2 then st.finishIter tile core c 0 none
    else if stat = 4 then st.finishIter tile core c 0 (some (mdivAgain f.form (mls.extractLsb' 32 32) (t.coefs.getD 7 0#32)))
    else if stat = 3 ∧ f.cap ≤ k then st.finishIter tile core c 0 none
    else if f.form = 3 then
      let st := (set st mls).modArr tile fun a => a.setAcc (c.base + f.a + 1) (diagonal (t.coefs.getD f.cap 0#32))
      if f.cap = 0 then
        (set (st.modArr tile fun a => a.setAcc (c.base + f.a + 2) accZero) (mlsStat mls 2)).finishIter tile core c 0 none
      else steps st
    else if f.cap ≤ k then (set st (mlsStat mls 3)).finishIter tile core c 0 none
    else steps (set st mls)

/-- One step of MITER (R350): the tests of R198 in order. -/
def State.miterStep (st : State) (tile : TileId) (core : Nat) (c : MatCmd) (f : IterForm) (cycles : Nat) : State :=
  let tid : ThreadId := ⟨tile, c.thr⟩
  match st.thread? tid, st.tile? tile with
  | some t, some tl =>
    let a := c.base + f.a
    let x := tl.arr.acc a
    let o := iterStep f.form t.coefs f.rows x (tl.arr.acc (c.base + f.other)) (tl.arr.acc (a + 1)) (tl.arr.acc (a + 2))
    let st := (st.modArr tile fun r => { (r.setAcc (a + 1) o.w).setAcc (a + 2) o.p with replay := x }).modThread tid fun t => t.orFlags o.flags
    let m := t.mls
    let k := mlsField m 0 11
    let run := mlsField m 27 2
    let old : Word := m.extractLsb' 32 32
    let limit := t.coefs.getD 7 0#32
    let rising := !c.first && (fLt old o.r).bits == 1#32
    let fail (v : Nat) : State :=
      (st.modThread tid fun t => { t with mls := mlsWord o.r 4 run f.form f.a k }).finishIter tile core c cycles (some v)
    if !(isFinite o.r && (o.x.take (64 * f.rows)).all isFinite) then fail 1
    else if (fLt limit o.r).bits = 1#32 then fail 2
    else if rising ∧ run = 2 then fail 3
    else
      let run' := if rising then run + 1 else if c.first then run else 0
      let st := st.modArr tile fun r => r.setAcc a o.x
      let set (stat : Nat) : State := st.modThread tid fun t => { t with mls := mlsWord o.r stat run' f.form f.a (k + 1) }
      let stat := mlsField m 29 3
      if (fLe o.r (t.coefs.getD 6 0#32)).bits = 1#32 then (set 2).finishIter tile core c cycles none
      else if f.cap ≤ k + 1 then (set 3).finishIter tile core c cycles none
      else ((set stat).modCmd tile core c.id fun c => { c with first := false, prog := c.prog + 1 }).modArr tile
        fun r => { r with cyc := r.cyc + cycles }
  | _, _ => st

/-- One Horner step of MPOLY (R351): steps up to K rebuild Y and change neither K nor the flags. -/
def State.mpolyStep (st : State) (tile : TileId) (core : Nat) (c : MatCmd) (f : IterForm) (cycles : Nat) : State :=
  let tid : ThreadId := ⟨tile, c.thr⟩
  match st.thread? tid, st.tile? tile with
  | some t, some tl =>
    let a := c.base + f.a
    let y := tl.arr.acc (a + 1)
    let j := c.prog + 1
    let o := hornerStep (t.coefs.getD (f.cap - j) 0#32) (tl.arr.acc a) y (tl.arr.acc (a + 2))
    let m := t.mls
    let k := mlsField m 0 11
    let rebuilt := decide (j ≤ k)
    let st := st.modArr tile fun r => { (r.setAcc (a + 1) o.x).setAcc (a + 2) o.p with replay := y }
    let st := if rebuilt then st else st.modThread tid fun t => t.orFlags o.flags
    let set (st : State) (stat k : Nat) : State := st.modThread tid fun t =>
      { t with mls := mlsWord (m.extractLsb' 32 32) stat (mlsField m 27 2) f.form f.a k }
    if !rebuilt ∧ !o.x.all isFinite then
      (set (st.modArr tile fun r => r.setAcc (a + 1) y) 4 k).finishIter tile core c cycles (some 1)
    else
      let k' := max k j
      if f.cap ≤ j then (set st 2 k').finishIter tile core c cycles none
      else ((set st (mlsField m 29 3) k').modCmd tile core c.id fun c => { c with prog := j }).modArr tile
        fun r => { r with cyc := r.cyc + cycles }
  | _, _ => st

/-- The tile cycles that a step occupies from the array's ramp on (R204, Table 6.4): its plane loads, and its rows as the ramp
admits them from where it stands. -/
def IterForm.cycles (f : IterForm) (prog ramp : Nat) : Nat :=
  let (loads, rows) := f.cost prog
  64 * loads + (rampTime (rows + rampRows ramp) - ramp)

/-- MITER_STEP_COMPLETE (R178, R204, R350 to R352): an iteration begins, or completes a step once its loads and rows have had
their tile cycles, or spends the lease's budget within one. -/
def execMiterStepComplete (tile : TileId) (st : State) : Host.Outcome State Fault Refusal :=
  match st.running tile with
  | none => .next st
  | some (tl, h, c) =>
    match iterForm c.instr c.x with
    | none => .next st
    | some f =>
      match c.started with
      | none => .next (st.beginIter tile h c f)
      | some s =>
        match tl.arr.ramp with
        | .climb .. => .next (st.settleRamp tile)
        | .up since =>
          let base := max s since
          let n := f.cycles c.prog (base - since)
          let room := 16384 - tl.arr.cyc
          if tl.arr.spent then .next st
          else if room < n - c.paid then
            if base + c.paid + room ≤ tl.cycle then
              .next ((st.modCmd tile h c.id fun c => { c with paid := c.paid + room }).modArr tile fun a => { a with cyc := 16384 })
            else .next st
          else if base + n ≤ tl.cycle then
            let st := (st.modCmd tile h c.id fun c => { c with started := some (base + n), paid := 0 }).modArr tile
              fun a => { a with ramp := .up (since + 64 * (f.cost c.prog).1) }
            .next (if f.form = 3 then st.mpolyStep tile h c f (n - c.paid) else st.miterStep tile h c f (n - c.paid))
          else .next st
        | .requested => .next st
        | _ => .next (st.climb tile)

end Sys2Proof.Machine
end

