-- ==== Sys2Proof/Machine/Csr.lean ====
section
/-! DEFINITION. TRAP, ERET, the control and status registers, TIME and SETFMT (R357, R362 to R369). -/

namespace Sys2Proof.Machine

/-! ## TRAP and ERET -/

/-- TRAP (R362): BREAK with X[a], raised once the TRAP has completed. -/
def execTrap (s : BitVec 2) (a : XField) (st : State) : Host.Outcome State Fault Refusal :=
  issue st s 4 fun tid t => do
    generalChecks t [a] []
    let (v, t) ← needField st t a
    .ok { st := st.setThread tid t, brk := some v }

/-- ERET (R363). -/
def execEret (s : BitVec 2) (st : State) : Host.Outcome State Fault Refusal :=
  issue st s 4 fun tid t =>
    if !t.inh then .error (.trap .illegal (wordOf (.eret s)))
    else
      let t' : Thread := { t with step := t.tstat.getLsbD 2, tstat := t.tstat &&& 0xFFFFFFFE#32 }
      .ok { st := st.setThread tid t', next := .set t.tepc }

/-! ## Values of the CSRs (Table 13.4) -/

/-- The berth of a tile that is moored. -/
def State.berthOf (st : State) (tile : TileId) : Nat := ((st.tile? tile).bind (·.berth)).getD 0

/-- The time counter of the field where a tile is moored (R368). -/
def State.timeOf (st : State) (tile : TileId) : Nat := (st.field (fieldOf (st.berthOf tile))).time

/-- The published offset of a field (R366). -/
def State.toffOf (st : State) (f : Nat) : Int := st.toff.getD f 0

/-- A part of a 64-bit value. -/
def word64 (v : Int) (hi : Bool) : Word := BitVec.ofInt 32 (if hi then v / 2 ^ 32 else v)

/-- GRID (R14). -/
def gridWord (k : Kernel) : Word := BitVec.ofNat 32 ((k.vy - 1) * 4096 + (k.vx - 1))

/-- THRCTL (Table 13.5). -/
def thrctlWord (t : Thread) : Word :=
  BitVec.ofNat 32 (t.step.toNat * 16 + t.migok.toNat * 4 + t.fold.toNat * 2 + t.sbchk.toNat)

/-- EDRW (Table 2.5). -/
def edrwWord (st : State) (b : Nat) : Word := BitVec.ofNat 32 ((refreshTime st b).toNat * 2 ^ 15 + (st.berth b).edPhase % 2 ^ 15)

/-- LEASESTAT of a core (Table 6.1). -/
def leaseStat (tl : Tile) (core : Nat) : Word :=
  let waitn := ((List.range 8).filter fun c => c != core && tl.requests c).length
  BitVec.ofNat 32 ((tl.arr.holder == some core).toNat * 2 ^ 31 + tl.arr.holder.getD 0 * 2 ^ 28 + waitn * 2 ^ 25 +
    (tl.core core).plost.toNat * 2 ^ 24 + min tl.arr.cmds 32 * 2 ^ 18 + min tl.arr.cyc 16384 * 2 ^ 3 + tl.arr.holder.isSome.toNat * 4)

/-- PWRCAUSE of a core (Table 13.6). -/
def pwrCause (p : Part) (c : Core) (f : Field) : Word :=
  BitVec.ofNat 32 ((f.weirLimit != 0).toNat * 2 ^ 17 + (c.positions.any fun q => !q.enabled).toNat * 2 ^ 16 + p.last * 2 ^ 8 + p.sticky.toNat)

/-- TVEC (R361). -/
def Kernel.tvecWord (k : Kernel) : Word := k.tvec

/-- Whether an instruction whose flags CSRR of FFLAGS waits for has not delivered them (R135). -/
def State.flagsPending (st : State) (tid : ThreadId) (t : Thread) : Bool :=
  (match t.claim.bind (st.vec? tid.tile) with
    | some c => !c.queue.isEmpty
    | none => false) ||
  !(st.cmdsOf tid).isEmpty ||
  (match st.tile? tid.tile with
    | none => false
    | some tl => (tl.core (coreOf tid.thr)).symbols.any fun e =>
        e.2.thr == tid.thr && !e.2.discard && (e.2.source == .sfun || e.2.source == .fadd))

/-- The value of a CSR for a thread; none for a number that is not assigned. The privileged numbers are those of R472. -/
def csrValue (st : State) (tid : ThreadId) (t : Thread) (tl : Tile) (l : Launch) (n : Nat) : Option Word :=
  let core := coreOf tid.thr
  let berth := st.berthOf tid.tile
  let part := st.part tid.tile.part
  if n = 0x000 then some (BitVec.ofNat 32 tid.thr)
  else if n = 0x001 then some (BitVec.ofNat 32 tid.tile.num)
  else if n = 0x002 then some (gridWord l.kernel)
  else if n = 0x003 then some t.fmt
  else if n = 0x004 then some t.scp
  else if n = 0x005 then some (thrctlWord t)
  else if n = 0x006 then some (t.fflags.setWidth 32)
  else if n = 0x008 then some (word64 (st.timeOf tid.tile) false)
  else if n = 0x009 then some (word64 (st.timeOf tid.tile) true)
  else if n = 0x00A then some (edrwWord st berth)
  else if n = 0x00B then some (leaseStat tl core)
  else if n = 0x00C then some (t.mls.setWidth 32)
  else if n = 0x00D then some (t.mls.extractLsb' 32 32)
  else if n = 0x00E then some (t.touch.setWidth 32)
  else if n = 0x00F then some (t.touch.extractLsb' 32 32)
  else if n = 0x010 then some (pwrCause part (tl.core core) (st.field (fieldOf berth)))
  else if n = 0x011 then some (word64 part.lastTime false)
  else if n = 0x012 then some (word64 part.lastTime true)
  else if n = 0x018 then some t.tcause
  else if n = 0x019 then some t.tepc
  else if n = 0x01A then some t.tval
  else if n = 0x01B then some t.tstat
  else if n = 0x01C then some l.kernel.tvecWord
  else if 0x040 ≤ n ∧ n ≤ 0x05D then some (word64 (st.toffOf (n - 0x040)) false)
  else if 0x060 ≤ n ∧ n ≤ 0x090 then some (st.seamlat.getD (n - 0x060) 0#32)
  else if n = 0x800 then some (t.fva.setWidth 32)
  else if n = 0x801 then some ((t.fva.extractLsb' 32 16).setWidth 32)
  else if n = 0x802 then some t.finfo
  else none

/-- Whether a CSR number is assigned (Table 13.4, R472). -/
def csrAssigned (n : Nat) : Bool :=
  decide (n ≤ 0x006) || (decide (0x008 ≤ n) && decide (n ≤ 0x012)) || (decide (0x018 ≤ n) && decide (n ≤ 0x01C)) ||
    (decide (0x040 ≤ n) && decide (n ≤ 0x05D)) || (decide (0x060 ≤ n) && decide (n ≤ 0x090)) ||
    (decide (0x800 ≤ n) && decide (n ≤ 0x802))

/-- The number of a CSR from its two fields (R364). -/
def csrNumber (h : BitVec 7) (g : BitVec 5) : Nat := h.toNat * 32 + g.toNat

/-- The checks of a CSR number (R230 items 1 and 2, R364): ILLEGAL for an unassigned user number, PRIV for a privileged one. -/
def checkCsr (t : Thread) (n : Nat) (word : Word) : Except Stop Unit :=
  if 0x800 ≤ n ∧ !t.priv then .error (.trap .priv word)
  else if !csrAssigned n then .error (.trap .illegal word)
  else .ok ()

/-- CSRR (R364); FFLAGS waits for the flags of R135. -/
def execCsrr (s : BitVec 2) (d : XField) (h : BitVec 7) (g : BitVec 5) (st : State) : Host.Outcome State Fault Refusal :=
  issue st s 4 fun tid t => do
    let n := csrNumber h g
    checkCsr t n (wordOf (.csrr s d h g))
    generalChecks t [] [d]
    match st.tile? tid.tile, st.launchOf tid.tile with
    | some tl, some l =>
      if n = 0x006 ∧ st.flagsPending tid t then .error .hold
      let v := (csrValue st tid t tl l n).getD 0#32
      let t ← writeField st t d (.ready v)
      .ok { st := st.setThread tid t }
    | _, _ => .error .hold

/-- What CSRW changes in the thread's own context; a write to a field that is RO or reserved is ignored (R9, R364). -/
def Thread.csrWrite (t : Thread) (n : Nat) (v : Word) : Thread :=
  if n = 0x004 then { t with scp := v }
  else if n = 0x005 then
    { t with step := v.getLsbD 4, migok := t.migok && v.getLsbD 2, fold := v.getLsbD 1, sbchk := v.getLsbD 0 }
  else if n = 0x006 then { t with fflags := v.setWidth 5 }
  else if n = 0x00C then { t with mls := t.mls.extractLsb' 32 32 ++ (v &&& 0xFFE007FF#32) }
  else if n = 0x00D then { t with mls := v ++ t.mls.extractLsb' 0 32 }
  else if n = 0x018 then { t with tcause := v &&& 0x0000011F#32 }
  else if n = 0x019 then { t with tepc := v }
  else if n = 0x01A then { t with tval := v }
  else if n = 0x01B then { t with tstat := v &&& 0x0000000F#32 }
  else t

/-- CSRW (R364): the thread's register, or PLOST of its core by W1C (Table 6.1). -/
def execCsrw (s : BitVec 2) (h : BitVec 7) (a : XField) (g : BitVec 5) (st : State) : Host.Outcome State Fault Refusal :=
  issue st s 4 fun tid t => do
    let n := csrNumber h g
    checkCsr t n (wordOf (.csrw s h a g))
    generalChecks t [a] []
    let (v, t) ← needField st t a
    let st := st.setThread tid (t.csrWrite n v)
    if n = 0x00B ∧ v.getLsbD 24 then .ok { st := st.modCore tid.tile (coreOf tid.thr) fun c => { c with plost := false } }
    else .ok { st := st }

/-! ## TIME and SETFMT -/

/-- TIME and TIME.g (R368): the field's counter, or its global time, in a pair of registers. -/
def execTime (s : BitVec 2) (d : XField) (g : Bool) (st : State) : Host.Outcome State Fault Refusal :=
  issue st s 4 fun tid t => do
    checkRanges t (wordOf (.time s d g)) [(d, 2)]
    let f := fieldOf (st.berthOf tid.tile)
    let v : Int := (st.timeOf tid.tile : Int) - (if g then st.toffOf f else 0)
    .ok { st := st.setThread tid ((t.setX d.toNat (word64 v false)).setX (d.toNat + 1) (word64 v true)) }

/-- SETFMT (R369). -/
def execSetfmt (s : BitVec 2) (d a : XField) (st : State) : Host.Outcome State Fault Refusal :=
  issue st s 4 fun tid t => do
    generalChecks t [a] [d]
    let (v, t) ← needField st t a
    let t ← writeField st t d (.ready t.fmt)
    .ok { st := st.setThread tid { t with fmt := v } }

end Sys2Proof.Machine
end

