-- ==== Sys2Proof/Machine/Tasks.lean ====
section
/-! DEFINITION. Threads and tasks: creation, the end of a thread, TASKGET and TASKPUT, migration and following (R30, R52, R370 to
R376). -/

namespace Sys2Proof.Machine

/-! ## TSPAWN (R370) -/

/-- The child of a thread (R29, R370), from its spawn block. -/
def childThread (k : Kernel) (t : Thread) (parent : Nat) (ws : List Word) (base : Nat) : Thread :=
  { (Thread.fresh (ws.getD 0 0#32 &&& 0xFFFFFFFC#32) (regsOf (ws.getD 5 0#32)) base t.mode).withArgs k ((ws.drop 1).take 4) with
    fmt := t.fmt, scp := t.scp, sbchk := t.sbchk, fold := t.fold, migok := (ws.getD 5 0#32).getLsbD 17
    task := t.task, parent := some parent, paired := t.paired, priv := t.priv }

/-- TSPAWN (R370): a release of tile scope, and the child on the core that the block names, or the one that R39 chooses. -/
def execTspawn (s : BitVec 2) (d a : XField) (st : State) : Host.Outcome State Fault Refusal :=
  issue st s 4 fun tid t => do
    checkLimits t [d]
    checkRanges t (wordOf (.tspawn s d a)) [(a, 6)]
    checkEarly t (rangeFields a 6)
    let ws ← needRegs st t a.toNat 6
    match st.tile? tid.tile, st.launchOf tid.tile with
    | some tl, some l =>
      let st ← fenceStep st tid t true .tile
      let w := ws.getD 5 0#32
      let core := if w.getLsbD 11 then tl.chooseCore (regsOf w) else some (descField w 8 3)
      let child := if l.cancelled then none else core.bind fun c => st.createOn tid.tile c (regsOf w) (childThread l.kernel t tid.thr ws)
      let (v, st) : Word × State := match child with
        | some (n, st) => (BitVec.ofNat 32 n, st)
        | none => (0xFFFFFFFF#32, st)
      match st.thread? tid with
      | none => .error .hold
      | some t =>
        let t ← writeField st t d (.ready v)
        .ok { st := st.setThread tid t }
    | _, _ => .error .hold

/-! ## The end of a thread (R30, R301, R371) -/

/-- Whether a thread has anything that TEXIT and TASKGET wait for (R371): symbol-table entries, queued vector instructions, matrix
commands, undrained write streams, buffered or unperformed rim stores, or children. -/
def exitWaits (st : State) (tid : ThreadId) (t : Thread) : Bool :=
  decide (0 < st.symCount tid) ||
  (match t.claim.bind (st.vec? tid.tile) with
    | some c => !c.queue.isEmpty
    | none => false) ||
  !(st.cmdsOf tid).isEmpty ||
  !((List.range 8).all t.streamDrained) ||
  !t.lines.isEmpty ||
  (st.accesses.any fun a => a.agent == .thread tid && a.kind.writes && (match a.place with
    | .rim _ _ => true
    | _ => false)) ||
  (match st.tile? tid.tile with
    | some tl => tl.threads.any fun e => e.2.parent == some tid.thr
    | none => false)

/-- The wait of TEXIT and TASKGET (R371, R512): a claim's mark traps first, and the combining buffer drains. -/
def exitReady (st : State) (tid : ThreadId) (t : Thread) (why : Why) : Except Stop State := do
  match t.claim.bind fun n => (st.vec? tid.tile n).map fun c => (n, c) with
  | some (n, c) => checkStreamMark st tid n c
  | none => pure ()
  let st := st.drain tid
  if exitWaits st tid { t with lines := [] } then .error (.off why st) else .ok st

/-- Unbinds every stream of a thread (R301). -/
def State.unbindAll (st : State) (tid : ThreadId) : State := (List.range 8).foldl (fun st m => st.unbind tid m) st

/-- Frees a thread's slot with everything it holds (R30): its streams are unbound, its claim, group and membership end, its
followers resume, and its launch may complete. -/
def State.endThread (st : State) (tid : ThreadId) : State :=
  let st := ((st.unbindAll tid).endClaim tid).endFollowers tid
  ((st.removeThread tid).settleLease tid.tile).settleLaunch tid.tile.part tid.tile.slot

/-- TEXIT (R371). -/
def execTexit (s : BitVec 2) (st : State) : Host.Outcome State Fault Refusal :=
  issue st s 4 fun tid t => do
    let st ← exitReady st tid t .texit
    .ok { st := (st.retire tid t).endThread tid }

/-- TYIELD (R372): the thread is ready at once and dealt afresh. -/
def execTyield (s : BitVec 2) (st : State) : Host.Outcome State Fault Refusal :=
  issue st s 4 fun tid _ => .ok { st := st.dealThread tid }

/-! ## Kills (R52, R53, R168, R277, R301) -/

/-- A killed thread abandons its entries (R168, R277): posted RECVs are withdrawn, requests in the SFU's FIFO are removed, and the
results of the others are discarded as they come. -/
def State.abandonSymbols (st : State) (tid : ThreadId) : State :=
  st.modTile tid.tile fun tl =>
    let c := coreOf tid.thr
    let mine (e : Nat) : Bool := match (tl.core c).symbols.get? e with
      | some s => s.thr == tid.thr && !s.discard
      | none => false
    let waits (e : Nat) : Bool :=
      (tl.recvs.any fun r => r.core == c && r.entry == e && r.vec.isNone) ||
      tl.sfuFifo.any fun r => coreOf r.thr == c && r.entry == e
    let tl := tl.modCore c fun co => { co with symbols :=
      (co.symbols.filter fun e => !(mine e.1 && waits e.1)).map fun e => if mine e.1 then (e.1, { e.2 with discard := true }) else e }
    { tl with
      recvs := tl.recvs.filter fun r => !(r.core == c && r.vec.isNone && mine r.entry)
      sfuFifo := tl.sfuFifo.filter fun r => !(r.thr == tid.thr) }

/-- The matrix work of a killed thread (Table 12.5): commands that have not started are discarded, a step of an iteration is
interrupted, and the plane records that it set are dropped. -/
def State.killMatrix (st : State) (tid : ThreadId) : State :=
  let core := coreOf tid.thr
  let iter := match st.tile? tid.tile with
    | none => false
    | some tl => match (tl.core core).mcmds with
      | c :: _ => c.thr == tid.thr && isIter c.instr && c.started.isSome
      | [] => false
  let st := if iter then st.interruptIter tid.tile core else st
  let regs := ((st.cmdsOf tid).filter (·.started.isNone)).flatMap (·.regs)
  let drop (p : PlaneSrc) : PlaneSrc := if p.code ≠ 0 ∧ p.thr = tid.thr then PlaneSrc.empty else p
  let gone (p : PlaneSrc) : Bool := p.code != 0 && (drop p).code == 0
  let co := ((st.tile? tid.tile).map (·.core core)).getD Core.reset
  let holds := (st.tile? tid.tile).any fun tl => tl.arr.holder == some core
  let lost (shadow : Bool) : Bool := gone (if shadow then co.shadow else co.active)
  let st := if co.reload.head?.any lost then st.dropReload tid.tile core else st
  let st := (st.release regs).modCore tid.tile core fun co => { co with
    mcmds := co.mcmds.filter fun c => !(c.thr == tid.thr && c.started.isNone)
    active := drop co.active, shadow := drop co.shadow, reload := co.reload.filter fun b => !lost b }
  if holds then st.modArr tid.tile fun a => { a with
    active := if gone co.active then Plane.empty else a.active, shadow := if gone co.shadow then Plane.empty else a.shadow }
  else st

/-- The vector work of a killed thread (Table 11.10): queued instructions and their unperformed accesses are discarded, but for
stores that have their data. -/
def State.killVector (st : State) (tid : ThreadId) : State :=
  let st := { st with accesses := st.accesses.filter fun a => !(a.agent == Agent.vector tid && !(a.kind.writes && a.data.isSome)) }
  st.endClaim tid

/-- A killed thread leaves the barrier instances, which are discarded (Table 10.5). -/
def State.killBarriers (st : State) (tid : ThreadId) : State :=
  let drop (b : Option Barrier) : Option Barrier := b.filter fun b => !b.arrived.contains tid.thr
  (st.modCore tid.tile (coreOf tid.thr) fun c => { c with bar := drop c.bar }).modTile tid.tile fun tl => { tl with barTile := drop tl.barTile }

/-- Whether a killed thread's slot can be freed now (R301): its started commands have completed and its write streams have drained. -/
def killReady (st : State) (tid : ThreadId) (t : Thread) : Bool :=
  (st.cmdsOf tid).isEmpty && (List.range 8).all t.streamDrained

/-- A thread is killed (R52, R168, R305, R356): what can be abandoned is, and its slot is freed once the rest is done; `lost` says
that its task counts as cancelled (R53). -/
def State.killThread (st : State) (tid : ThreadId) (lost : Bool) : State :=
  match st.thread? tid with
  | none => st
  | some _ =>
    let st := ((((st.abandonSymbols tid).killMatrix tid).killVector tid).killBarriers tid).drain tid
    match st.thread? tid with
    | none => st
    | some t =>
      if killReady st tid t then
        let st := if lost && t.task.isSome && t.parent.isNone then
            st.modLaunch tid.tile.part tid.tile.slot fun l => { l with lost := l.lost + 1 }
          else st
        st.endThread tid
      else (st.modThread tid fun t => { t with kill := true, rerun := !lost }).goOff tid .texit

/-- THREAD_KILL (R52): under cancel a thread is killed at its next turn, or at once when it is off the wheel. -/
def execThreadKill (t : ThreadId) (st : State) : Host.Outcome State Fault Refusal :=
  match st.thread? t with
  | none => .next st
  | some th => if th.kill then .next (st.killThread t !th.rerun) else .next st

/-! ## TASKGET and TASKPUT (R373, R374) -/

/-- G of a thread's claim is recomputed at a TASKGET (R310). -/
def State.renegotiate (st : State) (tid : ThreadId) : State :=
  match (st.thread? tid).bind (·.claim) with
  | none => st
  | some n => st.modVec tid.tile n fun c =>
      let g := st.granted tid.tile c.grq
      { c with g := g, vl := min c.vl g }

/-- A thread takes the packet of its next task (R373). -/
def Thread.takeTask (t : Thread) (k : Kernel) (p : Packet) : Thread :=
  { t.setRegs 4 ((p.drop 1).take 4) with
    fmt := packetWord p 5, scp := packetWord p 6, migok := (packetWord p 7).getLsbD 17
    task := some (packetTask p), paired := pairOf k p }

/-- TASKGET (R373): waits as TEXIT, retires the task, and takes the head packet when its allocation is large enough. -/
def execTaskget (s : BitVec 2) (d : XField) (st : State) : Host.Outcome State Fault Refusal :=
  issue st s 4 fun tid t => do
    checkLimits t [d]
    if t.parent.isSome then .error (.trap .illegal (wordOf (.taskget s d)))
    let st ← exitReady st tid t .taskget
    match st.tile? tid.tile, st.launchOf tid.tile with
    | some tl, some l =>
      let st := (st.retire tid t).renegotiate tid
      match st.thread? tid with
      | none => .error .hold
      | some t =>
        match tl.work with
        | p :: rest =>
          if regsOf (packetWord p 7) ≤ t.alloc ∧ !l.cancelled then
            let st := st.modTile tid.tile fun tl => { tl with work := rest }.startPair l.kernel p
            let t ← writeField st (t.takeTask l.kernel p) d (.ready (packetWord p 0))
            .ok { st := ((st.setThread tid t).fillWork tid.tile).settleLaunch tid.tile.part tid.tile.slot }
          else none' st tid t d
        | [] => none' st tid t d
    | _, _ => .error .hold
where
  /-- No packet is taken: the thread holds no task. -/
  none' (st : State) (tid : ThreadId) (t : Thread) (d : XField) : Except Stop Done := do
    let t ← writeField st { t with task := none, paired := none } d (.ready 0xFFFFFFFF#32)
    .ok { st := (st.setThread tid t).settleLaunch tid.tile.part tid.tile.slot }

/-- The place of the element at a row-major index of a space 1 entry, for TASKPUT's block (R374): BOUNDS names the last dimension. -/
def putPlace (k : Kernel) (tid : ThreadId) (t : Thread) (kidx index : Nat) : Except Stop Nat :=
  let e := k.entryOf kidx
  let ext := e.ext.take e.rank
  if 2 ^ 32 ≤ index ∨ ext.foldl (fun n x => n * (x + 1)) 1 ≤ index then .error (.trap .bounds (locTval kidx (e.rank - 1) 0))
  else match resolveLoc k tid.tile.num tid.thr t.priv kidx .read (rowMajor ext index) 0 0 with
    | .error x => .error (locStop 0#32 x)
    | .ok .discard => .error (.trap .bounds (locTval kidx (e.rank - 1) 0))
    | .ok (.byte _ _ off _) => .ok (swizzle e.swz off)

/-- The places of a put block's words from an index on. -/
def putPlaces (k : Kernel) (tid : ThreadId) (t : Thread) (kidx index : Nat) : Nat → Except Stop (List Nat)
  | 0 => .ok []
  | n + 1 => do
    let p ← putPlace k tid t kidx index
    let ps ← putPlaces k tid t kidx (index + 1) n
    .ok (p :: ps)

/-- No word of a put block lies under a registered range (R111); the lowest failing word decides. -/
def checkLocks (st : State) (tid : ThreadId) : List Nat → Except Stop Unit
  | [] => .ok ()
  | o :: os => do
    checkLock st tid (.scratch tid.tile o) 4 0 false
    checkLocks st tid os

/-- TASKPUT (R374). -/
def execTaskput (s : BitVec 2) (d a : XField) (st : State) : Host.Outcome State Fault Refusal :=
  issue st s 4 fun tid t => do
    checkLimits t [d]
    checkRanges t (wordOf (.taskput s d a)) [(a, 3)]
    checkEarly t (rangeFields a 3)
    let ws ← needRegs st t a.toNat 3
    match st.launchOf tid.tile with
    | none => .error .hold
    | some l =>
      let dst := (ws.getD 0 0#32).toNat
      let kidx := descField (ws.getD 1 0#32) 0 6
      let e := l.kernel.entryOf kidx
      if e.space ≠ 1 ∨ e.elem ≠ 2 then .error (.trap .access (locTval kidx 0 0))
      let ps ← putPlaces l.kernel tid t kidx (ws.getD 2 0#32).toNat 16
      if !l.kernel.inGrid dst then .error (.trap .bounds (ws.getD 0 0#32))
      let st ← fenceStep st tid t true .grid
      checkLocks st tid ps
      let p : Packet := ps.map fun o => BitVec.ofNat 32 (memRead st.mem (Place.scratch tid.tile o).key 4)
      let entry := packetWord p 0
      let status : Nat :=
        if !packetClean p then 1
        else if entry &&& 3#32 ≠ 0#32 ∨ l.kernel.codeSize ≤ entry.toNat then 2
        else 0
      let st := if status = 0 then
          let (id, st) := st.freshId
          (st.modTile tid.tile fun tl => tl.enqueue id tid.tile (withNum tid.tile dst) (.packet p)).present tid (.taskput dst p)
        else st
      match st.thread? tid with
      | none => .error .hold
      | some t =>
        let t ← writeField st t d (.ready (BitVec.ofNat 32 status))
        .ok { st := st.setThread tid t }

/-! ## Migration and following (R375, R376) -/

/-- MIGRATE (R375, R44 to R46). -/
def execMigrate (s : BitVec 2) (a : XField) (st : State) : Host.Outcome State Fault Refusal :=
  issue st s 4 fun tid t => do
    generalChecks t [a] []
    let (v, t') ← needField st t a
    match st.launchOf tid.tile with
    | none => .error .hold
    | some l =>
      if !l.kernel.inGrid v.toNat then .error (.trap .bounds v)
      let bad := migrateFailures st tid t
      if bad ≠ 0 then .error (.trap .access (BitVec.ofNat 32 bad))
      if v.toNat = tid.tile.num then
        match allReady st t with
        | some stop => .error stop
        | none => .ok { st := st.setThread tid t' }
      else
        let st ← departReady st tid t
        .ok { st := (st.depart tid t v.toNat (t.pc + 4#32)).settleLaunch tid.tile.part tid.tile.slot }

/-- FOLLOW (R48, R376): the thread waits to join the leader that it names, or that leader's leader. -/
def execFollow (s : BitVec 2) (a : XField) (st : State) : Host.Outcome State Fault Refusal :=
  issue st s 4 fun tid t => do
    generalChecks t [a] []
    let (v, t) ← needField st t a
    let n := v.toNat % 512
    if n = 511 then .error (.trap .priv (wordOf (.follow s a)))
    let st := st.setThread tid t
    match st.tile? tid.tile with
    | none => .error .hold
    | some tl =>
      match tl.threads.get? n with
      | none => .ok { st := st }
      | some lead =>
        let leader := match lead.follow with
          | some f => f.leader
          | none => n
        if t.follow.isSome ∨ lead.mode ≠ t.mode ∨ leader = tid.thr ∨ n = tid.thr ∨ 15 ≤ (tl.followers leader).length then .ok { st := st }
        else .ok { st := (st.modThread tid fun th => { th with follow := some ⟨leader, false, []⟩ }).goOff tid .followJoin }

/-- UNFOLLOW (R49, R376). -/
def execUnfollow (s : BitVec 2) (st : State) : Host.Outcome State Fault Refusal :=
  issue st s 4 fun tid _ => .ok { st := st.modThread tid Thread.stopFollow }

end Sys2Proof.Machine
end

