-- ==== Sys2Proof/Machine/Cancel.lean ====
section
/-! DEFINITION. CANCEL of the four levels (R52, R380, R438). -/

namespace Sys2Proof.Machine

/-- The launch slots of a node of a graph. -/
def State.slotsOf (st : State) (part job graph node : Nat) : List Nat :=
  (st.launches.filter fun e => e.1.1 == part && e.2.job == job && e.2.graph == graph && e.2.node.toNat == node).map (·.1.2)

/-- Cancels one node (R52, R438): its running launch, or its command that waits. -/
def State.cancelNode (st : State) (part job graph node : Nat) : State :=
  let st := (st.slotsOf part job graph node).foldl (fun st s =>
    match st.launches.get? (part, s) with
    | some l => if l.cancelled then st else (st.cancelLaunch part s).settleLaunch part s
    | none => st) st
  let mine (c : HostCmd) : Bool := cmdJob c == job && cmdGraph c == graph && cmdNode c == node
  let p := st.part part
  let st := ((p.parked.map (·.1) ++ p.ready).filter mine).foldl (fun st c => st.endUnstarted part c .cancelled 0) st
  (State.settleParked part (st.part part).parked.length st).settlePhase part job

/-- Marks a graph cancelled and cancels its nodes that have not completed; a graph that has completed, or on which a cancel has acted,
is left (R438). -/
def State.cancelGraph (st : State) (part job graph : Nat) : State :=
  match (st.part part).graphs.get? (job, graph) with
  | none => st
  | some g =>
    if g.level.closed ∨ g.acted then st
    else
      let st := st.modPart part fun p => { p with graphs := p.graphs.update (job, graph) fun g =>
        { g with acted := true, level := { g.level with state := .cancelled } } }
      let live := (g.nodes.filter fun n => !n.2.ended).map (·.1)
      (live.foldl (fun st n => st.cancelNode part job graph n) st).settleGraph part job graph

/-- The numbers of a job's graphs that satisfy a test. -/
def Part.graphNums (p : Part) (job : Nat) (f : GraphRec → Bool) : List Nat :=
  (p.graphs.filter fun e => e.1.1 == job && f e.2).map (·.1.2)

/-- Cancels a phase: marks it, and cancels its graphs (R438). -/
def State.cancelPhase (st : State) (part job phase : Nat) : State :=
  match (st.part part).phases.get? (job, phase) with
  | none => st
  | some v =>
    if v.closed ∨ v.state = .cancelled then st
    else
      let st := st.modPart part fun p => { p with phases := p.phases.update (job, phase) fun v => { v with state := .cancelled } }
      (((st.part part).graphNums job fun g => g.phase == some phase).foldl (fun st g => st.cancelGraph part job g) st).settlePhase part job

/-- A waiting PHASE command of a cancelled job completes CANCELLED without starting, and its queue goes on (R438, R509). -/
def State.dropWaiting (st : State) (part : Nat) (c : HostCmd) : State :=
  ((st.modPart part fun p => { p with waiting := p.waiting.erase c }).modQueue c.queue fun q =>
    { q with blocked := false, since := st.partTime part }).doneIrq c.queue (cmdIrq c)

/-- A checkpoint of a job that is cancelled is abandoned (R509). -/
def State.abandonCheckpoint (st : State) (part job : Nat) : State :=
  st.modPart part fun p =>
    if p.ckstep ≠ .idle ∧ p.ckphase.1 = job then { p with ckstep := .idle, ckstate := 4, ckcount := 0 } else p

/-- Cancels a job: marks it, and cancels its phases and graphs (R438). -/
def State.cancelJob (st : State) (part job : Nat) : State :=
  match (st.part part).jobs.get? job with
  | none => st
  | some j =>
    if j.level.closed ∨ j.level.state = .cancelled then st
    else
      let st := st.modPart part fun p => { p with jobs := p.jobs.update job fun j => { j with level := { j.level with state := .cancelled } } }
      let st := st.abandonCheckpoint part job
      let st := ((st.part part).waiting.filter fun c => cmdJob c = job).foldl (fun st c => st.dropWaiting part c) st
      let phases := ((st.part part).phases.filter fun e => e.1.1 = job).map (·.1.2)
      let st := phases.foldl (fun st ph => st.cancelPhase part job ph) st
      (((st.part part).graphNums job fun _ => true).foldl (fun st g => st.cancelGraph part job g) st).settlePhase part job

/-- A CANCEL instruction (R380): the level of the issuing thread is cancelled, and the instruction does not complete. -/
def opCancel (st : State) (s : BitVec 2) (priv : Option Word) (f : State → Nat → Launch → State) : Host.Outcome State Fault Refusal :=
  issue st s 4 fun tid t =>
    match priv, t.priv with
    | some w, false => .error (.trap .priv w)
    | _, _ => match st.launchOf tid.tile with
      | none => .error .hold
      | some l => .error (.wait (f st tid.tile.part l))

/-- CANCEL.launch. -/
def execCancelLaunch (s : BitVec 2) (st : State) := opCancel st s none fun st p l => st.cancelNode p l.job l.graph l.node.toNat
/-- CANCEL.graph. -/
def execCancelGraph (s : BitVec 2) (st : State) := opCancel st s none fun st p l => st.cancelGraph p l.job l.graph
/-- CANCEL.phase, privileged. -/
def execCancelPhase (s : BitVec 2) (st : State) := opCancel st s (some (wordOf (.cancelPhase s))) fun st p l => st.cancelPhase p l.job l.phase
/-- CANCEL.job, privileged. -/
def execCancelJob (s : BitVec 2) (st : State) := opCancel st s (some (wordOf (.cancelJob s))) fun st p l => st.cancelJob p l.job

end Sys2Proof.Machine
end

