-- ==== Sys2Proof/Machine/Control.lean ====
section
/-! DEFINITION. Branches, jumps and counted loops (R264 to R271). -/

namespace Sys2Proof.Machine

/-- The target of a transfer with a word offset (R226). -/
def branchTarget (addr off : Word) : Word := addr + off * 4#32

/-- A compare branch with a 32-bit word count (R264). Both fields are read whether or not it is taken. -/
def branchWith (s : BitVec 2) (len : Nat) (c : Cond) (a b : XField) (off : Word) (st : State) :
    Host.Outcome State Fault Refusal :=
  issue st s len fun tid t => do
    generalChecks t [a, b] []
    let (x, t) ← needField st t a
    let (y, t) ← needField st t b
    .ok { st := st.setThread tid t, next := if condHolds c x y then .jump (branchTarget t.pc off) else .fall }

/-- BEQ. -/
def execBeq (s : BitVec 2) (a b : XField) (o : BitVec 10) (st : State) := branchWith s 4 .eq a b (sext10 o) st
/-- BNE. -/
def execBne (s : BitVec 2) (a b : XField) (o : BitVec 10) (st : State) := branchWith s 4 .ne a b (sext10 o) st
/-- BLT. -/
def execBlt (s : BitVec 2) (a b : XField) (o : BitVec 10) (st : State) := branchWith s 4 .lt a b (sext10 o) st
/-- BGE. -/
def execBge (s : BitVec 2) (a b : XField) (o : BitVec 10) (st : State) := branchWith s 4 .ge a b (sext10 o) st
/-- BLTN. -/
def execBltn (s : BitVec 2) (a b : XField) (o : BitVec 10) (st : State) := branchWith s 4 .ltn a b (sext10 o) st
/-- BGEN. -/
def execBgen (s : BitVec 2) (a b : XField) (o : BitVec 10) (st : State) := branchWith s 4 .gen a b (sext10 o) st

/-- BP (R265): taken when the predicate equals the sense. -/
def execBp (s : BitVec 2) (p : BitVec 3) (n : Bool) (o : BitVec 20) (st : State) : Host.Outcome State Fault Refusal :=
  issue st s 4 fun _ t =>
    .ok { st := st, next := if t.pred p == n then .jump (branchTarget t.pc (o.signExtend 32)) else .fall }

/-- JAL (R266): links in x2. -/
def execJal (s : BitVec 2) (o : BitVec 24) (st : State) : Host.Outcome State Fault Refusal :=
  issue st s 4 fun tid t =>
    .ok { st := st.setThread tid (t.setX 2 (t.pc + 4#32)), next := .jump (branchTarget t.pc (o.signExtend 32)) }

/-- JALR with a 32-bit offset (R267): the target is formed before d is written, and its low two bits are ignored. -/
def jalrWith (s : BitVec 2) (len : Nat) (d a : XField) (imm : Word) (st : State) : Host.Outcome State Fault Refusal :=
  issue st s len fun tid t => do
    generalChecks t [a] [d]
    let (x, t) ← needField st t a
    let t ← writeField st t d (.ready (t.pc + BitVec.ofNat 32 len))
    .ok { st := st.setThread tid t, next := .jump ((x + imm) &&& 0xFFFFFFFC#32) }
/-- JALR. -/
def execJalr (s : BitVec 2) (d a : XField) (i : BitVec 10) (st : State) := jalrWith s 4 d a (sext10 i) st

/-- LOOP (R269): pushes a level, or skips the body when the count is zero. -/
def execLoop (s : BitVec 2) (a b : XField) (o : BitVec 10) (st : State) : Host.Outcome State Fault Refusal :=
  issue st s 4 fun tid t => do
    checkLimits t [a, b]
    let word := wordOf (.loop s a b o)
    if t.isStream b then .error (.trap .illegal word)
    checkEarly t [a]
    let (n, t) ← needField st t a
    let stop := branchTarget t.pc (sext10 o)
    if 2 ≤ t.loops.length then .error (.trap .illegal word)
    match t.loops with
    | l :: _ =>
      if decide (l.stop < stop) then .error (.trap .illegal word)
    | [] => pure ()
    if n = 0#32 then
      match t.loops with
      | l :: _ =>
        if l.stop = stop then
          let (t', pc) := t.loopEnd (stop + 4#32) t.loops
          .ok { st := st.setThread tid t', next := .set pc }
        else .ok { st := st.setThread tid t, next := .set (stop + 4#32) }
      | [] => .ok { st := st.setThread tid t, next := .set (stop + 4#32) }
    else
      let t := { t with loops := ⟨t.pc + 4#32, stop, n.toNat, 0#32, b.toNat⟩ :: t.loops }
      .ok { st := st.setThread tid (t.setX b.toNat 0#32), next := .set (t.pc + 4#32) }

end Sys2Proof.Machine
end

