-- ==== Sys2Proof/Machine/System.lean ====
section
/-! DEFINITION. Waits on symbols, the privileged functions, illegal words and IMX pairs (R227 to R229, R236, R239, R377 to R379). -/

namespace Sys2Proof.Machine

/-! ## SYMWAIT and SYMQ (R377, R378) -/

/-- SYMWAIT and SYMWAIT.any (R377). The field a of SYMWAIT.any is an operand field whose value nothing uses: its code is checked, and a
stream code there pops an element (R232, R357; log entry 35). -/
def execSymwait (s : BitVec 2) (d a : XField) (y : Bool) (st : State) : Host.Outcome State Fault Refusal :=
  issue st s 4 fun tid t => do
    checkLimits t [a, d]
    checkEarly t (if y then [] else [a])
    let held := st.symCount tid
    if y then
      if 8 ≤ held then .error (.off .symAny st)
      else
        let (_, t) ← readField st t a
        let t ← writeField st t d (.ready (BitVec.ofNat 32 held))
        .ok { st := st.setThread tid t }
    else if a = 0 then
      if 0 < held then .error (.off .symNone st)
      else
        let t ← writeField st t d (.ready 0#32)
        .ok { st := st.setThread tid t }
    else
      let (v, t) ← readField st t a
      match v with
      | .pending e w _ true => .error (.trap .soft (symName e w))
      | .pending .. => .error (.off (.symReg a.toNat) st)
      | .corrupt => .error (.trap .soft (corruptTval a.toNat))
      | .ready v =>
        let t ← writeField st t d (.ready v)
        .ok { st := st.setThread tid t }

/-- What SYMQ reports of a register (R378). -/
def symqWord (r : RegState) (held : Nat) : Word :=
  match r with
  | .ready _ | .corrupt => BitVec.ofNat 32 (held % 16 * 2 ^ 8)
  | .pending e w _ poison => BitVec.ofNat 32 (1 + poison.toNat * 2 + held % 16 * 2 ^ 8 + (symName e w).toNat % 2 ^ 11 * 2 ^ 16)

/-- SYMQ (R378): it never waits. -/
def execSymq (s : BitVec 2) (d a : XField) (st : State) : Host.Outcome State Fault Refusal :=
  issue st s 4 fun tid t => do
    generalChecks t [a] [d]
    let (v, t) ← readField st t a
    let t ← writeField st t d (.ready (symqWord v (st.symCount tid)))
    .ok { st := st.setThread tid t }

/-! ## Privileged functions (R379) -/

/-- Whether an access that is older than a mark was translated for a tile of a berth, or of a berth's field (R470). -/
def tlbAccess (st : State) (berth mark : Nat) (field : Bool) (a : Access) : Bool :=
  decide (a.id < mark) &&
  (match a.place with
    | .rim _ _ => true
    | _ => false) &&
  (match (st.tile? a.agent.tile).bind (·.berth) with
    | some b => b == berth || (field && fieldOf b == fieldOf berth)
    | none => false)

/-- Whether the accesses that a TLBINV waits for have been performed (R470). -/
def tlbinvDone (st : State) (tile : TileId) (mark : Nat) (field : Bool) : Bool :=
  !(st.accesses.any (tlbAccess st (st.berthOf tile) mark field))

/-- TLBINV (R379, R470): the invalidation, and the wait for what was translated before. -/
def execTlbinv (s : BitVec 2) (a : XField) (f u : Bool) (st : State) : Host.Outcome State Fault Refusal :=
  issue st s 4 fun tid t => do
    if !t.priv then .error (.trap .priv (wordOf (.tlbinv s a f u)))
    generalChecks t [a] []
    let (v, t) ← needField st t a
    let b := st.berthOf tid.tile
    let st := (st.setThread tid t).modBerth b fun x => { x with utlb := if u then [] else x.utlb.filter fun e => !e.maps e.root (v.toNat * 65536) }
    let st := if f then st.modField (fieldOf b) fun x => { x with tlb := [] } else st
    let mark := st.nextId
    if tlbinvDone st tid.tile mark f then .ok { st := st } else .ok { st := st.goOff tid (.tlbinv mark f) }

/-- HALT (R379): the core issues nothing until it is restarted. -/
def execHalt (s : BitVec 2) (st : State) : Host.Outcome State Fault Refusal :=
  issue st s 4 fun tid t =>
    if !t.priv then .error (.trap .priv (wordOf (.halt s)))
    else .ok { st := st.modCore tid.tile (coreOf tid.thr) fun c => { c with halted := true } }

/-- CORE_RESTART (R379): the field controller restarts issue on a halted core. -/
def execCoreRestart (tile : TileId) (core : Nat) (st : State) : Host.Outcome State Fault Refusal :=
  .next (st.modCore tile core fun c => { c with halted := false })

/-! ## Illegal words and IMX pairs -/

/-- A word that does not decode (R236): ILLEGAL with the word. -/
def execIllegal (w : Word) (st : State) : Host.Outcome State Fault Refusal :=
  issue st 0#2 4 fun _ _ => .error (.trap .illegal w)

/-- The value of a pair (R227). -/
def pairValue (i : BitVec 22) (lo : BitVec 10) : Word := i ++ lo

/-- A second word that the pair's value or the decode makes illegal: ILLEGAL at the IMX word, with the second word. -/
def illegalPair (w : Word) (st : State) : Host.Outcome State Fault Refusal :=
  issue st 0#2 8 fun _ _ => .error (.trap .illegal w)

/-- An instruction with the 32-bit immediate of its pair (R227, R239); the forms that take no prefix answer as an illegal pair. -/
def pairExec (i : BitVec 22) (w : Word) (instr : Instr) (st : State) : Host.Outcome State Fault Refusal :=
  match instr with
  | .addi s d a lo => addiWith s 8 d a (pairValue i lo) st
  | .andi s d a lo => opNeedImm st s 8 d a (pairValue i lo) (· &&& ·)
  | .ori s d a lo => opNeedImm st s 8 d a (pairValue i lo) (· ||| ·)
  | .xori s d a lo => opNeedImm st s 8 d a (pairValue i lo) (· ^^^ ·)
  | .slti s d a lo => opNeedImm st s 8 d a (pairValue i lo) slt
  | .sltni s d a lo => opNeedImm st s 8 d a (pairValue i lo) sltn
  | .slli s d a k => if i = 0 then slliWith s 8 d a k st else illegalPair w st
  | .srli s d a k => if i = 0 then opNeedImm st s 8 d a (k.setWidth 32) srl else illegalPair w st
  | .srai s d a k => if i = 0 then opNeedImm st s 8 d a (k.setWidth 32) sra else illegalPair w st
  | .rotri s d a k => if i = 0 then opNeedImm st s 8 d a (k.setWidth 32) rotr else illegalPair w st
  | .li s d v => if v.extractLsb' 10 7 = 0 then liWith s 8 d (pairValue i (v.extractLsb' 0 10)) st else illegalPair w st
  | .pcmpi s g c p a lo => pcmpiWith s 8 g c p a (pairValue i lo) st
  | .beq s a b o => branchWith s 8 .eq a b (pairValue i o) st
  | .bne s a b o => branchWith s 8 .ne a b (pairValue i o) st
  | .blt s a b o => branchWith s 8 .lt a b (pairValue i o) st
  | .bge s a b o => branchWith s 8 .ge a b (pairValue i o) st
  | .bltn s a b o => branchWith s 8 .ltn a b (pairValue i o) st
  | .bgen s a b o => branchWith s 8 .gen a b (pairValue i o) st
  | .jalr s d a lo => jalrWith s 8 d a (pairValue i lo) st
  | _ => illegalPair w st

/-- Whether a word is an instruction in the decode mode of the thread that takes this turn (R236, R250). -/
def modeDecodes (st : State) (w : Word) : Bool :=
  match (st.cur.bind st.thread?).map (·.mode) with
  | some m => !modeRejects m w.toNat
  | none => true

/-- IMX (R227 to R229): the pair of an IMX word and its next word; a next word whose major takes no prefix is ILLEGAL at the IMX
word. -/
def execImx (i : BitVec 22) (w : Word) (st : State) : Host.Outcome State Fault Refusal :=
  if !acceptsImx w.toNat then execIllegal (wordOf (.imx i w)) st
  else if !modeDecodes st w then illegalPair w st
  else match decodeWord w.toNat with
    | .ok instr => pairExec i w instr st
    | .error _ => illegalPair w st

/-! ## The turn's own events -/

/-- A turn of its position at a tile cycle is forgone by a thread with an unspent stall count (R35), or as the bubble of R409. A thread
that was moved takes and forgoes none before 8 tile cycles after its last issue, and a forgone turn counts as one (R36, R404). -/
def Thread.forgo (t : Thread) (cycle : Nat) : Thread :=
  if cycle < t.notBefore then t
  else if 0 < t.stall then { t with stall := t.stall - 1, lastIssue := cycle }
  else if t.bubble then { t with bubble := false, lastIssue := cycle }
  else t

/-- STALL_COUNT_EXPIRY (R35): a forgone turn of a thread that stands at a position; with the last one it is eligible again. -/
def execStallCountExpiry (t : ThreadId) (st : State) : Host.Outcome State Fault Refusal :=
  .next (st.modThread t fun th => match th.status with
    | .dealt _ => th.forgo (st.cycleOf t.tile)
    | _ => th)

/-! ## The refresh window (R78, R478) -/

/-- REFRESH_WINDOW_OPEN (R78, R478): the window that the field's time opens begins its scrub; lines poisoned before are rewritten, and 16 more are scrubbed, of which
`bad` names the uncorrectable ones. -/
def execRefreshWindowOpen (berth : Nat) (bad : List Nat) (st : State) : Host.Outcome State Fault Refusal :=
  if (st.berth berth).window || !refreshTime st berth then .next st
  else .next (st.modBerth berth fun b =>
    let found := bad.filter fun l => decide (l / 16 = b.scrub)
    let b' := found.foldl (fun (x : Berth) _ => x.countBad st.now) b
    { b' with window := true, scrub := (b.scrub + 1) % 4096, poison := found })

/-- REFRESH_WINDOW_CLOSE (R78): the window's scrub is over. -/
def execRefreshWindowClose (berth : Nat) (st : State) : Host.Outcome State Fault Refusal :=
  if refreshTime st berth then .next st else .next (st.modBerth berth fun b => { b with window := false })

end Sys2Proof.Machine
end

