-- ==== Sys2Proof/Machine/Firmware.lean ====
section
/-! DEFINITION. What firmware does with a parked trap, and checked pairs (R473 to R475, R477, R480, R481). -/

namespace Sys2Proof.Machine

/-! ## The backing map (R474) -/

/-- The granules of a partition that no mapped range of its jobs names and that hold no job's table root, in ascending order. -/
def State.freeGranules (st : State) (part : Nat) : List Nat :=
  let maps := (st.backing.filter fun e => e.1.1 = part).flatMap (·.2)
  let roots := (st.roots.filter fun e => e.1.1 = part).map (·.2)
  let named (g : Nat) : Bool :=
    (maps.any fun r => match r.pa with
      | some pa => decide (pa < (g + 1) * 2 ^ 30) && decide (g * 2 ^ 30 < pa + r.len)
      | none => false) ||
    roots.any fun a => a / 2 ^ 30 == g
  ((List.range 4096).filter fun g => st.granuleOk part (g * 2 ^ 30)).filter fun g => !named g

/-- Takes a zero-filled page of 64 KiB from a partition's free granules (R474). -/
def State.takePage (st : State) (part : Nat) : Option (Nat × State) :=
  let n := (st.part part).bump
  match (st.freeGranules part)[n / 16384]? with
  | none => none
  | some g =>
    let pa := g * 2 ^ 30 + n % 16384 * 65536
    let lo := memKey 2 0 pa
    let st := st.modPart part fun p => { p with bump := p.bump + 1 }
    some (pa, { st with mem := st.mem.filter fun c => !(decide (lo ≤ c.1) && decide (c.1 < lo + 65536)) })

/-- A translation entry that names a table or a page (Table 24.1). -/
def leafEntry (pa : Nat) (leaf r w ns : Bool) : Nat :=
  2 ^ 63 + leaf.toNat * 2 ^ 62 + w.toNat * 2 ^ 61 + r.toNat * 2 ^ 60 + ns.toNat * 2 ^ 59 + pa / 256 * 256

/-- The table of the next level below an entry, made from a fresh page when the entry is not valid. -/
def State.nextTable (st : State) (part table level va : Nat) : Option (Nat × State) :=
  let at' := table + 8 * (levelIndex level va).1
  let e := st.rim64 at'
  if e / 2 ^ 63 % 2 = 1 then
    if e / 2 ^ 62 % 2 = 1 then none else some (e / 256 % 2 ^ 34 * 256, st)
  else match st.takePage part with
    | none => none
    | some (pa, st) => some (pa, { st with mem := memWrite st.mem (memKey 2 0 at') 8 (leafEntry pa false false false (st.isNs part)) })

/-- Firmware writes the leaf of a virtual address from its backing range (R474). -/
def State.writeLeaf (st : State) (part root va : Nat) (b : BackRange) : Option State :=
  match (match b.pa with
    | some pa => some (pa + (va / 65536 * 65536 - b.va), st)
    | none => st.takePage part) with
  | none => none
  | some (page, st) => match st.nextTable part root 1 va with
    | none => none
    | some (t2, st) => match st.nextTable part t2 2 va with
      | none => none
      | some (t3, st) =>
        let at' := t3 + 8 * (levelIndex 3 va).1
        some { st with mem := memWrite st.mem (memKey 2 0 at') 8 (leafEntry page true b.r b.w (st.isNs part)) }

/-- Firmware's answer to a TRANSLATION (R474, R475): the state with the page's leaf, or none when the trap is forwarded. -/
def State.mapPage (st : State) (part root job va : Nat) : Option State :=
  match walk st part root va false false with
  | .ok _ => some st
  | .error f =>
    if f.malformed then none
    else if f.cause = .access then some st
    else match ((st.backing.get? (part, job)).getD []).find? fun b => decide (b.va ≤ va) && decide (va < b.va + b.len) with
      | none => none
      | some b => st.writeLeaf part root va b

/-! ## The three ends of a parked trap (R473) -/

/-- Whether a SOFT trap names a symbol (R167, R477). -/
def isSymbolTval (v : Word) : Bool := decide (v.toNat < 2 ^ 11)

/-- A poisoned symbol's registers resolve with the words of a clean read (R477). -/
def Thread.cleanRead (t : Thread) (name : Word) : Thread :=
  let entry := name.toNat % 256
  match t.poisons.get? entry with
  | none => t
  | some data => { t.resolveAs entry data true with poisons := t.poisons.erase entry }

/-- The state in which firmware resumes a parked thread, or none when it forwards the trap (R474, R477). -/
def State.resolveTrap (st : State) (t : ThreadId) (th : Thread) (f : FwTrap) (clean : Bool) : Option State :=
  match f.cause with
  | .translation =>
    if descField th.finfo 28 3 = 3 then none
    else match st.launchOf t.tile with
      | none => none
      | some l => match st.rootOf t.tile.part l with
        | none => none
        | some root => st.mapPage t.tile.part root l.job th.fva.toNat
  | .soft => if isSymbolTval f.tval && clean && (th.poisons.get? (f.tval.toNat % 256)).isSome then some (st.modThread t fun th => th.cleanRead f.tval) else none
  | _ => none

/-- Resumes a thread (R473): nothing records the trap. -/
def State.resume (st : State) (t : ThreadId) : State :=
  (st.modThread t fun th => { th with fwTrap := none, fva := 0, finfo := 0 }).dealThread t

/-- Forwards a parked trap (R473): TakeTrap with FWD = 1 and the original TVAL. -/
def State.forward (st : State) (t : ThreadId) (f : FwTrap) : State :=
  let st := st.modThread t fun th => { th with fwTrap := none, fva := 0, finfo := 0 }
  let st := st.userTrap t f.cause f.tval f.epc f.fol f.pair true
  match st.thread? t with
  | some th => if th.kill then st else st.dealThread t
  | none => st

/-- FW_RESUME (R473): firmware resolves the fault and resumes the thread; `clean` says that a second read of a poisoned symbol was
clean, and one that was not is forwarded (R477). -/
def execFwResume (t : ThreadId) (clean : Bool) (st : State) : Host.Outcome State Fault Refusal :=
  match st.thread? t with
  | none => .next st
  | some th => match th.fwTrap with
    | none => .next st
    | some f => match st.resolveTrap t th f clean with
      | some st => .next (st.resume t)
      | none => if f.cause = .soft ∧ isSymbolTval f.tval ∧ !clean then .next (st.forward t f) else .next st

/-- FW_FORWARD (R473, R474, R477): a trap that firmware does not resolve is forwarded; MISMATCH never is. -/
def execFwForward (t : ThreadId) (st : State) : Host.Outcome State Fault Refusal :=
  match st.thread? t with
  | none => .next st
  | some th => match th.fwTrap with
    | none => .next st
    | some f =>
      if f.cause = .mismatch then .next st
      else match st.resolveTrap t th f false with
        | some _ => .next st
        | none => .next (st.forward t f)

/-! ## Checked pairs (R480, R481) -/

/-- Firmware's handling of a mismatch (R481): the thread is killed and its packet rerun; the second mismatch of a task marks both
berths MARGINAL, and the third fails the launch. -/
def State.mismatch (st : State) (t : ThreadId) (th : Thread) (f : FwTrap) : State :=
  match th.task, th.paired with
  | some k, some p =>
    let n := (((st.tile? t.tile).bind (·.pairs.get? k.id)).getD (0, 0)).2 + 1
    if 3 ≤ n then st.failThread t 1 f.cause f.epc f.tval
    else
      let st := st.killThread t false
      let st := st.modTile t.tile fun tl => { tl with work := p :: tl.work, pairs := tl.pairs.set k.id (0, n) }
      if n = 2 then
        let b := st.berthOf t.tile
        (st.modBerth b fun x => { x with marginal := true }).modBerth (b + 1) fun x => { x with marginal := true }
      else st
  | _, _ => st.failThread t 1 f.cause f.epc f.tval

/-- FW_KILL (R473, R481): firmware kills a parked thread; a mismatch is handled by R481, and any other trap fails the launch. -/
def execFwKill (t : ThreadId) (st : State) : Host.Outcome State Fault Refusal :=
  match st.thread? t with
  | none => .next st
  | some th => match th.fwTrap with
    | none => .next st
    | some f => .next (if th.kill then st else if f.cause = .mismatch then st.mismatch t th f else st.failThread t 1 f.cause f.epc f.tval)

/-- Both members of a thread's pair trap MISMATCH (R481), with the count of items compared equal; neither differs from the other any
more. -/
def State.trapMismatch (st : State) (t : ThreadId) (th : Thread) : State :=
  match th.task with
  | some k =>
    let n := (((st.tile? t.tile).bind (·.pairs.get? k.id)).getD (0, 0)).1
    ((st.modTile t.tile fun tl => { tl with twins := tl.twins.erase t.thr }).setInfo t .mismatch none).takeTrap t .mismatch (BitVec.ofNat 32 n) th.pc false
  | none => st

/-- Whether a member of a thread's pair has waited 65,536 tile cycles for the other's item (R480). -/
def Tile.pairOverdue (tl : Tile) (thr : Nat) : Bool := (tl.twin thr).waits.any fun w => decide (w.2 + 65536 ≤ tl.cycle)

/-- PAIR_TIMEOUT (R480, R481): one member has presented an item that the other has not within 65,536 tile cycles; the thread of the
pair traps MISMATCH. -/
def execPairTimeout (t : ThreadId) (st : State) : Host.Outcome State Fault Refusal :=
  match st.thread? t, st.tile? t.tile with
  | some th, some tl =>
    if th.paired.isNone ∨ th.fwTrap.isSome ∨ !tl.pairOverdue t.thr then .next st else .next (st.trapMismatch t th)
  | _, _ => .next st

end Sys2Proof.Machine
end

