-- ==== Sys2Proof/Machine/Wakeup.lean ====
section
/-! DEFINITION. When a thread that is off the wheel becomes ready (R32, R33). -/

namespace Sys2Proof.Machine

/-- Whether a register no longer keeps its thread off the wheel: it is ready, or its poison traps (R158, R167). -/
def RegState.settled : RegState → Bool
  | .ready _ | .corrupt => true
  | .pending _ _ _ poison => poison

/-- Whether a fence can take its next step (R103). -/
def fenceMoves (st : State) (tid : ThreadId) (t : Thread) (r : FenceRun) : Bool :=
  match r.probes with
  | some ps => fenceDone st tid t r.scope ps
  | none => loadsResolved st tid && (!r.release || (t.lines.isEmpty && streamsIssued st tid t && vectorsIssued st tid) || !t.lines.isEmpty)

/-- Whether a thread's claim is marked with the fault of a stream element (R512): what waits on the claim traps. -/
def vecStopped (st : State) (tid : ThreadId) (t : Thread) : Bool := (t.claim.bind (st.vec? tid.tile)).any (·.stop.isSome)

/-- Whether the queue of a thread's claim has a number of free entries, or none holds it any more (R313). -/
def vecRoom (st : State) (tid : ThreadId) (t : Thread) (n : Nat) : Bool :=
  match t.claim.bind (st.vec? tid.tile) with
  | some c => decide (c.used + n ≤ 16) || c.mark.isSome || c.stop.isSome
  | none => true

/-- Whether no wake of a tile's berth, array or vector unit is asked for or under way (R504). -/
def awake (st : State) (tl : Tile) : Bool :=
  match tl.berth with
  | some b =>
    let f := st.field (fieldOf b)
    (f.wakes.all fun w => w.2.1 != b) && f.waking.all fun w => w.1 / 3 != b
  | none => true

/-- Whether the condition that a thread waits for holds; the conditions that end by an event of their own hold here never. -/
def wakeReady (st : State) (tid : ThreadId) (tl : Tile) (t : Thread) : Why → Bool
  | .reg n => (t.reg n).settled
  | .symReg n => (t.reg n).settled
  | .symTable => symTurn tl tid.thr
  | .streamWait s => match t.stream? s with
    | some b => if b.write then decide (b.queue.length < 16) else !b.queue.isEmpty
    | none => true
  | .vecQueue n => vecRoom st tid t n
  | .vecDrain => match t.claim.bind (st.vec? tid.tile) with
    | some c => c.queue.isEmpty || c.stop.isSome
    | none => true
  | .lease => tl.accepts (coreOf tid.thr)
  | .sfuFifo => decide (tl.sfuFifo.length < 16)
  | .outbound => decide ((tl.core (coreOf tid.thr)).outbound.length < 8)
  | .copyQueue q => decide ((tl.copyQ.getD q []).length < 16)
  | .walk _ => t.walking.isNone
  | .fence => match t.fence with
    | some r => fenceMoves st tid t r
    | none => true
  | .rlwait id => !(tl.rlt.any fun e => match e with
    | some r => r.id == id
    | none => false)
  | .texit => !t.kill && (vecStopped st tid t || !exitWaits st tid { t with lines := [] })
  | .taskget => vecStopped st tid t || !exitWaits st tid { t with lines := [] }
  | .symAny => decide (st.symCount tid < 8)
  | .symNone => decide (st.symCount tid = 0)
  | .allRegs => match firstPending t with
    | none => true
    | some n => (t.reg n).settled
  | .matrix => (st.cmdsOf tid).isEmpty
  | .streamDrain m => t.streamDrained m
  | .tlbinv mark f => tlbinvDone st tid.tile mark f
  | .wake => awake st tl
  | .barCore => false
  | .barTile => false
  | .barGrid _ => false
  | .firmware => false
  | .followJoin => false
  | .vecRecv => vecStopped st tid t
  | .start _ => false

/-- The threads of a core that leave their wait now, in the order in which they left the wheel, and by THRID at one step. -/
def wakeList (st : State) (tile : TileId) (core : Nat) : List Nat :=
  match st.tile? tile with
  | none => []
  | some tl =>
    let ready := ((List.range 64).map (core * 64 + ·)).filterMap fun n =>
      match tl.threads.get? n with
      | some t => match t.status with
        | .off why since => if wakeReady st ⟨tile, n⟩ tl t why then some (since, n) else none
        | _ => none
      | none => none
    (ready.foldl (fun acc x => insertBySince x acc) []).map (·.2)
where
  /-- Inserts by ascending step number; an equal one comes after. -/
  insertBySince (x : Nat × Nat) : List (Nat × Nat) → List (Nat × Nat)
    | [] => [x]
    | y :: ys => if x.1 < y.1 then x :: y :: ys else y :: insertBySince x ys

/-- Deals the threads of a core that become ready (R32). -/
def State.wakeCore (st : State) (tile : TileId) (core : Nat) : State :=
  (wakeList st tile core).foldl (fun st n => st.dealThread ⟨tile, n⟩) st

end Sys2Proof.Machine
end

