-- ==== Sys2Proof/Machine/Place.lean ====
section
/-! DEFINITION. Berths and the placement of gangs, and the enabled positions of a wheel (R16, R36, R449, R451, R465, R510). -/

namespace Sys2Proof.Machine

/-! ## Berths -/

/-- The number of berths of a module. -/
def berthCount : Nat := 5040

/-- Whether a berth is a quay tile's (R510). -/
def isQuay (b : Nat) : Bool :=
  let x := b % 72
  let y := b / 72
  (y == 0 && x % 3 == 1) || (y == 69 && x % 3 == 1) ||
    ((x == 71 || x == 0) && y % 2 == 1 && decide (11 ≤ y) && decide (y ≤ 57))

/-- The berth of the quay tile beside an external link, clockwise from the north-west corner (R510). -/
def quayBerth (n : Nat) : Nat :=
  if n < 24 then 3 * n + 1
  else if n < 48 then 71 + 72 * (2 * (n - 24) + 11)
  else if n < 72 then 70 - 3 * (n - 48) + 72 * 69
  else 72 * (57 - 2 * (n - 72))

/-- The class of a berth: its column's. -/
def State.berthClass (st : State) (b : Nat) : Nat := st.modRegs.classes.getD (b % 72) 3

/-- Whether a berth is a free compute berth of a partition (R16, R435). -/
def State.freeCompute (st : State) (part b : Nat) : Bool :=
  let x := st.berth b
  (st.part part).fields.getLsbD (fieldOf b) && !isQuay b && x.state == .free && x.moored.isNone

/-- Whether a gang of a partition may be placed on a berth (R449): a free compute berth of the partition that is neither retired nor
marked RETIRE or MARGINAL. -/
def State.placeable (st : State) (part b : Nat) : Bool :=
  st.freeCompute part b && !(st.berth b).retire && !(st.berth b).marginal

/-- How many tiles of a gang a partition's free compute berths, or the free pairs among them, hold (R435). -/
def State.freeRoom (st : State) (part : Nat) (pairs : Bool) : Nat :=
  ((List.range berthCount).filter fun b =>
    if pairs then b % 2 == 0 && st.freeCompute part b && st.freeCompute part (b + 1) else st.freeCompute part b).length

/-- The free compute berths of a partition, or, for a launch of checked pairs, the primaries of its free pairs (R465), ascending. -/
def State.freeBerths (st : State) (part : Nat) (pairs : Bool) : List Nat :=
  (List.range berthCount).filter fun b =>
    if pairs then b % 2 == 0 && st.placeable part b && st.placeable part (b + 1) else st.placeable part b

/-- The berths that R449 chooses for n tiles among some: of the hinted class when there are enough, in the lowest field that
holds all, and else over the partition. -/
def State.chooseBerths (st : State) (free : List Nat) (n : Nat) (cls : Option Nat) : Option (List Nat) :=
  let classed := match cls with
    | some c => free.filter fun b => st.berthClass b = c
    | none => []
  let pool := if cls.isSome ∧ n ≤ classed.length then classed else free
  if pool.length < n then none
  else match ((List.range 30).map fun f => pool.filter fun b => fieldOf b = f).find? fun bs => n ≤ bs.length with
    | some bs => some (bs.take n)
    | none => some (pool.take n)

/-! ## Positions (R36, R498) -/

/-- POSM1. -/
def settingPos (s : BitVec 16) : Nat := s.toNat % 8
/-- The slots of a position in its round-robin order (R34, R36). -/
def Position.order (q : Position) : List Nat := q.list.drop q.start ++ q.list.take q.start

/-- A core keeps positions 0 to n - 1 (R36): the dealing pointer leaves a removed one at once (R32), and the threads of a removed one
are dealt afresh, and take no turn before 8 tile cycles after their last issue. -/
def State.gateCore (st : State) (tile : TileId) (core n : Nat) : State :=
  match st.tile? tile with
  | none => st
  | some tl =>
    let ps := (tl.core core).positions
    let moved := ((ps.zipIdx.filter fun q => n ≤ q.2).flatMap fun q => q.1.order).filter fun s => (tl.threads.get? s).isSome
    let kept := ps.zipIdx.map fun q => if n ≤ q.2 then ⟨false, [], 0⟩ else { q.1 with enabled := true }
    let st := st.modCore tile core fun c => { c with positions := kept, deal := nextEnabled kept 8 c.deal }
    moved.foldl (fun (st : State) s =>
      (st.modThread ⟨tile, s⟩ fun t => { t with notBefore := max t.notBefore (t.lastIssue + 8) }).dealThread ⟨tile, s⟩) st

/-- The wheels of a tile follow a setting. -/
def State.gateTile (st : State) (tile : TileId) (s : BitVec 16) : State :=
  (List.range 8).foldl (fun (st : State) c => st.gateCore tile c (settingPos s + 1)) st

/-- The wheels of a moored tile follow the setting of its berth's field. -/
def State.gateMoored (st : State) (tile : TileId) : State :=
  match (st.tile? tile).bind (·.berth) with
  | some b => st.gateTile tile (st.field (fieldOf b)).applied
  | none => st

/-! ## Gangs -/

/-- The number of gangs of a launch (R15). -/
def Kernel.gangCount (k : Kernel) : Nat := ((k.vx + k.gx - 1) / k.gx) * ((k.vy + k.gy - 1) / k.gy)

/-- The tiles of a gang, in tile-number order. -/
def Kernel.tilesOfGang (k : Kernel) (g : Nat) : List Nat := k.tiles.filter fun n => k.gangOf n = g

/-- The number of tiles of a launch's largest gang (R16). -/
def Kernel.largestGang (k : Kernel) : Nat := min k.gx k.vx * min k.gy k.vy

/-- The index of a tile in the tables of its launch (R442). -/
def Kernel.tileIndex (k : Kernel) (num : Nat) : Nat := num / 4096 * k.vx + num % 4096

/-- Rewrites a tile's entry (R443). -/
def State.modEntry (st : State) (t : TileId) (f : VEntry → VEntry) : State :=
  st.modLaunch t.part t.slot fun l => { l with table := l.table.update t.num f }

/-- Moors a tile at a berth (R449): its entry with P = 1 and GEN raised, and the berth's MOORED, SAVEBASE and BSTAT; its weights are
installed anew. -/
def State.moorTile (st : State) (k : Kernel) (t : TileId) (b : Nat) : State :=
  let base := Config.imageAddress t.part t.slot (k.tileIndex t.num) (((st.tile? t).map (·.imageNo)).getD 0)
  let st := (st.modTile t fun tl => { tl with berth := some b }).modEntry t fun e => { e with berth := some b, fwd := false, gen := (e.gen + 1) % 65536 }
  (st.modBerth b fun x => { x with moored := some t, state := .restoring, part := t.part, saveBase := base, poison := [] }).modPair k.pairs b fun x =>
    { x with pairs := true, state := .restoring, part := t.part }

/-- Places a gang (R449), which begins its restore. -/
def State.placeGang (st : State) (part slot g : Nat) (l : Launch) (berths : List Nat) : State :=
  let st := ((l.kernel.tilesOfGang g).zip berths).foldl (fun (st : State) p => st.moorTile l.kernel ⟨part, slot, p.1⟩ p.2) st
  st.modGang part slot g fun x => { x with state := .restoring, gen := x.gen + 1, summon := st.now, slice := st.now }

end Sys2Proof.Machine
end

