-- ==== Sys2Proof/Machine/Admit.lean ====
section
/-! DEFINITION. Launch records, and the admission of a launch (R29, R37, R419, R422, R434 to R436, R442, R453). -/

namespace Sys2Proof.Machine

/-! ## Launch records (Tables 21.5 and 22.6) -/

/-- A number of some bytes of a launch record's copy. -/
def State.recNat (st : State) (rec off n : Nat) : Nat := memRead st.mem (recKey rec off) n

/-- A word of a launch record's copy. -/
def State.recWord (st : State) (rec off : Nat) : Word := BitVec.ofNat 32 (st.recNat rec off 4)

/-- The decode mode that a MODE byte names. -/
def modeOf (n : Nat) : DMode :=
  match n with
  | 0 => .w3
  | 1 => .w2
  | _ => .w1

/-- The kernel of a launch record's copy. -/
def State.recKernel (st : State) (rec : Nat) : Kernel :=
  let w (off : Nat) : Word := st.recWord rec off
  { mode := modeOf (st.recNat rec 6 1)
    vx := descField (w 0x8) 0 12 + 1, vy := descField (w 0x8) 16 12 + 1
    gx := descField (w 0xC) 0 6 + 1, gy := descField (w 0xC) 8 6 + 1
    regs := (descField (w 0xC) 16 4 + 1) * 8
    threads := descField (w 0x10) 0 9, sliceMs := descField (w 0x10) 16 10
    balanceUs := descField (w 0x14) 0 7, spill := descField (w 0x14) 16 11 * 1024
    entry := w 0x18, exit := w 0x1C, tvec := w 0x20, fmt := w 0x24, scp := w 0x28
    pairs := st.recNat rec 7 1 % 2 == 1
    codeSize := (w 0x34).toNat
    args := (List.range 4).map fun i => w (0x80 + 4 * i)
    layout := (List.range 64).map fun i => BitVec.ofNat 256 (st.recNat rec (0x200 + 32 * i) 32)
    dist := (List.range 16).map fun i => BitVec.ofNat 128 (st.recNat rec (0xA00 + 16 * i) 16) }

/-- The offset and size of a section: 0 code, 1 sdata, 2 wdata, 3 rdata. -/
def State.recSection (st : State) (rec i : Nat) : Nat × Nat :=
  ((st.recWord rec (0x30 + 8 * i)).toNat, (st.recWord rec (0x34 + 8 * i)).toNat)

/-- The bytes of a section that are listed, with their offsets in it. -/
def State.sectionBytes (st : State) (rec i : Nat) : List (Nat × Byte) :=
  let (off, size) := st.recSection rec i
  let lo := recKey rec off
  (st.mem.filter fun c => decide (lo ≤ c.1) && decide (c.1 < lo + size)).map fun c => (c.1 - lo, c.2)

/-- The bytes of a launch record: its fixed part and its sections. -/
def recLength (mem : List Host.Cell) (key : Nat) : Nat :=
  (List.range 4).foldl (fun n i => max n (memRead mem (key + 0x30 + 8 * i) 4 + memRead mem (key + 0x34 + 8 * i) 4)) 0x1000

/-- Copies some bytes from one key to another. -/
def memCopy (mem : List Host.Cell) (src dst n : Nat) : List Host.Cell :=
  (mem.filter fun c => decide (src ≤ c.1) && decide (c.1 < src + n)).foldl (fun m c => memSet m (c.1 - src + dst) c.2) mem

/-! ## Reads through a job's tables -/

/-- Some bytes at a virtual address of a job, when they translate. -/
def State.jobRead (st : State) (part root va n : Nat) : Option Nat :=
  match walk st part root va true false with
  | .ok e => some (memRead st.mem (memKey 2 0 (e.pa + (va - e.base))) n)
  | .error _ => none

/-- The sixteen words of a packet in a packet array. -/
def State.jobPacket (st : State) (part root va : Nat) : Option Packet :=
  (List.range 16).foldr (fun i acc => match acc, st.jobRead part root (va + 4 * i) 4 with
    | some ws, some w => some (BitVec.ofNat 32 w :: ws)
    | _, _ => none) (some [])

/-- The initial packets of a tile (Table 22.6), by its index; none when an address of them does not translate. -/
def State.initialPackets (st : State) (part root table i : Nat) : Option (List Packet) :=
  if table = 0 then some []
  else match st.jobRead part root (table + 8 * i) 8 with
    | none => none
    | some w =>
      (List.range (w / 2 ^ 48 % 2 ^ 11)).foldr (fun j acc => match acc, st.jobPacket part root (w % 2 ^ 48 + 64 * j) with
        | some ps, some p => some (p :: ps)
        | _, _ => none) (some [])

/-! ## Admission (R435) -/

/-- The lowest free launch slot of a partition (R442). -/
def State.freeSlot (st : State) (part : Nat) : Option Nat :=
  (List.range 256).find? fun s => (st.launches.get? (part, s)).isNone

/-- The first check of R435 that a launch fails, as its detail; `fit` says that the context images fit (R453). A
counter block that is no multiple of 64 is refused as one that does not translate (log entry 63). -/
def State.admissionCheck (st : State) (part rec job : Nat) (fit : Bool) : Option Nat :=
  let k := st.recKernel rec
  let table := st.recNat rec 0x98 8
  let counter := st.recNat rec 0x90 8
  let root := st.roots.get? (part, job)
  let packets := match root with
    | some r => (List.range (k.vx * k.vy)).filterMap fun i => st.initialPackets part r table i
    | none => []
  let reachable := match root with
    | none => false
    | some r =>
      counter % 64 == 0 && (match walk st part r counter false true with
        | .ok _ => true
        | .error _ => false) &&
      (List.range (k.vx * k.vy)).all fun i => (st.initialPackets part r table i).isSome
  if st.freeRoom part k.pairs < k.largestGang then some 1
  else if packets.any fun ps => ps.any fun p => !packetClean p then some 2
  else if (st.part part).minor < st.recNat rec 5 1 then some 3
  else if !reachable then some 4
  else if !fit then some 5
  else none

/-- Whether a scratchpad offset lies in an entry's range (R67). -/
def Entry.covers (e : Entry) (o : Nat) : Bool :=
  let spans := (e.ext.take e.rank).zip e.stride
  let lo : Int := spans.foldl (fun t (p : Nat × Int) => t + min 0 (p.1 * p.2)) 0
  let hi : Int := spans.foldl (fun t (p : Nat × Int) => t + max 0 (p.1 * p.2)) 0
  decide ((e.base : Int) + lo * e.size ≤ o) && decide ((o : Int) < e.base + (hi + 1) * e.size)

/-- The swizzle select with which a byte of sdata is placed (R419). -/
def Kernel.sdataSelect (k : Kernel) (o : Nat) : Nat :=
  (((List.range 64).find? fun i => (k.entryOf i).space == 1 && (k.entryOf i).covers o).map fun i => (k.entryOf i).swz).getD 0

/-- A tile before its gang is placed. -/
def Tile.unplaced (work : List Packet) : Tile :=
  { berth := none, cycle := 0, stopped := false, cores := List.replicate 8 Core.reset, threads := [], barTile := none
    poison := [], rlt := List.replicate 32 none, regWait := [], copyQ := List.replicate 4 [], sfuFifo := [], sfuBusy := [], inbox := [], heap := [], heapAt := 0, held := []
    overflow := [], nextCore := 0, recvs := [], vecs := List.replicate 16 none, arr := MatArray.reset, work := work, migrants := [], niq := []
    pairs := [], twins := [], reloc := none, sampled := 0, sampledLen := 0, image := [], imageRegs := [], imageNo := 0 }

/-- A gang that waits for its first placement (R444, R450). -/
def Gang.waiting (now : Int) (source image : Nat) : Gang :=
  { state := .waiting, gen := 0, fault := some (now, source), summon := 0, slice := 0, image := image, crec := none, moorn := 0, cls := none, created := false }

/-- The memory of a launch's tiles and its code section (R419). -/
def State.placeSections (st : State) (part slot rec : Nat) (k : Kernel) : State :=
  let code := (st.sectionBytes rec 0).foldl (fun m b => memSet m (codeKey part slot b.1) b.2) st.mem
  let sdata := st.sectionBytes rec 1
  let wdata := st.sectionBytes rec 2
  { st with mem := k.tiles.foldl (fun m n =>
      let t : TileId := ⟨part, slot, n⟩
      let m := sdata.foldl (fun m b => memSet m (Place.scratch t (swizzle (k.sdataSelect b.1) b.1)).key b.2) m
      wdata.foldl (fun m b => memSet m (Place.weights t b.1).key b.2) m) code }

/-- A launch takes its slot: its record, its tiles with their initial packets, its memory, and its counter block (R436, R442). -/
def State.enroll (st : State) (part slot : Nat) (c : HostCmd) : State :=
  let rec' := cmdRec c
  let k := st.recKernel rec'
  let job := cmdJob c
  let root := (st.roots.get? (part, job)).getD 0
  let table := st.recNat rec' 0x98 8
  let va := st.recNat rec' 0x90 8
  let counter := match walk st part root va false true with
    | .ok e => if va % 64 = 0 then some (e.pa + (va - e.base)) else none
    | .error _ => none
  let src := st.controllerSource part
  let gang (g : Nat) : Gang := Gang.waiting st.now src (Config.imageAddress part slot (k.tileIndex ((k.tilesOfGang g).headD 0)) 0)
  let l : Launch :=
    { kernel := k, node := BitVec.ofNat 32 (cmdNode c), job := job, graph := cmdGraph c
      phase := ((((st.part part).graphs.get? (job, cmdGraph c)).bind (·.phase)).getD 0), queue := c.queue, irq := cmdIrq c, counter := counter
      workTable := table, moorBytes := st.recNat rec' 0xA0 8, state := .running, detail := 0, members := 0, lost := 0, retiring := [], discard := 0
      gen := 0, genTime := 0, arrived := [], arrivedNext := [], written := [], fault := none, cancelled := false, gangs := (List.range k.gangCount).map gang
      table := k.tiles.map fun n => (n, ⟨none, false, k.gangOf n, 0⟩), moored := [] }
  let tiles := k.tiles.map fun n =>
    ((⟨part, slot, n⟩ : TileId), Tile.unplaced ((st.initialPackets part root table (k.tileIndex n)).getD []))
  let st := { st with launches := st.launches.set (part, slot) l, tiles := st.tiles ++ tiles }
  ((st.placeSections part slot rec' k).setNode part job (cmdGraph c) (cmdNode c) .running).writeCounter part slot

/-- ADMISSION (R435, R442, R453): the first launch that is ready takes the lowest free slot when it passes the checks, and completes
REFUSED otherwise; `fit` says that its context images fit. -/
def execAdmission (part : Nat) (fit : Bool) (st : State) : Host.Outcome State Fault Refusal :=
  match (st.part part).ready, st.freeSlot part with
  | c :: rest, some slot =>
    let st := st.modPart part fun p => { p with ready := rest }
    match st.admissionCheck part (cmdRec c) (cmdJob c) fit with
    | none => .next (st.enroll part slot c)
    | some detail =>
      let st := st.endUnstarted part c .refused detail
      .next ((State.settleParked part (st.part part).parked.length st).settlePhase part (cmdJob c))
  | _, _ => .next st

end Sys2Proof.Machine
end

