-- ==== Sys2Proof/Machine/Commands.lean ====
section
/-! DEFINITION. Doorbells, the dispatcher, and the host's commands (R430 to R433, R438, R439, R441). -/

namespace Sys2Proof.Machine

/-! ## Queues (R427 to R430) -/

/-- SIZE of a queue: 6 to 16, other values act as 6 (Table 22.4). -/
def qSize (q : HostQueue) : Nat := let n := q.qctl.toNat % 16; if 6 ≤ n ∧ n ≤ 16 then n else 6
/-- EN. -/
def qEnabled (q : HostQueue) : Bool := q.qctl.getLsbD 31
/-- PRIO. -/
def qPrio (q : HostQueue) : Nat := q.qctl.toNat / 256 % 8

/-- The queue that a local number of a function that exists names: its groups in ascending order (R426, R427). -/
def State.localQueue (st : State) (port func q : Nat) : Option Nat :=
  if !st.hasFunc port func then none else
  let groups := (List.range 128).filter fun g => match qmapGiven (st.qmapOf port g) with
    | some (f, _) => f == func
    | none => false
  (groups[q / 1024]?).map fun g => port * 131072 + g * 1024 + q % 1024

/-- The partition that a queue's group serves. -/
def State.queuePart (st : State) (q : Nat) : Option Nat :=
  let (port, group) := queueGroup q
  (qmapGiven (st.qmapOf port group)).map (·.2)

/-- A queue sets ERR, and QERR of its function (Table 22.4, R441). -/
def State.queueError (st : State) (q err : Nat) : State := (st.modQueue q fun x => { x with err := err }).interrupt q 2

/-- DOORBELL (R430): a TAIL write; a queue with EN clear ignores it, and a TAIL beyond the ring sets ERR 1. -/
def execDoorbell (port func queue : Nat) (tail : Word) (st : State) : Host.Outcome State Fault Refusal :=
  match st.localQueue port func queue with
  | none => .next st
  | some q =>
    let x := st.queue q
    if !qEnabled x ∨ tail = x.head then .next st
    else if 2 ^ qSize x < (tail - x.head).toNat then .next (st.queueError q 1)
    else
      let now := st.partTime ((st.queuePart q).getD 0)
      .next (st.modQueue q fun x => { x with tail := tail, since := if x.tail = x.head then now else x.since })

/-! ## The dispatcher (R431 to R433) -/

/-- Whether a command is one that the device knows, with its reserved bits zero (R431); a LAUNCH with a node beyond 4,095 or more than
8 predecessors is refused as well (log entry 39). -/
def commandOk (c : HostCmd) : Bool :=
  let opc := cmdOpc c
  decide (1 ≤ opc) && decide (opc ≤ 5) && cmdWord c 0 / 2048 == 0 && cmdWord c 7 == 0 &&
    ((List.range 4).all fun i => cmdWord c (12 + i) == 0) && (opc != 1 || (decide (cmdNpred c ≤ 8) && decide (cmdNode c ≤ 4095)))

/-- The sixteen words of a command in host memory. -/
def State.readCommand (st : State) (q : Nat) : HostCmd :=
  let x := st.queue q
  let at' := memKey 3 (q / 131072) (x.base + 64 * (x.head.toNat % 2 ^ qSize x))
  ⟨q, (List.range 16).map fun i => BitVec.ofNat 32 (memRead st.mem (at' + 4 * i) 4)⟩

/-- Whether a queue has a command that its partition's dispatcher may take. -/
def HostQueue.available (x : HostQueue) : Bool := qEnabled x && x.err == 0 && !x.blocked && x.head != x.tail

/-- The effective priority of a queue's head command (R432). -/
def effective (x : HostQueue) (now : Int) : Nat := min 7 (qPrio x + ((now - x.since) / 1000000).toNat)

/-- The queue that the dispatcher serves next (R432): the highest effective priority, and among equals the next after the last one
served, wrapping. -/
def State.chooseQueue (st : State) (part : Nat) : Option Nat :=
  let now := st.partTime part
  let last := (st.part part).lastQueue
  let rank (q : Nat) : Nat := if last < q then q else q + 262144
  (st.queues.filter fun e => e.2.available && st.queuePart e.1 == some part).foldl (fun best e =>
    match best with
    | none => some e.1
    | some b =>
      let pb := effective (st.queue b) now
      let pe := effective e.2 now
      if pb < pe ∨ (pb = pe ∧ rank e.1 < rank b) then some e.1 else some b) none

/-- The predecessors that a LAUNCH waits for when it is taken: those that have not completed (R433). -/
def State.awaited (st : State) (part : Nat) (c : HostCmd) : List Nat :=
  (cmdPreds c).filter fun n => !((st.part part).nodeState (cmdJob c) (cmdGraph c) n).ended

/-- Whether a predecessor has completed other than DONE. -/
def State.predLost (st : State) (part : Nat) (c : HostCmd) : Bool :=
  (cmdPreds c).any fun n =>
    let s := (st.part part).nodeState (cmdJob c) (cmdGraph c) n
    s.ended && s != .done

/-- Whether a job takes no further command: it has ended or was cancelled (R438, R439). -/
def State.jobGone (st : State) (part job : Nat) : Bool :=
  match (st.part part).jobs.get? job with
  | some j => j.ended || j.level.closed || j.level.state == .cancelled
  | none => false

/-- Whether a job has ended: ENDJOB named it, or it completed (R439). -/
def State.jobEnded (st : State) (part job : Nat) : Bool :=
  match (st.part part).jobs.get? job with
  | some j => j.ended || j.level.closed
  | none => false

/-- Whether the last phase that a job opened was cancelled (R438). -/
def Part.phaseGone (p : Part) (job : Nat) : Bool :=
  match (p.jobs.get? job).bind (·.opened) with
  | none => false
  | some ph => match p.phases.get? (job, ph) with
    | some v => v.state == .cancelled
    | none => false

/-- Whether a LAUNCH names something cancelled, or an ended job (R438). -/
def State.launchGone (st : State) (part : Nat) (c : HostCmd) : Bool :=
  st.jobGone part (cmdJob c) || (st.part part).phaseGone (cmdJob c) ||
    (match (st.part part).graphs.get? (cmdJob c, cmdGraph c) with
      | some g => g.acted
      | none => false)

/-- A LAUNCH is taken with a copy of its record, whose number replaces the host address (R434). -/
def State.copyRecord (st : State) (c : HostCmd) : HostCmd × State :=
  if cmdOpc c = 1 then
    let (id, st) := st.freshId
    let src := memKey 3 (c.queue / 131072) (cmdRec c)
    ({ c with words := (c.words.set 2 (BitVec.ofNat 32 id)).set 3 (BitVec.ofNat 32 (id / 2 ^ 32)) },
      { st with mem := memCopy st.mem src (recKey id 0) (recLength st.mem src) })
  else (c, st)

/-- DISPATCHER_TAKE (R430 to R433): the head command of the chosen queue is taken, or its queue stops with an error; `hostError` says
that a read of host memory failed. Partitions open at stage 7 of boot (R484). -/
def execDispatcherTake (part : Nat) (hostError : Bool) (st : State) : Host.Outcome State Fault Refusal :=
  match (st.chooseQueue part).filter fun _ => st.boot.stage == 7 with
  | none => .next st
  | some q =>
    let st := st.modPart part fun p => { p with lastQueue := q }
    if hostError then .next (st.queueError q 2)
    else
      let c := st.readCommand q
      if !commandOk c then .next (st.queueError q 3)
      else if cmdOpc c = 1 ∧ 4096 ≤ (st.part part).parked.length ∧ st.awaited part c ≠ [] ∧ !st.predLost part c ∧ !st.launchGone part c then .next (st.queueError q 4)
      else
        let (c, st) := st.copyRecord c
        let st := st.modQueue q fun x => { x with head := x.head + 1#32, since := st.partTime part }
        .next { st with taken := st.taken ++ [c] }

/-! ## The commands (R433, R438, R439, R441) -/

/-- LAUNCH (R433, R438): it makes its levels known, and starts, is parked, or completes CANCELLED without starting. One of an ended job
completes CANCELLED and changes no level (R439): only its own counter block and its interrupt say so. -/
def execLaunch (c : HostCmd) (st : State) : Host.Outcome State Fault Refusal :=
  match st.queuePart c.queue with
  | none => .next st
  | some part =>
    let job := cmdJob c
    if st.jobEnded part job then .next ((st.writeUnstarted part c .cancelled 0).doneIrq c.queue (cmdIrq c)) else
    let gone := st.launchGone part c || st.predLost part c
    let wait := st.awaited part c
    let st := st.knowJob part job
    let st := st.knowGraph part job (cmdGraph c) ((st.part part).openPhase job)
    if gone then
      let st := st.endUnstarted part c .cancelled 0
      .next ((State.settleParked part (st.part part).parked.length st).settlePhase part job)
    else
      let st := st.modPart part fun p =>
        if wait.isEmpty then { p with ready := p.ready ++ [c] } else { p with parked := p.parked ++ [(c, wait)] }
      .next ((st.setNode part job (cmdGraph c) (cmdNode c) .pending).settlePhase part job)

/-- A command that completes when it is taken (R441). -/
def State.completeNow (st : State) (c : HostCmd) : State := st.doneIrq c.queue (cmdIrq c)

/-- A cancel from the host (R438); one that names an ended job has no effect (R439). -/
def hostCancel (c : HostCmd) (f : State → Nat → State) (st : State) : Host.Outcome State Fault Refusal :=
  match st.queuePart c.queue with
  | none => .next st
  | some part => .next ((if st.jobGone part (cmdJob c) then st else f st part).completeNow c)

/-- CANCEL of a launch. -/
def execHostCancelLaunch (c : HostCmd) (st : State) := hostCancel c (fun st p => st.cancelNode p (cmdJob c) (cmdGraph c) (cmdNode c)) st
/-- CANCEL of a graph. -/
def execHostCancelGraph (c : HostCmd) (st : State) := hostCancel c (fun st p => st.cancelGraph p (cmdJob c) (cmdGraph c)) st
/-- CANCEL of a phase. -/
def execHostCancelPhase (c : HostCmd) (st : State) := hostCancel c (fun st p => st.cancelPhase p (cmdJob c) (cmdPhase c)) st
/-- CANCEL of a job. -/
def execHostCancelJob (c : HostCmd) (st : State) := hostCancel c (fun st p => st.cancelJob p (cmdJob c)) st

/-- PHASE (R439): it opens its phase, or waits with its queue while one is open; of a cancelled or ended job it completes at once. -/
def execPhase (c : HostCmd) (st : State) : Host.Outcome State Fault Refusal :=
  match st.queuePart c.queue with
  | none => .next st
  | some part =>
    if st.jobGone part (cmdJob c) then .next (st.completeNow c)
    else
      let st := (st.knowJob part (cmdJob c)).modPart part fun p => { p with waiting := p.waiting ++ [c] }
      .next ((st.modQueue c.queue fun q => { q with blocked := true }).settlePhase part (cmdJob c))

/-- ENDJOB (R439): the job admits no further command, and completes once no phase of it is open. -/
def execEndjob (c : HostCmd) (st : State) : Host.Outcome State Fault Refusal :=
  match st.queuePart c.queue with
  | none => .next st
  | some part =>
    let job := cmdJob c
    if st.jobGone part job then .next (st.completeNow c)
    else
      let st := (st.knowJob part job).modPart part fun p => { p with
        jobs := p.jobs.update job fun j => { j with ended := true }
        irqs := if cmdIrq c then p.irqs ++ [(job, none, c.queue)] else p.irqs }
      .next (st.settlePhase part job)

/-- NOP (R441). -/
def execNop (c : HostCmd) (st : State) : Host.Outcome State Fault Refusal := .next (st.completeNow c)

/-- A command that a dispatcher has taken is carried out, as its OPC and LEVEL say (Table 22.5). -/
def carryOut (c : HostCmd) (st : State) : Host.Outcome State Fault Refusal :=
  if cmdOpc c = 1 then execLaunch c st
  else if cmdOpc c = 2 then
    match cmdLevel c with
    | 0 => execHostCancelLaunch c st
    | 1 => execHostCancelGraph c st
    | 2 => execHostCancelPhase c st
    | _ => execHostCancelJob c st
  else if cmdOpc c = 3 then execPhase c st
  else if cmdOpc c = 4 then execEndjob c st
  else execNop c st

end Sys2Proof.Machine
end

