-- ==== Sys2Proof/Machine/Crypto.lean ====
section
/-! DEFINITION. The two public algorithms that the hardware runs: AES-CMAC over one block (RFC 4493, R499) and SHA-384 (FIPS 180-4,
R490, R508). -/

namespace Sys2Proof.Machine

/-! ## AES-128 (FIPS 197) and AES-CMAC of one block -/

/-- The substitution box of AES, as one number whose byte x is the substitution of x. -/
def aesSbox : Nat :=
  0xC072A49CAFA2D4ADF04759FA7DC982CA76ABD7FE2B670130C56F6BF27B777C63 * 2 ^ 0 +
  0x75B227EBE28012079A059618C323C7041531D871F1E5A534CCF73F362693FDB7 * 2 ^ 256 +
  0xCF584C4A39BECB6A5BB1FC20ED00D153842FE329B3D63B52A05A6E1B1A2C8309 * 2 ^ 512 +
  0xD2F3FF1021DAB6BCF5389D928F40A351A89F3C507F02F94585334D43FBAAEFD0 * 2 ^ 768 +
  0xDB0B5EDE14B8EE4688902A22DC4F816073195D643D7EA7C41744975FEC130CCD * 2 ^ 1024 +
  0x08AE7A65EAF4566CA94ED58D6D37C8E779E4959162ACD3C25C2406490A3A32E0 * 2 ^ 1280 +
  0x9E1DC186B95735610EF6034866B53E708A8BBD4B1F74DDE8C6B4A61C2E2578BA * 2 ^ 1536 +
  0x16BB54B00F2D99416842E6BF0D89A18CDF2855CEE9871E9B948ED9691198F8E1 * 2 ^ 1792

/-- A byte through the substitution box. -/
def aesSub (x : Nat) : Nat := aesSbox / 256 ^ x % 256

/-- Doubling in the field of AES. -/
def aesDouble (x : Nat) : Nat := if x < 128 then 2 * x else (2 * x - 256) ^^^ 0x1B

/-- The bytes of a 128-bit number, the most significant first. -/
def bytes16 (n : Nat) : List Nat := (List.range 16).map fun i => n / 256 ^ (15 - i) % 256
/-- The 128-bit number of some bytes, the most significant first. -/
def number16 (bs : List Nat) : Nat := bs.foldl (fun n b => n * 256 + b) 0

/-- The next round key of AES-128, as a number, after one with a round constant. -/
def aesNextKey (k rcon : Nat) : Nat :=
  let w (i : Nat) : Nat := k / 2 ^ (32 * (3 - i)) % 2 ^ 32
  let t := w 3
  let sub := aesSub (t / 2 ^ 16 % 256) * 2 ^ 24 + aesSub (t / 2 ^ 8 % 256) * 2 ^ 16 + aesSub (t % 256) * 2 ^ 8 + aesSub (t / 2 ^ 24)
  let a := w 0 ^^^ sub ^^^ (rcon * 2 ^ 24)
  let b := w 1 ^^^ a
  let c := w 2 ^^^ b
  ((a * 2 ^ 32 + b) * 2 ^ 32 + c) * 2 ^ 32 + (w 3 ^^^ c)

/-- One column mixed. -/
def aesMix (c : List Nat) : List Nat :=
  (List.range 4).map fun i =>
    let x (j : Nat) : Nat := c.getD ((i + j) % 4) 0
    aesDouble (x 0) ^^^ (aesDouble (x 1) ^^^ x 1) ^^^ x 2 ^^^ x 3

/-- The bytes of a block, substituted and with their rows shifted. -/
def aesShift (s : List Nat) : List Nat := (List.range 16).map fun i => aesSub (s.getD ((i + 4 * (i % 4)) % 16) 0)

/-- The rounds of AES-128, each with its round constant; the last one mixes no columns. -/
def aesRounds : List Nat → Nat → Nat → Nat
  | [], _, s => s
  | r :: rs, k, s =>
    let k := aesNextKey k r
    let t := aesShift (bytes16 s)
    let m := if rs.isEmpty then t else (List.range 4).flatMap fun c => aesMix ((t.drop (4 * c)).take 4)
    aesRounds rs k (number16 m ^^^ k)

/-- AES-128 of a block under a key. -/
def aes128 (key block : Nat) : Nat := aesRounds [1, 2, 4, 8, 16, 32, 64, 128, 27, 54] key (block ^^^ key)

/-- AES-CMAC of exactly one block of 16 bytes (RFC 4493): the block is XORed with the first subkey and enciphered. -/
def aesCmac (key block : Nat) : Nat :=
  let l := aes128 key 0
  let k1 := if l < 2 ^ 127 then 2 * l else (2 * l - 2 ^ 128) ^^^ 0x87
  aes128 key (block ^^^ k1)

/-! ## SHA-384 -/

/-- The round constants of SHA-512. -/
def shaConst : List Nat :=
  [0x428a2f98d728ae22, 0x7137449123ef65cd, 0xb5c0fbcfec4d3b2f, 0xe9b5dba58189dbbc, 0x3956c25bf348b538, 0x59f111f1b605d019, 0x923f82a4af194f9b, 0xab1c5ed5da6d8118] ++
  [0xd807aa98a3030242, 0x12835b0145706fbe, 0x243185be4ee4b28c, 0x550c7dc3d5ffb4e2, 0x72be5d74f27b896f, 0x80deb1fe3b1696b1, 0x9bdc06a725c71235, 0xc19bf174cf692694] ++
  [0xe49b69c19ef14ad2, 0xefbe4786384f25e3, 0xfc19dc68b8cd5b5, 0x240ca1cc77ac9c65, 0x2de92c6f592b0275, 0x4a7484aa6ea6e483, 0x5cb0a9dcbd41fbd4, 0x76f988da831153b5] ++
  [0x983e5152ee66dfab, 0xa831c66d2db43210, 0xb00327c898fb213f, 0xbf597fc7beef0ee4, 0xc6e00bf33da88fc2, 0xd5a79147930aa725, 0x6ca6351e003826f, 0x142929670a0e6e70] ++
  [0x27b70a8546d22ffc, 0x2e1b21385c26c926, 0x4d2c6dfc5ac42aed, 0x53380d139d95b3df, 0x650a73548baf63de, 0x766a0abb3c77b2a8, 0x81c2c92e47edaee6, 0x92722c851482353b] ++
  [0xa2bfe8a14cf10364, 0xa81a664bbc423001, 0xc24b8b70d0f89791, 0xc76c51a30654be30, 0xd192e819d6ef5218, 0xd69906245565a910, 0xf40e35855771202a, 0x106aa07032bbd1b8] ++
  [0x19a4c116b8d2d0c8, 0x1e376c085141ab53, 0x2748774cdf8eeb99, 0x34b0bcb5e19b48a8, 0x391c0cb3c5c95a63, 0x4ed8aa4ae3418acb, 0x5b9cca4f7763e373, 0x682e6ff3d6b2b8a3] ++
  [0x748f82ee5defb2fc, 0x78a5636f43172f60, 0x84c87814a1f0ab72, 0x8cc702081a6439ec, 0x90befffa23631e28, 0xa4506cebde82bde9, 0xbef9a3f7b2c67915, 0xc67178f2e372532b] ++
  [0xca273eceea26619c, 0xd186b8c721c0c207, 0xeada7dd6cde0eb1e, 0xf57d4f7fee6ed178, 0x6f067aa72176fba, 0xa637dc5a2c898a6, 0x113f9804bef90dae, 0x1b710b35131c471b] ++
  [0x28db77f523047d84, 0x32caab7b40c72493, 0x3c9ebe0a15c9bebc, 0x431d67c49c100d4c, 0x4cc5d4becb3e42b6, 0x597f299cfc657e2a, 0x5fcb6fab3ad6faec, 0x6c44198c4a475817]

/-- The initial hash value of SHA-384. -/
def shaStart : List Nat :=
  [0xcbbb9d5dc1059ed8, 0x629a292a367cd507, 0x9159015a3070dd17, 0x152fecd8f70e5939, 0x67332667ffc00b31, 0x8eb44a8768581511, 0xdb0c2e0d64f98fa7, 0x47b5481dbefa4fa4]

/-- A 64-bit number. -/
def mod64 (n : Nat) : Nat := n % 2 ^ 64
/-- Rotation to the right. -/
def rotr64 (x n : Nat) : Nat := x / 2 ^ n + x % 2 ^ n * 2 ^ (64 - n)

/-- The message schedule, newest word first: from the sixteen words of a block on. -/
def shaSchedule : Nat → List Nat → List Nat
  | 0, w => w
  | n + 1, w =>
    let at' (i : Nat) : Nat := w.getD (i - 1) 0
    let s0 := let x := at' 15; rotr64 x 1 ^^^ rotr64 x 8 ^^^ (x / 2 ^ 7)
    let s1 := let x := at' 2; rotr64 x 19 ^^^ rotr64 x 61 ^^^ (x / 2 ^ 6)
    shaSchedule n (mod64 (at' 16 + s0 + at' 7 + s1) :: w)

/-- One round, over the eight working variables. -/
def shaRound (v : List Nat) (kw : Nat) : List Nat :=
  match v with
  | [a, b, c, d, e, f, g, h] =>
    let t1 := h + (rotr64 e 14 ^^^ rotr64 e 18 ^^^ rotr64 e 41) + ((e &&& f) ^^^ ((2 ^ 64 - 1 - e) &&& g)) + kw
    let t2 := (rotr64 a 28 ^^^ rotr64 a 34 ^^^ rotr64 a 39) + ((a &&& b) ^^^ (a &&& c) ^^^ (b &&& c))
    [mod64 (t1 + t2), a, b, c, mod64 (d + t1), e, f, g]
  | v => v

/-- One block of sixteen words. -/
def shaBlock (h : List Nat) (block : List Nat) : List Nat :=
  let w := (shaSchedule 64 block.reverse).reverse
  let r := (shaConst.zip w).foldl (fun v p => shaRound v (p.1 + p.2)) h
  (h.zip r).map fun p => mod64 (p.1 + p.2)

/-- The blocks of a padded message, of so many of them: a block is 128 bytes. -/
def shaBlocks : Nat → List Nat → List Nat → List Nat
  | 0, _, h => h
  | n + 1, bs, h =>
    let block := (List.range 16).map fun i => ((bs.drop (8 * i)).take 8).foldl (fun x b => x * 256 + b) 0
    shaBlocks n (bs.drop 128) (shaBlock h block)

/-- SHA-384 of some bytes, as a number whose most significant byte is the first of the digest. -/
def sha384 (bs : List Nat) : BitVec 384 :=
  let n := bs.length
  let blocks := (n + 17 + 127) / 128
  let pad := bs ++ [0x80] ++ List.replicate (blocks * 128 - n - 17) 0 ++ bytes16 (8 * n)
  BitVec.ofNat 384 (((shaBlocks blocks pad shaStart).take 6).foldl (fun x w => x * 2 ^ 64 + w) 0)

end Sys2Proof.Machine
end

