-- ==== Sys2Proof/Machine/Harbour.lean ====
section
/-! DEFINITION. The Harbourmaster's saves and restores: what a save stops, drains and releases, and what a restore reinstates
(R104, R116, R174, R305, R310, R332, R356, R454 to R457, R460). -/

namespace Sys2Proof.Machine

/-! ## Steps 1 and 4 of R454: the wheel stops -/

/-- A tile stops (R454 steps 1 and 4): fixed-latency results are delivered, the combining buffers drain, and a started iteration
step is discarded (R201). -/
def State.stopTile (st : State) (id : TileId) : State :=
  let st := st.modTile id fun tl => { tl with
    stopped := true
    threads := tl.threads.map fun e => (e.1, e.2.deliverDue (e.2.inflight.foldl (fun n f => max n f.due) 0)) }
  match st.tile? id with
  | none => st
  | some tl =>
    let st := tl.threads.foldl (fun (st : State) e => st.drain ⟨id, e.1⟩) st
    match tl.arr.holder with
    | some h => st.interruptIter id h
    | none => st

/-! ## Step 2: what is still to drain -/

/-- The accesses that wait in a launch's mooring queue. -/
def State.mooredIds (st : State) (t : TileId) : List Nat :=
  match st.launchOf t with
  | none => []
  | some l => l.moored.filterMap fun m => match m.item.payload with
    | .access id => some id
    | _ => none

/-- Whether a claim's queue has run as far as a save waits for (Table 11.10, R512): it is empty, or its head waits on a moored
element, on a held fault, on a matrix command that has not started, or is a VRECVADD without a message. -/
def vecDrained (st : State) (id : TileId) (moored : List Nat) (tl : Tile) (ctx : Nat) (c : VCtx) : Bool :=
  match c.queue.head?.bind (·.ops.head?) with
  | none => true
  | some o =>
    if (vmemOf o.instr).isSome then o.lanes.any fun l => l.access.any moored.contains
    else if let some (m, _) := vecStream o.instr then c.stop.isSome || st.elementMoored id (.stream ⟨id, c.owner⟩ m)
    else match o.instr with
      | .vrecvadd .. => o.msg.isNone
      | .mtov .. => tl.cores.any fun co => co.mcmds.any fun m => m.vop == some (ctx, o.id) && m.started.isNone
      | _ => false

/-- Whether a tile has drained (R454 steps 2 and 4). A vector store that waits behind a stopped instruction has no data yet, and is kept
with it (R332). -/
def State.drained (st : State) (id : TileId) (tl : Tile) : Bool :=
  let moored := st.mooredIds id
  (st.accesses.all fun a => a.agent.tile != id || moored.contains a.id || (a.lane.isSome && a.kind.writes && a.data.isNone)) &&
    (st.acks.all fun a => a.2.tile != id) && (st.items.all fun i => i.src != id) && tl.niq.isEmpty &&
    (tl.cores.all fun c => c.outbound.isEmpty && (c.symbols.all fun s => s.2.data.isNone) &&
      c.mcmds.all fun m => m.started.isNone || isIter m.instr) &&
    tl.copyQ.all (·.isEmpty) && tl.sfuBusy.isEmpty &&
    (tl.vecs.zipIdx.all fun v => v.1.all (vecDrained st id moored tl v.2)) &&
    tl.threads.all fun e => e.2.streams.zipIdx.all fun s => s.1.all fun b =>
      !b.write || b.queue.isEmpty || st.elementMoored id (.stream ⟨id, e.1⟩ s.2)

/-! ## Steps 3 to 5: what a save ends and releases -/

/-- A VRECVADD is interrupted (R324): it leaves the queue, and its thread waits to reissue it. -/
def State.interruptRecv (st : State) (id : TileId) (ctx : Nat) (c : VCtx) : State :=
  match (c.queue.head?.bind (·.ops.head?)).map (·.instr) with
  | some (Instr.vrecvadd ..) => (st.modVec id ctx VCtx.popHead).modTile id fun tl => { tl with recvs := tl.recvs.filter fun p => p.vec ≠ some ctx }
  | _ => st

/-- Whether a claim's queue holds a VRECVADD. -/
def VCtx.recvQueued (c : VCtx) : Bool := c.queue.any fun q => q.ops.any fun o => match o.instr with
  | .vrecvadd .. => true
  | _ => false

/-- The threads whose VRECVADD a save interrupted reissue it (R324, Table 11.10). -/
def State.reissueRecvs (st : State) (id : TileId) : State :=
  match st.tile? id with
  | none => st
  | some tl => tl.threads.foldl (fun (st : State) e => match e.2.status with
    | .off .vecRecv _ => if (e.2.claim.bind (st.vec? id)).any VCtx.recvQueued then st else st.dealThread ⟨id, e.1⟩
    | _ => st) st

/-- A fence that has sent its probes waits only for the peer-write counter from here on (R104). -/
def Thread.endProbes (t : Thread) : Thread :=
  { t with touch := 0, fence := t.fence.map fun r => { r with probes := r.probes.map fun _ => [] } }

/-- The registrations of a tile's own engines. -/
def Tile.ownRegs (tl : Tile) : List (TileId × Nat) :=
  (tl.threads.flatMap fun e => e.2.streams.flatMap fun s => match s with
    | some b => b.regs
    | none => []) ++
  tl.cores.flatMap fun c => (c.mcmds.flatMap (·.regs)) ++ c.reloadRegs.getD []

/-- A tile's own registrations are gone. -/
def Tile.dropRegs (tl : Tile) : Tile :=
  { tl with
    threads := tl.threads.map fun e => (e.1, { e.2.endProbes with streams := e.2.streams.map fun s => s.map fun b => { b with regs := [] } })
    cores := tl.cores.map fun c => { c with mcmds := c.mcmds.map fun m => { m with regs := [] }, reloadRegs := none, reloadAt := none } }

/-- The effects of steps 2 to 5 on a drained tile: interrupted VRECVADDs, completed fences, and its registrations released. -/
def State.quiesceTile (st : State) (id : TileId) : State :=
  match st.tile? id with
  | none => st
  | some tl =>
    let st := tl.vecs.zipIdx.foldl (fun (st : State) v => match v.1 with
      | some c => st.interruptRecv id v.2 c
      | none => st) st
    (st.release tl.ownRegs).modTile id Tile.dropRegs

/-! ## Step 6: the context that is saved -/

/-- A stream as a save keeps it (R174): a read stream's elements fetched ahead are discarded. -/
def Stream.saved (b : Stream) : Stream := if b.write then b else { b with queue := [], fetched := b.pos }

/-- A thread as a save keeps it: the walk that it waits for is begun afresh by its instruction. -/
def Thread.saved (t : Thread) : Thread :=
  { t with streams := t.streams.map fun s => s.map Stream.saved, walking := none, walkFault := none }

/-- A tile as a save keeps it (Table 12.5): the planes and the lease are lost, and the records stay. -/
def Tile.saved (tl : Tile) : Tile :=
  { tl with
    threads := tl.threads.map fun e => (e.1, e.2.saved), twins := []
    cores := tl.cores.map fun c => { c with reload := [] }
    arr := { tl.arr with active := Plane.empty, shadow := Plane.empty, holder := none, cmds := 0, cyc := 0, ramp := .cold } }

/-- A tile leaves its berth: its context is saved, and its field's Weir and walkers forget it. -/
def State.saveTile (st : State) (id : TileId) : State :=
  let st := st.modTile id Tile.saved
  { st with fields := st.fields.map fun e => (e.1, { e.2 with
      weirQueue := e.2.weirQueue.filter fun q => q.2.2 ≠ id
      walks := e.2.walks.filter fun w => w.t.tile ≠ id }) }

/-- Every interface drops its entry of a tile (R447; log entry 15). -/
def State.dropEverywhere (st : State) (id : TileId) : State :=
  (st.berths.filter fun e => e.2.cache.any (·.tile = id)).foldl (fun (st : State) e => st.dropEntry e.1 id) st

/-! ## Saving a gang -/

/-- The tiles of a gang. -/
def gangTiles (part slot : Nat) (k : Kernel) (g : Nat) : List TileId := (k.tilesOfGang g).map fun n => ⟨part, slot, n⟩

/-- Sets the states of a gang's berths. -/
def State.setBerths (st : State) (ids : List TileId) (pairs : Bool) (s : BerthState) : State :=
  ids.foldl (fun (st : State) id => match (st.tile? id).bind (·.berth) with
    | some b => (st.modBerth b fun x => { x with state := s }).modPair pairs b fun x => { x with state := s }
    | none => st) st

/-- Whether a gang's tiles are free of a relocation that has rewritten an entry (R452). -/
def State.gangFree (st : State) (ids : List TileId) : Bool :=
  ids.all fun id => match (st.tile? id).bind (·.reloc) with
    | some r => r.stage == .streaming
    | none => true

/-- A relocation that is still streaming is dropped (R452). -/
def State.dropReloc (st : State) (pairs : Bool) (id : TileId) : State :=
  match (st.tile? id).bind (·.reloc) with
  | some r => (st.freeBerth pairs r.new).modTile id fun tl => { tl with reloc := none, stopped := false }
  | none => st

/-- GANG_SAVE (R454): a save of a resident gang begins. -/
def State.beginSave (st : State) (part slot g : Nat) (l : Launch) : State :=
  let ids := gangTiles part slot l.kernel g
  if st.gangFree ids then
    let st := ids.foldl (fun (st : State) id => (st.dropReloc l.kernel.pairs id).stopTile id) st
    (st.setBerths ids l.kernel.pairs .saving).modGang part slot g fun x => { x with state := .saving }
  else st

/-- Whether a thread's wait may end without anything that reaches its tile from outside. -/
def Why.inside : Why → Bool
  | .reg _ => false
  | .symTable => false
  | .symAny => false
  | .symNone => false
  | .symReg _ => false
  | .allRegs => false
  | .fence => false
  | .texit => false
  | .taskget => false
  | .barCore => false
  | .barTile => false
  | .barGrid _ => false
  | .followJoin => false
  | .vecRecv => false
  | _ => true

/-- Whether a VRECVADD that a save interrupts has anything to do once it is reissued: it has not yet posted its RECV, and its message is
in the inbox, the heap or the held queue, or nothing is left to add (R324). -/
def State.recvReady (st : State) (id : TileId) (c : VCtx) : Bool :=
  match c.queue.head?.bind (·.ops.head?), st.tile? id with
  | some o, some tl => (match o.instr with
    | .vrecvadd _ _ n => !o.started && ((st.thread? ⟨id, c.owner⟩).any fun (t : Thread) => match t.reg n.toNat with
      | .ready w => o.vl == 0 || w.toNat % 65536 == 0 || (tl.inbox ++ tl.heap ++ tl.held).any fun m => m.ch == w.toNat / 2 ^ 26
      | _ => false)
    | _ => false)
  | _, _ => false

/-- Whether a saved tile has anything to do once it is restored (R450; log entry 14). -/
def State.tileRuns (st : State) (id : TileId) : Bool :=
  match st.tile? id with
  | none => false
  | some tl =>
    (tl.threads.any fun e => (st.launchOf id).any e.2.barReleased || match e.2.status with
      | .off why _ => why.inside || wakeReady st ⟨id, e.1⟩ tl e.2 why
      | _ => true) ||
    (!tl.migrants.isEmpty && (tl.chooseCore 16).isSome) ||
    (match tl.work with
      | p :: _ => (tl.chooseCore (regsOf (packetWord p 7))).isSome
      | [] => false) ||
    !tl.sfuFifo.isEmpty || (tl.cores.any fun c => !c.mcmds.isEmpty) || tl.vecs.any fun v => v.any fun c => !c.queue.isEmpty

/-- A save ends firmware's hold of a parked thread (R475): its instruction reissues after the restore. A mismatch stays with firmware,
whose answer kills the thread (R481). -/
def State.endHolds (st : State) (id : TileId) : State :=
  match st.tile? id with
  | none => st
  | some tl => tl.threads.foldl (fun (st : State) e => match e.2.fwTrap with
    | some f => if f.cause = .mismatch ∨ e.2.kill then st else st.resume ⟨id, e.1⟩
    | none => st) st

/-- A tile leaves its berth, which is free again (R454 step 7). -/
def State.unmoor (st : State) (k : Kernel) (id : TileId) : State :=
  let st := st.saveTile id
  match (st.tile? id).bind (·.berth) with
  | none => st
  | some b =>
    ((((st.modTile id fun tl => { tl with berth := none }).modEntry id fun e => { e with berth := none, fwd := false }).dropEverywhere id).freeBerth
      k.pairs b)

/-- SAVE_COMPLETE (R454): the tiles of a saving gang have drained and their writes are acknowledged; the gang is absent, and it
waits for berths when it has more to do or traffic has come for it. -/
def execSaveComplete (part slot gang : Nat) (st : State) : Host.Outcome State Fault Refusal :=
  match st.launches.get? (part, slot) with
  | none => .next st
  | some l =>
    let ids := gangTiles part slot l.kernel gang
    let drained := ids.all fun id => match st.tile? id with
      | some tl => st.drained id tl
      | none => true
    if (l.gangs[gang]?).map (·.state) ≠ some .saving ∨ !drained then .next st
    else
      let adds := ids.any fun id => (st.tile? id).any fun tl => tl.vecs.any fun v => v.any (st.recvReady id)
      let st := ids.foldl (fun (st : State) id => ((st.quiesceTile id).endHolds id).unmoor l.kernel id) st
      let runs := adds || ids.any st.tileRuns
      let source := st.controllerSource part
      .next (st.modGang part slot gang fun g =>
        let fault := if g.fault.isNone && runs then some (st.now, source) else g.fault
        { g with state := if fault.isSome then .waiting else .absent, crec := some g.gen, fault := fault })

/-! ## Restoring -/

/-- The vector contexts of a restored tile take the lane groups of its berth (R310); the slots that they lose become zero (R311). -/
def State.renegotiateTile (st : State) (id : TileId) : State :=
  st.modTile id fun tl => { tl with vecs := tl.vecs.map fun v => v.map fun c =>
    let g := st.granted id c.grq
    { c with
      g := g, vl := min c.vl g, reneg := c.reneg || g != c.g
      v := if g < c.g then c.v.map fun r => r.take g ++ List.replicate (256 - g) 0#32 else c.v } }

/-- A bound stream that has elements left registers its range again (R116). -/
def State.rebindStream (st : State) (k : Kernel) (t : ThreadId) (m : Nat) : State :=
  match (st.thread? t).bind (·.stream? m) with
  | none => st
  | some b =>
    if b.length ≤ b.pos then st
    else
      let rs := coverRanges st k t.tile t.thr b.entry (if b.write then .write else .read) b.coords b.tileNum.toNat b.length
      let (ids, st) := st.registerAll t.tile (.stream t m) (rs.map (·, b.write))
      st.modThread t fun th => th.setStream m (some { b with regs := ids })

/-- The streams of a tile re-register in stream-register order within each thread and in ascending THRID (R116). -/
def State.rebindStreams (st : State) (k : Kernel) (id : TileId) : State :=
  (List.range 512).foldl (fun (st : State) n => (List.range 8).foldl (fun (st : State) m => st.rebindStream k ⟨id, n⟩ m) st) st

/-- The accepted plane loads of a tile register their ranges again (R456 step 6). -/
def State.reacceptLoads (st : State) (k : Kernel) (id : TileId) : State :=
  match st.tile? id with
  | none => st
  | some tl =>
    (tl.cores.zipIdx.flatMap fun c => c.1.mcmds.map fun m => (c.2, m)).foldl (fun (st : State) e =>
      match e.2.src with
      | some p =>
        if isEntryLoad e.2.instr then
          let (regs, st) := st.registerPlane id (.plane id e.2.id) k p
          st.modCmd id e.1 e.2.id fun c => { c with regs := regs }
        else st
      | none => st) st

/-- The moored loads of a tile's vector instructions are issued anew (R332). -/
def State.reissueLoads (st : State) (id : TileId) : State :=
  let mine (m : Moored) : Option Access := match m.item.payload with
    | .access n => st.accesses.find? fun a => a.id == n && a.agent.tile == id && a.lane.isSome && !a.kind.writes
    | _ => none
  match st.launchOf id with
  | none => st
  | some l =>
    l.moored.foldl (fun (st : State) m => match mine m with
      | none => st
      | some a =>
        let st := (st.modLaunch id.part id.slot fun l => { l with moored := l.moored.filter fun x => x.item.id ≠ m.item.id }).modGang
          id.part id.slot (l.kernel.gangOf m.item.dst.num) fun g => { g with moorn := g.moorn - 1 }
        (st.modTile id fun tl => tl.enqueue a.id id m.item.dst (.access a.id))) st

/-- Steps 4 to 6 of R456 for one tile at its berth. -/
def State.restoreTile (st : State) (k : Kernel) (id : TileId) : State :=
  ((((((st.gateMoored id).renegotiateTile id).rebindStreams k id).reacceptLoads k id).reissueLoads id).reissueRecvs id).modTile id fun tl =>
    { tl with stopped := false, sampled := st.balanceInterval id k }

/-- An uncorrectable error in an image (R456): the word is restored poisoned (R476; R315, R334; log entry 37), and one in another section
fails the launch as a trap without TVEC does (R360). -/
def State.imageFault (st : State) (part slot : Nat) : ImageFault → State
  | .clean => st
  | .register n thr reg => st.modThread ⟨⟨part, slot, n⟩, thr⟩ fun t => if reg = 0 then t else { t with regs := setPad (.ready 0#32) t.regs reg .corrupt }
  | .scratch n w => st.modTile ⟨part, slot, n⟩ fun tl => { tl with poison := tl.poison ++ [w] }
  | .vector n ctx reg i => st.modVec ⟨part, slot, n⟩ ctx fun c =>
      (c.write reg fun k => if k = i then some 0#32 else none).marked .soft (vecSoftTval reg i)
  | .accumulator n acc i =>
    let st := st.modArr ⟨part, slot, n⟩ fun a => a.setAcc acc (setPad 0#32 (a.acc acc) i 0x7FC00000#32)
    st.modTile ⟨part, slot, n⟩ fun tl => { tl with threads := tl.threads.map fun e =>
      if (e.2.accGroup.any fun g => decide (g.1 ≤ acc) && decide (acc < g.1 + g.2)) then (e.1, { e.2 with matMark := true }) else e }
  | .other n => st.failLaunch part slot 1 (some ⟨.soft, 0#32, 0#32, 0, n, st.now⟩)

/-- Whether a tile's lease holder has no plane left to reload (R456 step 3). -/
def Tile.reloaded (tl : Tile) : Bool :=
  match tl.arr.holder with
  | some h => (tl.core h).reload.isEmpty
  | none => true

/-- MOORED_DELIVERY (R460): the records for a gang's tiles are delivered in ascending time. -/
def State.deliverMoored (st : State) (part slot gang : Nat) (l : Launch) : State :=
  let mine (m : Moored) : Bool := l.kernel.gangOf m.item.dst.num == gang
  let st := st.modLaunch part slot fun l => { l with moored := l.moored.filter fun m => !mine m }
  ((sortMoored (l.moored.filter mine)).foldl (fun (st : State) m => st.takeIn m.item) st).modGang part slot gang fun g => { g with moorn := 0 }

/-- The root threads of a gang that is placed for the first time (R26, R457), which wait out their fields' offsets (R208). -/
def State.startGang (st : State) (ids : List TileId) : State :=
  ids.foldl (fun (st : State) id => (st.gateMoored id).createRoot id) st

/-- RESTORE_COMPLETE (R456, R457, R460): a restoring gang requests its leases afresh; once the planes are reloaded it is reinstated and
becomes resident. -/
def execRestoreComplete (part slot gang : Nat) (st : State) : Host.Outcome State Fault Refusal :=
  match st.launches.get? (part, slot) with
  | none => .next st
  | some l =>
    match l.gangs[gang]? with
    | none => .next st
    | some g =>
      if g.state ≠ .restoring then .next st
      else
        let ids := gangTiles part slot l.kernel gang
        let st := ids.foldl State.settleLease st
        if !(ids.all fun id => (st.tile? id).all Tile.reloaded) then .next st
        else
          let st := if g.created then st else st.startGang ids
          let st := (ids.foldl (fun (st : State) id => st.restoreTile l.kernel id) st).imageFault part slot (st.imageError part slot gang)
          let st := st.spend (SoftError.ofImage part slot gang)
          let st := match st.launches.get? (part, slot) with
            | some l => st.deliverMoored part slot gang l
            | none => st
          let st := (st.setBerths ids l.kernel.pairs .moored).modGang part slot gang fun x =>
            { x with state := .resident, created := true, fault := none, summon := st.now, slice := st.now }
          .next (st.settleLaunch part slot)

/-- A bad image location is withdrawn (R455): the tile of a berth takes another image, which holds nothing of it yet. -/
def State.changeImage (st : State) (k : Kernel) (t : TileId) (b : Nat) : State :=
  let n := ((st.tile? t).map (·.imageNo)).getD 0 + 1
  (st.modTile t fun tl => { tl with image := [], imageRegs := [], imageNo := n }).modBerth b fun x =>
    { x with saveBase := Config.imageAddress t.part t.slot (k.tileIndex t.num) n }

/-- SAVE_ABORT (R455): an uncorrectable error on a save write; the gang resumes with every effect of steps 2 to 5, and a berth that
supplied the bad data is marked, or the tile there takes another image. -/
def execSaveAbort (part slot gang : Nat) (berth : Nat) (st : State) : Host.Outcome State Fault Refusal :=
  match st.launches.get? (part, slot) with
  | none => .next st
  | some l =>
    let ids := gangTiles part slot l.kernel gang
    let drained := ids.all fun id => match st.tile? id with
      | some tl => st.drained id tl
      | none => true
    if (l.gangs[gang]?).map (·.state) ≠ some .saving ∨ !drained then .next st
    else
      let st := ids.foldl (fun (st : State) id => st.quiesceTile id) st
      let st := match ids.find? fun id => (st.tile? id).any (·.berth == some berth) with
        | none => st
        | some id => if st.locationBad id then (st.changeImage l.kernel id berth).spend (SoftError.ofLocation id) else st.modBerth berth fun b => { b.countBad st.now with retire := true }
      let st := (st.deliverMoored part slot gang l).setBerths ids l.kernel.pairs .moored
      let st := ids.foldl (fun (st : State) id => (st.reissueRecvs id).modTile id fun tl => { tl with stopped := false }) st
      let first := (l.kernel.tilesOfGang gang).headD 0
      let image := Config.imageAddress part slot (l.kernel.tileIndex first) (((st.tile? ⟨part, slot, first⟩).map (·.imageNo)).getD 0)
      .next ((st.modGang part slot gang fun x => { x with state := .resident, fault := none, image := image }).settleLaunch part slot)

/-! ## Slices and summonses (R18, R450) -/

/-- Whether a gang of a partition waits for berths. -/
def State.someWaits (st : State) (part : Nat) : Bool :=
  st.launches.any fun e => e.1.1 == part && e.2.gangs.any fun g => g.state == .waiting

/-- Whether a gang has come to its last retirement: its threads exist no more, and nothing on its tiles waits to become one. -/
def State.gangDone (st : State) (part slot : Nat) (l : Launch) (gang : Nat) : Bool :=
  (gangTiles part slot l.kernel gang).all fun id => (st.tile? id).all fun tl => tl.threads.isEmpty && tl.work.isEmpty && tl.migrants.isEmpty

/-- SLICE_END (R18): a resident gang whose slice is over is swapped out when another gang waits; otherwise its slice restarts. The tile
cycle that runs at the expiry comes first, and a gang whose last retirement falls in it is not swapped (R440). -/
def execSliceEnd (part slot gang : Nat) (st : State) : Host.Outcome State Fault Refusal :=
  match st.launches.get? (part, slot) with
  | none => .next st
  | some l =>
    match l.gangs[gang]? with
    | none => .next st
    | some g =>
      if g.state ≠ .resident ∨ st.now < g.slice + l.kernel.sliceMs * 1000000 ∨ l.cancelled then .next st
      else if !(gangTiles part slot l.kernel gang).all st.cycleOver then .next st
      else if st.someWaits part && !(g.created && st.gangDone part slot l gang) then .next (st.beginSave part slot gang l)
      else .next (st.modGang part slot gang fun x => { x with slice := st.now })

/-- The summonses of a partition, each with its time, source, slot and gang. -/
def State.summoned (st : State) (part : Nat) : List (Int × Nat × Nat × Nat) :=
  (st.launches.filter fun e => e.1.1 == part && !e.2.cancelled).flatMap fun e =>
    e.2.gangs.zipIdx.filterMap fun g => match g.1.state, g.1.fault with
      | .waiting, some f => some (f.1, f.2, e.1.2, g.2)
      | _, _ => none

/-- The order of the summonses (R450). -/
def summonBefore (a b : Int × Nat × Nat × Nat) : Bool :=
  if a.1 ≠ b.1 then decide (a.1 < b.1)
  else if a.2.1 ≠ b.2.1 then decide (a.2.1 < b.2.1)
  else if a.2.2.1 ≠ b.2.2.1 then decide (a.2.2.1 < b.2.2.1)
  else decide (a.2.2.2 < b.2.2.2)

/-- The first of some summonses. -/
def firstSummons : List (Int × Nat × Nat × Nat) → Option (Int × Nat × Nat × Nat)
  | [] => none
  | a :: as => match firstSummons as with
    | some b => if summonBefore b a then some b else some a
    | none => some a

/-- Whether a gang is idle (R450): every thread of it is parked or blocked, with a wait that has not ended and not only a field's offset to
await (R303), nothing of it waits to be dispatched, and the host has not cancelled its launch. -/
def State.gangIdle (st : State) (l : Launch) (ids : List TileId) : Bool :=
  !l.cancelled && ids.all fun id => match st.tile? id with
    | none => true
    | some tl =>
      (tl.threads.all fun e => !e.2.barReleased l && match e.2.status with
        | .off why _ => !wakeReady st ⟨id, e.1⟩ tl e.2 why
        | _ => false) && (tl.migrants.isEmpty || (tl.chooseCore 16).isNone) &&
      (match tl.work with
        | p :: _ => (tl.chooseCore (regsOf (packetWord p 7))).isNone
        | [] => true)

/-- The idle resident gang with the least SUMMON, by slot and gang index among equals. -/
def State.idleGang (st : State) (part : Nat) : Option (Int × Nat × Nat × Nat) :=
  firstSummons ((st.launches.filter fun e => e.1.1 == part).flatMap fun e =>
    e.2.gangs.zipIdx.filterMap fun g =>
      let ids := gangTiles part e.1.2 e.2.kernel g.2
      if g.1.state = .resident ∧ st.gangIdle e.2 ids ∧ st.gangFree ids then some (g.1.summon, 0, e.1.2, g.2) else none)

/-- A resident gang of a partition that has come to its end (Table 18.4): its threads have exited, nothing waits to run on its tiles, and
they have drained. -/
def State.exitedGang (st : State) (part : Nat) : Option (Nat × Nat × Launch) :=
  (st.launches.filter fun e => e.1.1 == part && !e.2.cancelled).findSome? fun e =>
    (e.2.gangs.zipIdx.find? fun g =>
      let ids := gangTiles part e.1.2 e.2.kernel g.2
      g.1.state == .resident && g.1.created && st.gangFree ids && st.gangDone part e.1.2 e.2 g.2 &&
        ids.all fun id => (st.tile? id).all fun tl => st.drained id tl).map fun g => (e.1.2, g.2, e.2)

/-- A gang that has come to its end gives its berths up without a save; traffic that comes for it later is moored, and summons it again. -/
def State.releaseExited (st : State) (part : Nat) : State :=
  match st.exitedGang part with
  | none => st
  | some (slot, gang, l) =>
    ((gangTiles part slot l.kernel gang).foldl (fun (st : State) id => (st.quiesceTile id).unmoor l.kernel id) st).modGang part slot gang
      fun g => { g with state := .absent }

/-- SUMMONS (R450, R504): the partition's first summons is served: its gang is placed when free berths hold it, once they are awake,
and otherwise a gang that has come to its end gives its berths up, or the idle gang with the least SUMMON is swapped out; with none idle
it waits for a slice end. -/
def execSummons (part : Nat) (st : State) : Host.Outcome State Fault Refusal :=
  match firstSummons (st.summoned part) with
  | none => .next (st.releaseExited part)
  | some (_, _, slot, gang) =>
    match st.launches.get? (part, slot) with
    | none => .next st
    | some l =>
      let cls := (l.gangs[gang]?).bind (·.cls)
      match st.chooseBerths (st.freeBerths part l.kernel.pairs) (l.kernel.tilesOfGang gang).length cls with
      | some bs =>
        let dark := bs.filter fun b => st.isDark b 0
        if dark.isEmpty then .next (st.placeGang part slot gang l bs)
        else .next (dark.foldl (fun (st : State) b => st.requestWake b 0) st)
      | none =>
        if (st.exitedGang part).isSome then .next (st.releaseExited part) else
        let saving := st.launches.any fun e => e.1.1 == part && e.2.gangs.any fun g => g.state == .saving
        if saving then .next st
        else match st.idleGang part with
          | some (_, _, s, g) => match st.launches.get? (part, s) with
            | some l => .next (st.beginSave part s g l)
            | none => .next st
          | none => .next st

end Sys2Proof.Machine
end

