-- ==== Sys2Proof/Machine/Relocate.lean ====
section
/-! DEFINITION. Live relocation and incremental checkpoints (R458, R461 to R463). -/

namespace Sys2Proof.Machine

/-! ## Relocation -/

/-- ESHIFT of a setting (Table 26.3). -/
def settingEshift (s : BitVec 16) : Bool := s.getLsbD 6

/-- Whether the Harbourmaster relocates a tile of a gang from one berth to another (R463). -/
def State.mayRelocate (st : State) (g : Gang) (old new : Nat) : Bool :=
  let x := st.berth old
  x.marginal || x.retire ||
    (match g.cls with
      | some c => st.berthClass old != c && st.berthClass new == c
      | none => false) ||
    (settingEshift (st.field (fieldOf old)).applied && st.berthClass old == 0 &&
      (st.berthClass new == 1 || st.berthClass new == 2))

/-- RELOCATION_START (R461 step 1, R463, R504): the image of a tile of a resident gang begins to stream to a free berth, which is
woken first when it is powered down. -/
def execRelocationStart (tile : TileId) (berth : Nat) (st : State) : Host.Outcome State Fault Refusal :=
  match st.tile? tile, st.launchOf tile with
  | some tl, some l =>
    match tl.berth, l.gangs[l.kernel.gangOf tile.num]? with
    | some old, some g =>
      let free := st.placeable tile.part berth && (!l.kernel.pairs || (berth % 2 == 0 && st.placeable tile.part (berth + 1)))
      if g.state ≠ .resident ∨ l.cancelled ∨ tl.reloc.isSome ∨ !free ∨ !st.mayRelocate g old berth then .next st
      else if st.isDark berth 0 then .next (st.requestWake berth 0)
      else
        let base := (st.berth old).saveBase
        let moor (b : Berth) : Berth := { b with moored := some tile, state := .restoring, part := tile.part, poison := [], saveBase := base }
        let st := (st.modBerth berth moor).modPair l.kernel.pairs berth
          fun b => { b with pairs := true, state := .restoring, part := tile.part }
        .next (st.modTile tile fun tl => { tl with reloc := some ⟨old, berth, .streaming, []⟩ })
    | _, _ => .next st
  | _, _ => .next st

/-- The interfaces of a partition that cache a tile's entry. -/
def State.cachers (st : State) (tile : TileId) : List Nat :=
  (st.berths.filter fun e => (st.part tile.part).fields.getLsbD (fieldOf e.1) && e.2.cache.any (·.tile = tile)).map (·.1)

/-- The old berth forwards, and the entry names the new one (R461 step 3). -/
def State.cutOver (st : State) (tile : TileId) (pairs : Bool) (r : Reloc) : State :=
  let st := (st.quiesceTile tile).saveTile tile
  let acks := st.cachers tile
  let st := (st.modBerth r.old fun b => { b with moored := none, fwdr := some (r.new, tile.num), state := .forwarding }).modPair pairs r.old
    fun b => { b with state := .forwarding }
  (st.modEntry tile fun e => { e with berth := some r.new, fwd := true, gen := (e.gen + 1) % 65536 }).modTile tile fun tl =>
    { tl with berth := some r.new, reloc := some { r with stage := .cut, acks := acks } }

/-- RELOCATION_CUTOVER (R461 steps 2 and 3): the tile's wheel stops and it drains; then FWDR is set and its entry rewritten. -/
def execRelocationCutover (tile : TileId) (st : State) : Host.Outcome State Fault Refusal :=
  match st.tile? tile, st.launchOf tile with
  | some tl, some l =>
    match tl.reloc with
    | none => .next st
    | some r =>
      if r.stage ≠ .streaming ∨ st.gangState tile ≠ .resident then .next st
      else if !tl.stopped then .next (st.stopTile tile)
      else if st.drained tile tl then .next (st.cutOver tile l.kernel.pairs r)
      else .next st
  | _, _ => .next st

/-- RELOCATION_RESTORE (R461 steps 4 and 5, R462): once its planes are reloaded (R456 step 3) the tile is restored at the new berth, and
the items that it holds are placed behind the copied inbox in the order of their arrival. -/
def execRelocationRestore (tile : TileId) (st : State) : Host.Outcome State Fault Refusal :=
  match st.tile? tile, st.launchOf tile with
  | some tl, some l =>
    match tl.reloc with
    | none => .next st
    | some r =>
      if r.stage ≠ .cut then .next st
      else
        let st := st.settleLease tile
        if !(st.tile? tile).all Tile.reloaded then .next st
        else
          let st := st.restoreTile l.kernel tile
          let held := (st.berth r.new).held
          let moor (b : Berth) : Berth := { b with held := [], state := .moored }
          let st := (st.modBerth r.new moor).modPair l.kernel.pairs r.new moor
          let st := held.foldl (fun (st : State) it => st.takeIn it) st
          .next (st.modTile tile fun tl => { tl with reloc := some { r with stage := .restored } })
  | _, _ => .next st

/-- RELOCATION_END (R461 step 6): once every interface has acknowledged, FWD and FWDR are clear and the old berth is free. -/
def execRelocationEnd (tile : TileId) (st : State) : Host.Outcome State Fault Refusal :=
  match st.tile? tile, st.launchOf tile with
  | some tl, some l =>
    match tl.reloc with
    | none => .next st
    | some r =>
      if r.stage = .restored ∧ r.acks.isEmpty then
        .next (((st.modEntry tile fun e => { e with fwd := false }).freeBerth l.kernel.pairs r.old).modTile tile fun tl =>
          { tl with reloc := none })
      else .next st
  | _, _ => .next st

/-! ## Incremental checkpoints (R458) -/

/-- The number of scratchpad lines of 128 bytes. -/
def scratchLines : Nat := 24576

/-- The contents of a scratchpad line. -/
def State.scratchLine (st : State) (tile : TileId) (line : Nat) : Nat := memRead st.mem (Place.scratch tile (line * 128)).key 128

/-- The registers of a group, numbered by 16 for each THRID. -/
def Tile.regGroup (tl : Tile) (group : Nat) : List RegState :=
  match tl.threads.get? (group / 16) with
  | some t => (t.regs.drop (group % 16 * 8)).take 8
  | none => []

/-- CHECKPOINT_WRITE_ACK (R458): the image write of a scratchpad line, or of a register group behind the lines, is acknowledged while
checkpoints run. -/
def execCheckpointWriteAck (berth : Nat) (line : Nat) (st : State) : Host.Outcome State Fault Refusal :=
  let b := st.berth berth
  match b.moored with
  | none => .next st
  | some tile =>
    if !b.ckpt ∨ st.gangState tile ≠ .resident then .next st
    else if line < scratchLines then
      let v := st.scratchLine tile line
      .next (st.modTile tile fun tl => { tl with image := tl.image.set line v })
    else .next (st.modTile tile fun tl => { tl with imageRegs := tl.imageRegs.set (line - scratchLines) (tl.regGroup (line - scratchLines)) })

/-- DIRTY of CKPTS (Table 23.3): the scratchpad lines and register groups that the image does not hold. -/
def State.dirtyCount (st : State) (tile : TileId) : Nat :=
  match st.tile? tile with
  | none => 0
  | some tl =>
    ((List.range scratchLines).filter fun n => st.scratchLine tile n != (tl.image.get? n).getD 0).length +
    ((List.range 8192).filter fun n => tl.regGroup n != (tl.imageRegs.get? n).getD []).length

end Sys2Proof.Machine
end

