-- ==== Sys2Proof/Machine/Power.lean ====
section
/-! DEFINITION. Power: settings and their causes, the towpath, the budget, the watchdog, sensors and trips, and the waking of segments
(R36, R365, R463, R494, R497 to R502, R504). -/

namespace Sys2Proof.Machine

/-! ## Settings (R497, Table 26.3) -/

/-- WEIR; 5 to 7 act as 4. -/
def settingWeir (s : BitVec 16) : Nat := min 4 (s.toNat / 8 % 8)
/-- BUDGET. -/
def settingBudget (s : BitVec 16) : Nat := s.toNat / 128
/-- A setting from its fields. -/
def settingOf (budget : Nat) (eshift : Bool) (weir pos : Nat) : BitVec 16 := BitVec.ofNat 16 (budget * 128 + eshift.toNat * 64 + weir * 8 + pos)
/-- The uncapped setting. -/
def uncapped : BitVec 16 := 0xFF87#16

/-- The causes of PWRCAUSE.LAST (Table 13.6). -/
def causeHall : Nat := 1
/-- MODULE_CAP. -/
def causeModule : Nat := 2
/-- THERMAL. -/
def causeThermal : Nat := 3
/-- CURRENT. -/
def causeCurrent : Nat := 4
/-- SENSOR_FALLBACK. -/
def causeSensor : Nat := 5
/-- FW_FALLBACK. -/
def causeFallback : Nat := 6

/-- The settings that apply to a field of a partition, each with its cause (R498). -/
def State.settings (st : State) (part field : Nat) : List (Nat × BitVec 16) :=
  let p := st.part part
  let f := st.field field
  [(causeHall, p.hall), (causeModule, st.modRegs.modcap)] ++
    (if f.thermal then [(causeThermal, st.modRegs.ttripset)] else []) ++
    (if f.current then [(causeCurrent, st.modRegs.itripset)] else []) ++
    (if p.fallback then [(causeFallback, p.pfloor)] else [])

/-- POSM1 and BUDGET are the least, WEIR the greatest, ESHIFT the OR (R498). -/
def combineSettings (ss : List (BitVec 16)) : BitVec 16 :=
  ss.foldl (fun a s => settingOf (min (settingBudget a) (settingBudget s)) (settingEshift a || settingEshift s)
    (max (settingWeir a) (settingWeir s)) (min (settingPos a) (settingPos s))) uncapped

/-- The lowest cause among the settings that supply a value. -/
def supplier (ss : List (Nat × BitVec 16)) (f : BitVec 16 → Nat) (v : Nat) : Nat :=
  ((ss.filter fun s => f s.2 = v).map (·.1)).foldl (fun a c => if a = 0 then c else min a c) 0

/-- The cause whose setting supplies BUDGET (R497). -/
def budgetCause (ss : List (Nat × BitVec 16)) : Nat := supplier ss settingBudget (settingBudget (combineSettings (ss.map (·.2))))

/-- The settings of a field with firmware's steps under BUDGET, which are reported under the cause that supplies BUDGET (R497). -/
def State.steppedSettings (st : State) (part field : Nat) : List (Nat × BitVec 16) :=
  let p := st.part part
  let ss := st.settings part field
  if p.budgetPos = 0 ∧ p.budgetWeir = 0 then ss
  else
    let c := combineSettings (ss.map (·.2))
    ss ++ [(budgetCause ss, settingOf 511 false (min 4 (settingWeir c + p.budgetWeir)) (settingPos c - p.budgetPos))]

/-- The setting in force in a field of a partition (R498). -/
def State.inForce (st : State) (part field : Nat) : BitVec 16 := combineSettings ((st.steppedSettings part field).map (·.2))

/-- PSET (Table 26.2): the setting in force in the partition's lowest field and the cause that is binding (R498). -/
def State.psetWord (st : State) (part : Nat) : Word :=
  let f := (st.part part).firstField
  let ss := st.steppedSettings part f
  let s := combineSettings (ss.map (·.2))
  let cause :=
    if settingPos s < 7 then supplier ss settingPos (settingPos s)
    else if 0 < settingWeir s then supplier ss settingWeir (settingWeir s)
    else if settingBudget s < 511 then supplier ss settingBudget (settingBudget s)
    else if settingEshift s then supplier ss (fun x => (settingEshift x).toNat) 1
    else 0
  BitVec.ofNat 32 (cause * 65536 + s.toNat)

/-! ## Acts of a cause (R365) -/

/-- The fields of a partition. -/
def Part.fieldList (p : Part) : List Nat := (List.range 30).filter fun f => p.fields.getLsbD f

/-- Whether a setting restricts more than another in some field of it (R365). -/
def stricter (new old : BitVec 16) : Bool :=
  decide (settingPos new < settingPos old) || decide (settingWeir old < settingWeir new) ||
    decide (settingBudget new < settingBudget old) || (settingEshift new && !settingEshift old)

/-- Sets a cause's sticky bit in a partition. -/
def State.stick (st : State) (part cause : Nat) : State :=
  st.modPart part fun p => { p with sticky := p.sticky ||| BitVec.twoPow 6 (cause - 1) }

/-- A cause acts in a partition (R365): its sticky bit, LAST and the time. -/
def State.act (st : State) (part cause : Nat) : State :=
  (st.stick part cause).modPart part fun p => { p with last := cause, lastTime := st.now }

/-- The partitions that are enabled or hold fields. -/
def State.partList (st : State) : List Nat := st.parts.map (·.1)

/-- A change of settings under a cause: in every partition where it restricts some field further, the cause acts (R365). -/
def State.changing (st : State) (cause : Nat) (parts : List Nat) (f : State → State) : State :=
  let st' := f st
  parts.foldl (fun (s : State) p =>
    if (st.part p).fieldList.any fun x => stricter (st'.inForce p x) (st.inForce p x) then s.act p cause else s) st'

/-- A write of MODCAP (R498). -/
def State.writeModcap (st : State) (v : Word) : State :=
  st.changing causeModule st.partList fun st => { st with modRegs := { st.modRegs with modcap := v.setWidth 16 } }

/-- A write of PCAUSE (Table 26.2): a 1 clears the sticky bit for every thread of the partition. -/
def State.clearPcause (st : State) (part : Nat) (v : Word) : State :=
  st.modPart part fun p => { p with sticky := p.sticky &&& ~~~(v.setWidth 6) }

/-- MODCAP_WRITE (R498): the module cap changes. -/
def execModcapWrite (v : Word) (st : State) : Host.Outcome State Fault Refusal := .next (st.writeModcap v)

/-- PCAUSE_CLEAR (Table 26.2). -/
def execPcauseClear (part : Nat) (v : Word) (st : State) : Host.Outcome State Fault Refusal := .next (st.clearPcause part v)

/-! ## The towpath (R499, R500) -/

/-- The depth of a partition under a level (R500). -/
def depthOf (level rank : Nat) : Nat := level - rank

/-- The hall setting that the current level gives a partition. -/
def State.hallOf (st : State) (p : Part) : BitVec 16 := p.capt.getD (depthOf st.modRegs.towlevel p.rank) uncapped

/-- A little-endian number of some bytes of a frame's payload. -/
def frameNat (bs : List Byte) (lo n : Nat) : Nat :=
  ((List.range n).map fun i => (bs.getD (lo + i) 0#8).toNat * 256 ^ i).foldl (· + ·) 0
/-- A number of some bytes of a payload, the first byte the most significant. -/
def frameBlock (bs : List Byte) (lo : Nat) : Nat := number16 ((List.range 16).map fun i => (bs.getD (lo + i) 0#8).toNat)
/-- The bytes of TOWKEY in the order of its registers, as a cipher key (log entry 16). -/
def towKeyNat (k : BitVec 128) : Nat := number16 ((List.range 16).map fun i => k.toNat / 256 ^ i % 256)

/-- Whether a sequence number is ahead of another within a window of 2^31 (R118, R499). -/
def seqAhead (s last : Word) : Bool := s != last && decide ((s - last).toNat < 2 ^ 31)

/-- Whether the module accepts a frame (R499). -/
def Module.accepts (m : Module) (bs : List Byte) : Bool :=
  bs.length == 32 && frameNat bs 0 2 == 0x7A01 && frameNat bs 4 4 == m.towdom.toNat &&
    frameBlock bs 16 == aesCmac (towKeyNat m.towkey) (frameBlock bs 0) && seqAhead (BitVec.ofNat 32 (frameNat bs 8 4)) m.towseq

/-- TOWPATH_FRAME (R499): an accepted frame sets the level; any other is dropped and counted. -/
def execTowpathFrame (payload : List Byte) (st : State) : Host.Outcome State Fault Refusal :=
  let m := st.modRegs
  if m.accepts payload then
    .next { st with modRegs := { m with
      towlevel := frameNat payload 2 1 % 16, towseq := BitVec.ofNat 32 (frameNat payload 8 4), towpend := true } }
  else .next { st with modRegs := { m with towdrop := min 65535 (m.towdrop + 1) } }

/-- HALL_SETTING_APPLY (R500): the level's settings take effect in every partition, and every partition with a depth sets HALL_CAP. -/
def execHallSettingApply (st : State) : Host.Outcome State Fault Refusal :=
  if !st.modRegs.towpend then .next st
  else
    let st := st.changing causeHall st.partList fun st =>
      { st with
        parts := st.parts.map fun e => (e.1, { e.2 with hall := st.hallOf e.2 })
        modRegs := { st.modRegs with towpend := false } }
    let capped := (st.parts.filter fun e => 0 < depthOf st.modRegs.towlevel e.2.rank).map (·.1)
    .next (capped.foldl (fun (st : State) p => st.stick p causeHall) st)

/-! ## Wheels and Weirs follow the setting (R207, R497, R498) -/

/-- The grant limit of a WEIR code (Table 26.3): 0 for two grants per Weir step, and else one grant per so many. -/
def weirLimitOf (code : Nat) : Nat := if code = 0 then 0 else 2 ^ (code - 1)

/-- The partition that holds a field. -/
def State.partOf (st : State) (field : Nat) : Option Nat := (st.parts.find? fun e => e.2.fields.getLsbD field).map (·.1)

/-- SETTING_CHANGE (R498): the cores and the Weir of a field take up the setting in force there. -/
def execSettingChange (part field : Nat) (st : State) : Host.Outcome State Fault Refusal :=
  if (st.part part).fields.getLsbD field then
    let s := st.inForce part field
    let st := st.modField field fun f => { f with applied := s, weirLimit := weirLimitOf (settingWeir s) }
    let mine := (st.tiles.filter fun e => e.2.berth.any fun b => fieldOf b == field).map (·.1)
    .next (mine.foldl (fun (st : State) t => st.gateTile t s) st)
  else .next st

/-! ## The budget (R497) -/

/-- BUDGET_CHECK (R497): firmware compares a partition's power, in watts, with BUDGET: above it one more position goes or WEIR rises by
one step, as the model leaves open, and below 90 % of it such a step is undone. -/
def execBudgetCheck (part : Nat) (power : Nat) (st : State) : Host.Outcome State Fault Refusal :=
  let p := st.part part
  let s := st.inForce part p.firstField
  let target := settingBudget s * 64
  let canPos := decide (0 < settingPos s)
  let canWeir := decide (settingWeir s < 4)
  let choosePos := Config.budgetChoice st.clock
  if settingBudget s < 511 ∧ target < power then
    let cause := budgetCause (st.settings part p.firstField)
    if canPos && (choosePos || !canWeir) then
      .next (st.changing cause [part] fun st => st.modPart part fun p => { p with budgetPos := p.budgetPos + 1 })
    else if canWeir then
      .next (st.changing cause [part] fun st => st.modPart part fun p => { p with budgetWeir := p.budgetWeir + 1 })
    else .next st
  else if settingBudget s = 511 ∨ power * 10 < target * 9 then
    if 0 < p.budgetPos ∧ (choosePos ∨ p.budgetWeir = 0) then .next (st.modPart part fun p => { p with budgetPos := p.budgetPos - 1 })
    else .next (st.modPart part fun p => { p with budgetWeir := p.budgetWeir - 1 })
  else .next st

/-! ## The watchdog (R501) -/

/-- PFLOOR applies in a partition while the watchdog of a field of it has timed out. -/
def State.settleFallback (st : State) (part : Nat) : State :=
  st.modPart part fun p => { p with fallback := p.fieldList.any fun f => (st.field f).wdog }

/-- WATCHDOG_FEED (R501): the field's power firmware feeds its watchdog, and PFLOOR leaves. -/
def execWatchdogFeed (field : Nat) (st : State) : Host.Outcome State Fault Refusal :=
  let st := st.modField field fun f => { f with fed := st.now, wdog := false }
  .next (match st.partOf field with
    | some p => st.settleFallback p
    | none => st)

/-- WATCHDOG_TIMEOUT (R501): a watchdog that has gone unfed for 50 ms; PFLOOR joins, and FW_FALLBACK is set. -/
def execWatchdogTimeout (field : Nat) (st : State) : Host.Outcome State Fault Refusal :=
  if (st.field field).wdog ∨ st.now < (st.field field).fed + 50000000 then .next st
  else
    let late (st : State) : State := st.modField field fun f => { f with wdog := true }
    .next (match st.partOf field with
      | some p => (st.changing causeFallback [p] fun st => (late st).settleFallback p).stick p causeFallback
      | none => late st)

/-! ## Sensors and trips (R502, Table 26.5a) -/

/-- The sensors of a field: 0 to 11 thermal, in 3 rows of 4, and 12 to 15 for current, in 2 rows of 2; a sensor's place is its row and
column. -/
def sensorPlace (i : Nat) : Nat × Nat := if i < 12 then (i / 4, i % 4) else ((i - 12) / 2, (i - 12) % 2)

/-- The neighbours of a sensor: those of its kind beside it in its row or column. -/
def sensorNeighbours (i : Nat) : List Nat :=
  let (r, c) := sensorPlace i
  (List.range 16).filter fun j =>
    let (r', c') := sensorPlace j
    decide (i < 12) == decide (j < 12) && ((r == r' && (c + 1 == c' || c' + 1 == c)) || (c == c' && (r + 1 == r' || r' + 1 == r)))

/-- The readings of some sensors; readings are in thousandths of a degree and of an ampere (log entry 16). -/
def readingsOf (rs : List Int) (is : List Nat) : List Int := is.map fun i => rs.getD i 0

/-- The highest of some readings. -/
def highest (rs : List Int) : Int := rs.foldl max (rs.headD 0)

/-- Rule 1: a reading out of its range. -/
def sensorOut (itrip : Nat) (i : Nat) (v : Int) : Bool :=
  if i < 12 then decide (v < -40000) || decide (150000 < v) else decide (v < 0) || decide (2 * (itrip : Int) * 1000 < v * 4)

/-- Rule 2: what a check remembers of a sensor; `sum` is the field's current as read. -/
def SensorRef.check (r : SensorRef) (i : Nat) (v sum now : Int) : SensorRef :=
  let d := (v - r.base).natAbs
  let moved := if i < 12 then decide (500 < d) else decide (r.base.natAbs < d * 100)
  if moved then ⟨v, now, sum, false⟩
  else if r.since + 10000000000 ≤ now ∧ r.sum.natAbs < (sum - r.sum).natAbs * 10 then { r with stuck := true }
  else r

/-- A check of a field's sensors (Table 26.5a): the readings used, those replaced, and whether rule 4 trips the field for heat and for
current. -/
def checkSensors (ttrip itrip : Nat) (refs : List SensorRef) (raw : List Int) : List (Int × Bool) × Bool × Bool :=
  let v (i : Nat) : Int := raw.getD i 0
  let bad (i : Nat) : Bool := sensorOut itrip i (v i) || (refs.getD i ⟨0, 0, 0, false⟩).stuck
  let lost (i : Nat) : Bool := bad i && (sensorNeighbours i).all bad
  let first (i : Nat) : Int :=
    if lost i then (if i < 12 then ttrip * 1000 else itrip * 1000 / 4)
    else if bad i then
      let h := highest (readingsOf raw (sensorNeighbours i))
      if i < 12 then h + 5000 else h + h / 10
    else v i
  let firsts := (List.range 16).map first
  let used (i : Nat) : Int × Bool :=
    let x := firsts.getD i 0
    let ns := readingsOf firsts (sensorNeighbours i)
    if bad i then (x, true)
    else if i < 12 ∧ ns.all fun n => 15000 < (x - n).natAbs then
      let h := highest (x :: ns)
      (h, h != x)
    else (x, false)
  ((List.range 16).map used, (List.range 12).any lost, (List.range 4).any fun i => lost (i + 12))

/-- The sum of a field's current readings. -/
def currentSum (rs : List Int) : Int := (rs.drop 12).foldl (· + ·) 0

/-- A trip of a field begins, and its cause's sticky bit is set (R502). -/
def State.trip (st : State) (field cause : Nat) (f : Field → Field) : State :=
  match st.partOf field with
  | some p => (st.changing cause [p] fun st => st.modField field f).stick p cause
  | none => st.modField field f

/-- SENSOR_CHECK (R502): the field checks its readings, reports a fallback, and trips for heat. -/
def execSensorCheck (field : Nat) (readings : List Int) (st : State) : Host.Outcome State Fault Refusal :=
  let ttrip := st.modRegs.ttrip
  let sum := currentSum readings
  let refs := (st.field field).sensors.zipIdx.map fun r => r.1.check r.2 (readings.getD r.2 0) sum st.now
  let (used, hot, high) := checkSensors ttrip st.modRegs.itrip refs readings
  let vals := used.map (·.1)
  let cool := (vals.take 12).all fun x => decide (x ≤ ((ttrip : Int) - 5) * 1000)
  let low := decide (currentSum vals * 10 < (st.modRegs.itrip : Int) * 9000)
  let since (ok : Bool) (t : Option Int) : Option Int := if ok then some (t.getD st.now) else none
  let st := st.modField field fun f =>
    { f with sensors := refs, readings := vals, cool := since cool f.cool, low := since low f.low }
  let st := match st.partOf field with
    | some p => if used.any (·.2) then st.act p causeSensor else st
    | none => st
  let st := if (hot || (vals.take 12).any fun x => decide ((ttrip : Int) * 1000 ≤ x)) && !(st.field field).thermal then
      st.trip field causeThermal fun f => { f with thermal := true }
    else st
  .next (if high && !(st.field field).current then st.trip field causeCurrent fun f => { f with current := true } else st)

/-- CURRENT_TRIP (R502): the sum of a field's current readings has reached ITRIP. -/
def execCurrentTrip (field : Nat) (st : State) : Host.Outcome State Fault Refusal :=
  let f := st.field field
  if f.current ∨ currentSum f.readings < (st.modRegs.itrip : Int) * 1000 then .next st
  else .next (st.trip field causeCurrent fun f => { f with current := true })

/-- TRIP_END (R502): readings that have stayed low for 1 ms end a field's trips. -/
def execTripEnd (field : Nat) (st : State) : Host.Outcome State Fault Refusal :=
  let past (t : Option Int) : Bool := t.any fun s => decide (s + 1000000 ≤ st.now)
  .next (st.modField field fun f => { f with thermal := f.thermal && !past f.cool, current := f.current && !past f.low })

/-! ## Waking segments (R504) -/

/-- Whether a wake request goes before another (R504): global time, and then source number. -/
def wakeBefore (a b : Int × Nat × Nat) : Bool := decide (a.1 < b.1) || (a.1 == b.1 && decide (a.2.1 < b.2.1))

/-- The first of some wake requests. -/
def firstWake : List (Int × Nat × Nat) → Option (Int × Nat × Nat)
  | [] => none
  | a :: as => match firstWake as with
    | some b => if wakeBefore b a then some b else some a
    | none => some a

/-- WAKE_TOKEN_TAKE (R504): the first wake request of a field takes one of its 4 inrush tokens. -/
def execWakeTokenTake (field : Nat) (st : State) : Host.Outcome State Fault Refusal :=
  let f := st.field field
  match firstWake f.wakes with
  | none => .next st
  | some w =>
    if 4 ≤ f.waking.length then .next st
    else .next (st.modField field fun f => { f with wakes := f.wakes.erase w, waking := f.waking ++ [(w.2.2, (f.time : Int))] })

/-- WAKE_COMPLETE (R504): a wake has had its token for 2,000 field nanoseconds and returns it; the segment is powered, and an array is
cold. -/
def execWakeComplete (field seg : Nat) (st : State) : Host.Outcome State Fault Refusal :=
  let f := st.field field
  match f.waking.find? (·.1 = seg) with
  | none => .next st
  | some w =>
    if (f.time : Int) < w.2 + 2000 then .next st
    else
      let st := st.modField field fun f => { f with waking := f.waking.filter (·.1 ≠ seg) }
      .next (st.modBerth (seg / 3) fun b => { b with dark := b.dark - b.dark / 2 ^ (seg % 3) % 2 * 2 ^ (seg % 3) })

/-- Whether a segment is in no use now (R504): a free berth, an array that is cold and has no command, a vector unit without pushed
instructions. -/
def State.unused (st : State) (seg : Nat) : Bool :=
  let b := st.berth (seg / 3)
  if seg % 3 = 0 then b.state == .free && b.moored.isNone
  else match b.moored.bind st.tile? with
    | none => false
    | some tl =>
      if seg % 3 = 1 then tl.arr.ramp == .cold && (tl.cores.all fun c => c.mcmds.isEmpty && c.reload.isEmpty)
      else tl.vecs.all fun v => v.all (·.queue.isEmpty)

/-- SEGMENT_POWER_DOWN (R504): the power controller powers down a segment that has seen no use for 100 µs; when that is, is the
environment's to say (log entry 17). -/
def execSegmentPowerDown (seg : Nat) (st : State) : Host.Outcome State Fault Refusal :=
  if !st.unused seg ∨ st.isDark (seg / 3) (seg % 3) then .next st
  else .next (st.modBerth (seg / 3) fun b => { b with dark := b.dark + 2 ^ (seg % 3) })

end Sys2Proof.Machine
end

