-- ==== Sys2Proof/Machine/Registers.lean ====
section
/-! DEFINITION. The registers that the host ports and the mesh present: writes and counter queries (R427 to R429, R448, R493 to R496, R503),
and what a read of a read-only one shows. -/

namespace Sys2Proof.Machine

/-! ## Writes -/

/-- Whether a launch runs in a partition. -/
def State.partRuns (st : State) (part : Nat) : Bool := st.launches.any fun e => e.1.1 == part

/-- Replaces some 32-bit word of a number of words. -/
def setWord (old : Nat) (n v : Nat) : Nat := old - old / 2 ^ (32 * n) % 2 ^ 32 * 2 ^ (32 * n) + v % 2 ^ 32 * 2 ^ (32 * n)

/-- Whether a queue of a group of a port has EN set. -/
def State.groupEnabled (st : State) (port group : Nat) : Bool :=
  st.queues.any fun e => queueGroup e.1 == (port, group) && qEnabled e.2

/-- The groups of a port that are given to a function, but for one. -/
def State.groupsOf (st : State) (port func group : Nat) : Nat :=
  ((List.range 128).filter fun g => g != group && (match qmapGiven (st.qmapOf port g) with
    | some (f, _) => f == func
    | none => false)).length

/-- A write of QMAP (R428): ignored while a queue of the group has EN set, and when it would give a VF a seventeenth group. The port
of a partition's groups serves its host space (log entry 19). -/
def State.writeQmap (st : State) (port group : Nat) (w : Word) : State :=
  let w := w &&& 0x80001F7F#32
  if st.groupEnabled port group then st
  else match qmapGiven w with
    | none => { st with qmap := st.qmap.set (port, group) w }
    | some (func, part) =>
      if 1 ≤ func ∧ 16 ≤ st.groupsOf port func group then st
      else ({ st with qmap := st.qmap.set (port, group) w }).modPart part fun p => { p with port := port }

/-- QCTL after a write (Table 22.4): SIZE stays while EN is 1. -/
def qctlWrite (old v : Word) : Word :=
  let v := v &&& 0x87FF070F#32
  if old.getLsbD 31 then (v &&& 0xFFFFFFF0#32) ||| (old &&& 0xF#32) else v

/-- The fields that PCTL may take (R484, R495): none that is dark or belongs to another partition. -/
def State.freeFields (st : State) (part : Nat) (v : BitVec 30) : BitVec 30 :=
  let taken := (st.parts.filter (·.1 ≠ part)).foldl (fun (m : BitVec 30) e => m ||| e.2.fields) 0
  v &&& ~~~taken &&& ~~~st.boot.dark

/-- The hall setting of a partition follows its rank and its CAPT, unless a level still waits to be applied (R500). -/
def State.refreshHall (st : State) (part : Nat) : State :=
  if st.modRegs.towpend then st else st.modPart part fun p => { p with hall := st.hallOf p }

/-- A write of PCTL (Table 26.2): NS is the secure world's, and FIELDS stays while a launch of the partition runs. -/
def State.writePctl (st : State) (part : Nat) (v : Word) (secure : Bool) : State :=
  let fields := if st.partRuns part then (st.part part).fields else st.freeFields part (v.setWidth 30)
  st.modPart part fun p => { p with en := v.getLsbD 31, ns := if secure then v.getLsbD 30 else p.ns, fields := fields }

/-- A write of CKCTL (R507): the timer counts from the setting of EN. -/
def State.writeCkctl (st : State) (part : Nat) (v : Word) : State :=
  st.modPart part fun p =>
    if ckEnabled v && !ckEnabled p.ckctl then { p with ckctl := v, cktimer := st.now, ckcount := 0 } else { p with ckctl := v }

/-- A write of CAPT (Table 26.2): two entries of a word; entry 0 ignores it. -/
def captWrite (capt : List (BitVec 16)) (n : Nat) (v : Word) : List (BitVec 16) :=
  let capt := if n = 0 then capt else capt.set (2 * n) (v.setWidth 16)
  capt.set (2 * n + 1) (v.extractLsb' 16 16)

/-- MOORED after a write (Table 23.3): the slot field keeps what is written while no tile is moored. -/
def Berth.mooredWrite (b : Berth) (v : BitVec 64) : Berth :=
  let slot := (v.extractLsb' 32 8).toNat
  { b with mooredSlot := slot, moored := if v.setWidth 32 = 0xFFFFFFFF#32 then none else some ⟨b.part, slot, (v.setWidth 32).toNat⟩ }

/-- FWDR after a write (Table 23.5): BERTH and TILE keep what is written whatever VALID is. -/
def Berth.fwdrWrite (b : Berth) (v : BitVec 64) : Berth :=
  let to' := ((v.extractLsb' 32 13).toNat, (v.setWidth 32).toNat)
  { b with fwdrKept := to', fwdr := if v.getLsbD 63 then some to' else none }

/-- A write of a queue's descriptor; a group that is given to no function has no queues (R428). -/
def State.queueWrite (st : State) (q : Nat) (f : HostQueue → HostQueue) : State :=
  if (st.queuePart q).isSome then st.modQueue q f else st

/-- A write of a partition's register by an agent that may reach it (R493). -/
def State.partWrite (st : State) (part : Nat) (secure : Bool) (f : State → State) : State :=
  if part < 30 ∧ (secure ∨ (st.part part).ns) then f st else st

/-- A write of a berth's control register, which only the secure firmware reaches (R448). -/
def State.berthWrite (st : State) (b : Nat) (secure : Bool) (f : Berth → Berth) : State :=
  if b < berthCount ∧ secure then st.modBerth b f else st

/-- Changes the module's registers. -/
def State.modModule (st : State) (f : Module → Module) : State := { st with modRegs := f st.modRegs }

/-- A register named by itself takes a write as its access type says (R427 to R429, R448, R494, R495, R501, R503, R507); the two that are
named by an offset are resolved first. -/
def State.writeRegister (st : State) (reg : RegName) (v : BitVec 64) (secure : Bool) : State :=
  let w : Word := v.setWidth 32
  match reg with
  | .intstat p f => st.modFunc p f fun r => { r with intstat := r.intstat &&& ~~~(w.setWidth 3) }
  | .intmask p f => st.modFunc p f fun r => { r with intmask := w.setWidth 3 }
  | .qmap p g => st.writeQmap p g w
  | .base q => st.queueWrite q fun x => if qEnabled x then x else { x with base := v.toNat }
  | .qctl q => st.queueWrite q fun x => { x with qctl := qctlWrite x.qctl w }
  | .qstat q => st.queueWrite q fun x => { x with err := x.err - (x.err &&& (w.toNat / 16 % 16)) }
  | .ttripset => st.changing causeThermal st.partList fun st => st.modModule fun m => { m with ttripset := w.setWidth 16 }
  | .itripset => st.changing causeCurrent st.partList fun st => st.modModule fun m => { m with itripset := w.setWidth 16 }
  | .triplim => st.modModule fun m => { m with ttrip := (w.extractLsb' 16 8).toNat, itrip := (w.extractLsb' 0 16).toNat }
  | .phasetbl n =>
    if !st.launches.isEmpty ∨ 5 ≤ n then st
    else (List.range 6).foldl (fun (st : State) i => st.modField (6 * n + i) fun f => { f with code := w.toNat / 2 ^ (5 * i) % 32 }) st
  | .towkey n => if secure then st.modModule fun m => { m with towkey := BitVec.ofNat 128 (setWord m.towkey.toNat n w.toNat) } else st
  | .towdom => if secure then st.modModule fun m => { m with towdom := w } else st
  | .modid => st.modModule fun m => { m with modid := w.toNat % 256 }
  | .cwsel => st.modModule fun m => { m with cwsel := w.toNat % 32 }
  | .pctl p => st.partWrite p secure fun st => st.writePctl p w secure
  | .prank p => st.partWrite p secure fun st =>
      if st.partRuns p then st
      else st.changing causeHall [p] fun st => (st.modPart p fun x => { x with rank := w.toNat % 16 }).refreshHall p
  | .pfloor p => st.partWrite p secure fun st => st.changing causeFallback [p] fun st => st.modPart p fun x => { x with pfloor := w.setWidth 16 }
  | .capt p n => st.partWrite p secure fun st =>
      st.changing causeHall [p] fun st => (st.modPart p fun x => { x with capt := captWrite x.capt n w }).refreshHall p
  | .ckctl p => st.partWrite p secure fun st => st.writeCkctl p w
  | .ckslot p n => st.partWrite p secure fun st => st.modPart p fun x => { x with ckslots := x.ckslots.set n v.toNat }
  | .pqjob p => st.partWrite p secure fun st => st.modPart p fun x => { x with pqjob := w.toNat }
  | .pqid p => st.partWrite p secure fun st => st.modPart p fun x => { x with pqid := w.toNat }
  | .ckrgn p n => st.partWrite p secure fun st => st.modPart p fun x => { x with ckrgn := updAt x.ckrgn (n / 2) fun r =>
      if n % 2 = 0 then (v.toNat % 2 ^ 48, r.2) else (r.1, v.toNat) }
  | .bstat b => st.berthWrite b secure fun x => { x with retire := w.getLsbD 31, marginal := w.getLsbD 30 }
  | .moored b => st.berthWrite b secure fun x => x.mooredWrite v
  | .fwdr b => st.berthWrite b secure fun x => x.fwdrWrite v
  | .savebase b => st.berthWrite b secure fun x => { x with saveBase := v.toNat }
  | .ckpts b => st.berthWrite b secure fun x => { x with ckpt := w.getLsbD 31 }
  | .niinv b => if secure then st.dropEntry b ⟨(st.berth b).part, (v.extractLsb' 32 8).toNat, (v.setWidth 32).toNat⟩ else st
  | .numvfs p => if p < 2 ∧ v.toNat ≤ 64 then { st with numVfs := st.numVfs.set p v.toNat } else st
  | .bar0 .. => st
  | .berthReg .. => st

/-! ## Counter queries (Table 26.2) -/

/-- What a counter query answers: the byte offset of the block in the control region, or all ones for a level that is not known. -/
def queryResult (v : Option Level) : Word := match v with
  | some v => BitVec.ofNat 32 v.offset
  | none => 0xFFFFFFFF#32

/-- The level that PQJOB and PQID name, for a kind that PQKIND takes: 0 a job, 1 a phase, 2 a graph. -/
def Part.queried (p : Part) (kind : Nat) : Option Level :=
  match kind with
  | 0 => (p.jobs.get? p.pqjob).map (·.level)
  | 1 => p.phases.get? (p.pqjob, p.pqid)
  | _ => (p.graphs.get? (p.pqjob, p.pqid)).map (·.level)

/-- A write of PQKIND performs the query. -/
def State.counterQuery (st : State) (part kind : Nat) : State :=
  let v := (st.part part).queried kind
  st.modPart part fun x => { x with pqres := queryResult v }

/-- COUNTER_QUERY_JOB: a write of 0 to PQKIND. -/
def execCounterQueryJob (part : Nat) (st : State) : Host.Outcome State Fault Refusal := .next (st.counterQuery part 0)
/-- COUNTER_QUERY_PHASE: a write of 1 to PQKIND. -/
def execCounterQueryPhase (part : Nat) (st : State) : Host.Outcome State Fault Refusal := .next (st.counterQuery part 1)
/-- COUNTER_QUERY_GRAPH: a write of 2 to PQKIND. -/
def execCounterQueryGraph (part : Nat) (st : State) : Host.Outcome State Fault Refusal := .next (st.counterQuery part 2)

/-! ## The registers by their offsets (Tables 22.2, 23.3, 26.1 and 26.2) -/

/-- The register at an offset of the module's registers that a write sets (Table 26.1). -/
def moduleRegister (off : Nat) : Option RegName :=
  if off = 0x201C then some .ttripset
  else if off = 0x2020 then some .itripset
  else if off = 0x2024 then some .triplim
  else if 0x2030 ≤ off ∧ off ≤ 0x2040 ∧ off % 4 = 0 then some (.phasetbl ((off - 0x2030) / 4))
  else if 0x2048 ≤ off ∧ off ≤ 0x2054 ∧ off % 4 = 0 then some (.towkey ((off - 0x2048) / 4))
  else if off = 0x2058 then some .towdom
  else if off = 0x2064 then some .modid
  else if off = 0x2068 then some .cwsel
  else none

/-- The register at an offset of a partition's registers that a write sets (Table 26.2). -/
def partRegister (p off : Nat) : Option RegName :=
  if off = 0 then some (.pctl p)
  else if off = 4 then some (.prank p)
  else if off = 0x10 then some (.pfloor p)
  else if 0x20 ≤ off ∧ off < 0x40 ∧ off % 4 = 0 then some (.capt p ((off - 0x20) / 4))
  else if off = 0x40 then some (.ckctl p)
  else if off = 0x48 then some (.ckslot p 0)
  else if off = 0x50 then some (.ckslot p 1)
  else if off = 0x58 then some (.pqjob p)
  else if off = 0x5C then some (.pqid p)
  else if 0x80 ≤ off ∧ off < 0x100 ∧ off % 8 = 0 then some (.ckrgn p ((off - 0x80) / 8))
  else none

/-- QCOUNT of a function (Table 22.2). -/
def State.qcount (st : State) (port func : Nat) : Nat := 1024 * st.groupsOf port func 128

/-- Whether an offset lies in the partition registers, and the partition and the offset within it. -/
def partOffset (off : Nat) : Option (Nat × Nat) :=
  if 0x4000 ≤ off ∧ off < 0x4000 + 0x100 * 30 then some ((off - 0x4000) / 0x100, off % 0x100) else none

/-- The register of a function's BAR0 at an offset that a write sets (R427, Table 22.2): the function's own, the descriptors of its queues,
and in the BAR0 of a PF QMAP, the module's and the partitions'. -/
def State.bar0Register (st : State) (port func off : Nat) : Option RegName :=
  if off = 0x10 then some (.intstat port func)
  else if off = 0x18 then some (.intmask port func)
  else if 0x100000 ≤ off ∧ off < 0x100000 + 32 * st.qcount port func then
    match st.localQueue port func ((off - 0x100000) / 32), off % 32 with
    | some q, 0 => some (.base q)
    | some q, 8 => some (.qctl q)
    | some q, 12 => some (.qstat q)
    | _, _ => none
  else if func ≠ 0 then none
  else if 0x1000 ≤ off ∧ off < 0x1200 ∧ off % 4 = 0 then some (.qmap port ((off - 0x1000) / 4))
  else match partOffset off with
    | some (p, o) => partRegister p o
    | none => moduleRegister off

/-- A write at an offset of a function's BAR0 (R427, R494, R495): MODCAP, PCAUSE and PQKIND act, and an offset that holds no register that
takes writes ignores it. -/
def State.bar0Write (st : State) (port func off : Nat) (v : BitVec 64) (secure : Bool) : State :=
  let w : Word := v.setWidth 32
  if !st.hasFunc port func then st
  else if func = 0 ∧ off = 0x2018 then st.writeModcap w
  else match (partOffset off).filter fun _ => func == 0, st.bar0Register port func off with
    | some (p, 0xC), _ => st.partWrite p secure fun st => st.clearPcause p w
    | some (p, 0x60), _ => st.partWrite p secure fun st => if w.toNat < 3 then st.counterQuery p w.toNat else st
    | _, some r => st.writeRegister r v secure
    | _, none => st

/-- The control register of a berth at an offset (Table 23.3). -/
def berthRegister (b off : Nat) : Option RegName :=
  if off = 0x3F00000 then some (.bstat b)
  else if off = 0x3F00008 then some (.moored b)
  else if off = 0x3F00010 then some (.fwdr b)
  else if off = 0x3F00018 then some (.savebase b)
  else if off = 0x3F00020 then some (.ckpts b)
  else if off = 0x3F00028 then some (.niinv b)
  else none

/-- REGISTER_WRITE (R427 to R429, R448, R494, R495, R501, R503, R507): a register takes a write as its access type says; one named by an offset
is the register that stands there, and an offset without one ignores the write. -/
def execRegisterWrite (reg : RegName) (v : BitVec 64) (secure : Bool) (st : State) : Host.Outcome State Fault Refusal :=
  .next (match reg with
  | .bar0 port func off => st.bar0Write port func off v secure
  | .berthReg b off => match berthRegister b off with
    | some r => st.writeRegister r v secure
    | none => st
  | reg => st.writeRegister reg v secure)

/-! ## What reads show -/

/-- CLMIX (Table 26.1). -/
def Module.clmix (m : Module) : Word :=
  let n (c : Nat) : Nat := (m.classes.filter (· = c)).length
  BitVec.ofNat 32 (n 0 * 65536 + n 1 * 256 + n 2)
/-- CLCOL0 to CLCOL4 (Table 26.1). -/
def Module.clcol (m : Module) (n : Nat) : Word :=
  BitVec.ofNat 32 ((((m.classes.drop (16 * n)).take 16).zipIdx.map fun c => c.1 % 4 * 4 ^ c.2).foldl (· + ·) 0)
/-- TRIPLIM (Table 26.1). -/
def Module.triplim (m : Module) : Word := BitVec.ofNat 32 (m.ttrip * 65536 + m.itrip)
/-- TOWSTAT (Table 26.1). -/
def Module.towstat (m : Module) : Word := BitVec.ofNat 32 (m.towlevel * 2 ^ 28 + m.towdrop)
/-- The module number that MODID names; values above 191 act as 0 (Table 26.1). -/
def Module.number (m : Module) : Nat := if m.modid ≤ 191 then m.modid else 0
/-- PHASETBL0 to PHASETBL4 (R503). -/
def State.phasetblWord (st : State) (n : Nat) : Word :=
  BitVec.ofNat 32 (((List.range 6).map fun i => (st.field (6 * n + i)).code % 32 * 2 ^ (5 * i)).foldl (· + ·) 0)
/-- QSTAT of a queue (Table 22.4). -/
def HostQueue.qstat (q : HostQueue) : Word := BitVec.ofNat 32 (q.err * 16 + (if q.err = 0 then 0 else 8))
/-- CKSTAT of a partition (Table 26.2). -/
def Part.ckstat (p : Part) : Word := BitVec.ofNat 32 (p.ckstate * 2 ^ 28 + p.ckseq % 2 ^ 28)
/-- A CAPT word (Table 26.2). -/
def Part.captWord (p : Part) (n : Nat) : Word :=
  ((p.capt.getD (2 * n + 1) uncapped) ++ (if n = 0 then uncapped else p.capt.getD (2 * n) uncapped) : BitVec 32)
/-- The code of a berth's state (Table 23.4). -/
def BerthState.code : BerthState → Nat
  | .free => 0 | .moored => 1 | .saving => 2 | .restoring => 3 | .forwarding => 4 | .retired => 5
/-- BSTAT (Table 23.4). -/
def State.bstat (st : State) (n : Nat) : Word :=
  let b := st.berth n
  BitVec.ofNat 32 (b.retire.toNat * 2 ^ 31 + b.marginal.toNat * 2 ^ 30 + st.berthClass n * 2 ^ 28 + (isQuay n).toNat * 2 ^ 27 +
    b.pairs.toNat * 2 ^ 26 + b.state.code * 2 ^ 23 + b.part % 32 * 2 ^ 18 + ((b.moored.map (·.slot)).getD 0) % 256 * 2 ^ 10)
/-- MOORED (Table 23.3). -/
def Berth.mooredWord (b : Berth) : BitVec 64 := match b.moored with
  | some t => BitVec.ofNat 64 (t.slot * 2 ^ 32 + t.num)
  | none => BitVec.ofNat 64 (b.mooredSlot % 256 * 2 ^ 32 + 0xFFFFFFFF)
/-- FWDR (Table 23.5). -/
def Berth.fwdrWord (b : Berth) : BitVec 64 := match b.fwdr with
  | some (to', num) => BitVec.ofNat 64 (2 ^ 63 + to' * 2 ^ 32 + num)
  | none => BitVec.ofNat 64 (b.fwdrKept.1 % 2 ^ 13 * 2 ^ 32 + b.fwdrKept.2 % 2 ^ 32)
/-- CKPTS (Table 23.3). -/
def State.ckpts (st : State) (n : Nat) : Word :=
  let b := st.berth n
  BitVec.ofNat 32 (b.ckpt.toNat * 2 ^ 31 + (if b.ckpt then ((b.moored.map st.dirtyCount).getD 0) % 2 ^ 24 else 0))
/-- HMTBASE and HMTTILE, the reference values of R451 in field nanoseconds. -/
def hmtbase : Nat := 20000
/-- HMTTILE. -/
def hmttile : Nat := 2000
/-- A virtual-to-berth entry (Table 23.1). -/
def VEntry.word (e : VEntry) : BitVec 64 :=
  BitVec.ofNat 64 ((if e.berth.isSome then 2 ^ 63 else 0) + e.fwd.toNat * 2 ^ 62 + e.gang % 2 ^ 24 * 2 ^ 32 + e.gen % 65536 * 65536 + e.berth.getD 0x1FFF)

/-- A read of the control-region window of n bytes at an offset (R496); none is an Unsupported Request. -/
def State.windowRead (st : State) (off n : Nat) (secure : Bool) : Option Nat :=
  let p := st.modRegs.cwsel
  if 30 ≤ p ∨ !(st.part p).en then some 0
  else if !secure && !(st.part p).ns then none
  else some (memRead st.mem (memKey 2 0 (controlBase p + off)) n)

/-- What a read of a register that takes writes returns (R9): its fields, and zero for one that is write-only. -/
def State.readRegister (st : State) (reg : RegName) : BitVec 64 :=
  let word (w : Word) : BitVec 64 := w.setWidth 64
  match reg with
  | .intstat p f => (st.func p f).intstat.setWidth 64
  | .intmask p f => (st.func p f).intmask.setWidth 64
  | .qmap p g => word (st.qmapOf p g)
  | .base q => BitVec.ofNat 64 (st.queue q).base
  | .qctl q => word (st.queue q).qctl
  | .qstat q => word (st.queue q).qstat
  | .ttripset => st.modRegs.ttripset.setWidth 64
  | .itripset => st.modRegs.itripset.setWidth 64
  | .triplim => word st.modRegs.triplim
  | .phasetbl n => word (st.phasetblWord n)
  | .towkey _ => 0#64
  | .towdom => word st.modRegs.towdom
  | .modid => BitVec.ofNat 64 st.modRegs.modid
  | .cwsel => BitVec.ofNat 64 st.modRegs.cwsel
  | .pctl p => let x := st.part p; BitVec.ofNat 64 (x.en.toNat * 2 ^ 31 + x.ns.toNat * 2 ^ 30 + x.fields.toNat)
  | .prank p => BitVec.ofNat 64 (st.part p).rank
  | .pfloor p => (st.part p).pfloor.setWidth 64
  | .capt p n => word ((st.part p).captWord n)
  | .ckctl p => word (st.part p).ckctl
  | .ckslot p n => BitVec.ofNat 64 ((st.part p).ckslots.getD n 0)
  | .pqjob p => BitVec.ofNat 64 (st.part p).pqjob
  | .pqid p => BitVec.ofNat 64 (st.part p).pqid
  | .ckrgn p n => let r := (st.part p).ckrgn.getD (n / 2) (0, 0); BitVec.ofNat 64 (if n % 2 = 0 then r.1 else r.2)
  | .bstat b => word (st.bstat b)
  | .moored b => (st.berth b).mooredWord
  | .fwdr b => (st.berth b).fwdrWord
  | .savebase b => BitVec.ofNat 64 (st.berth b).saveBase
  | .ckpts b => word (st.ckpts b)
  | .niinv _ => 0#64
  | .numvfs p => BitVec.ofNat 64 (st.numVfs.getD p 0)
  | .bar0 .. => 0#64
  | .berthReg .. => 0#64

/-- What a read of a read-only register, or of one that a write only acts on, returns; zero for an offset that holds none (R427). -/
def State.bar0Status (st : State) (port func off : Nat) : BitVec 64 :=
  let word (w : Word) : BitVec 64 := w.setWidth 64
  let m := st.modRegs
  if off = 0 then word m.version
  else if off = 8 then BitVec.ofNat 64 (m.freeb % 2 ^ 13)
  else if off = 0xC then BitVec.ofNat 64 (st.qcount port func)
  else if 0x100000 ≤ off ∧ off < 0x100000 + 32 * st.qcount port func then
    match st.localQueue port func ((off - 0x100000) / 32), off % 32 with
    | some q, 16 => word (st.queue q).head
    | _, _ => 0#64
  else if func ≠ 0 then 0#64
  else match partOffset off with
    | some (p, 0x8) => word (st.psetWord p)
    | some (p, 0xC) => (st.part p).sticky.setWidth 64
    | some (p, 0x44) => word (st.part p).ckstat
    | some (p, 0x64) => word (st.part p).pqres
    | some _ => 0#64
    | none =>
      if off = 0x2000 then word m.clmix
      else if 0x2004 ≤ off ∧ off ≤ 0x2014 ∧ off % 4 = 0 then word (m.clcol ((off - 0x2004) / 4))
      else if off = 0x2018 then m.modcap.setWidth 64
      else if off = 0x205C then word m.towstat
      else if off = 0x2060 then word m.towseq
      else 0#64

/-- A read at an offset of a function's BAR0 (R427, R493 to R496); none is an Unsupported Request: of a function that does not exist, and of the
registers and the control region of a secure partition from the non-secure world. -/
def State.bar0Read (st : State) (port func off n : Nat) (secure : Bool) : Option (BitVec 64) :=
  if !st.hasFunc port func then none
  else if func = 0 ∧ 0x800000 ≤ off ∧ off < 0xC00000 then (st.windowRead (off - 0x800000) n secure).map (BitVec.ofNat 64)
  else if func = 0 && (partOffset off).any fun p => !secure && !(st.part p.1).ns then none
  else match st.bar0Register port func off with
    | some r => some (st.readRegister r)
    | none => some (st.bar0Status port func off)

/-- A read at an offset of a berth's control registers by firmware (R448): zero for an offset that holds none. -/
def State.berthRead (st : State) (b off : Nat) : BitVec 64 :=
  if off = 0x3F00040 then BitVec.ofNat 64 hmtbase
  else if off = 0x3F00048 then BitVec.ofNat 64 hmttile
  else match berthRegister b off with
    | some r => st.readRegister r
    | none => 0#64

end Sys2Proof.Machine
end

