-- ==== Sys2Proof/Machine/Boot.lean ====
section
/-! DEFINITION. Boot, the defect map, clocks and offsets, worlds, and identity (R366, R422, R484 to R493, R509). -/

namespace Sys2Proof.Machine

/-! ## The defect map (R485, Table 25.2) -/

/-- The record of a defect (Table 25.2). -/
def Defect.record (d : Defect) : BitVec 64 :=
  BitVec.ofNat 64 (d.kind % 16 * 2 ^ 60 + d.unit % 2 ^ 20 * 2 ^ 40 + d.cause % 256 * 2 ^ 32 + d.boot % 2 ^ 32)

/-- Whether a unit is in the map. -/
def hasDefect (ds : List Defect) (kind unit : Nat) : Bool := ds.any fun d => d.kind == kind && d.unit == unit

/-- Enters a unit, once (R485). -/
def enterDefect (ds : List Defect) (kind unit cause boot : Nat) : List Defect :=
  if hasDefect ds kind unit then ds else ds ++ [⟨kind, unit, cause, boot⟩]

/-- A berth as the map leaves it (R486): an entry of KIND 0 removes it from the pool, and each lane group entry lowers G. -/
def defectBerth (ds : List Defect) (n : Nat) (b : Berth) : Berth :=
  { b with
    state := if hasDefect ds 0 n then .retired else b.state
    lanes := 16 - ((List.range 16).filter fun g => hasDefect ds 1 (n * 16 + g)).length }

/-- The berths that some entries of the map concern. -/
def defectUnits (ds : List Defect) : List Nat :=
  (ds.filterMap fun d => if d.kind = 0 then some d.unit else if d.kind = 1 then some (d.unit / 16) else none).eraseDups

/-- Applies the map to the berths. -/
def State.applyDefects (st : State) : State :=
  (defectUnits st.defects).foldl (fun (st : State) n => st.modBerth n (defectBerth st.defects n)) st

/-! ## Stages (R484, Table 25.1) -/

/-- The fields that boot. -/
def State.booting (st : State) : List Nat := (List.range 30).filter fun f => !st.boot.dark.getLsbD f

/-- A field completes the stage after the last one that all have; the stage is complete once every booting field has. -/
def State.passStage (st : State) (field : Nat) : State :=
  let passed := st.boot.passed ||| BitVec.twoPow 30 field
  if st.booting.all fun f => passed.getLsbD f then { st with boot := { st.boot with stage := st.boot.stage + 1, passed := 0 } }
  else { st with boot := { st.boot with passed := passed } }

/-- Whether a field may do the work of a stage now. -/
def State.mayPass (st : State) (stage field : Nat) : Bool :=
  decide (field < 30) && st.boot.stage + 1 == stage && !st.boot.dark.getLsbD field && !st.boot.passed.getLsbD field

/-- What a reset leaves of memory: host memory, and after a reset with power the rim store (log entry 26). -/
def resetMem (mem : List Host.Cell) (powerOn : Bool) : List Host.Cell :=
  mem.filter fun c => c.1 / 2 ^ 96 == 3 || (!powerOn && c.1 / 2 ^ 96 == 2)

/-- MODULE_RESET (R484, R485): the module boots afresh. The map takes the berths that have RETIRE set and the units that failed in
service; `verified` names the fields whose firmware passes stage 1, and the others stay dark. -/
def execModuleReset (powerOn : Bool) (verified : BitVec 30) (st : State) : Host.Outcome State Fault Refusal :=
  let count := st.boot.count + 1
  let retired := (st.berths.filter (·.2.retire)).map (·.1)
  let ds := retired.foldl (fun ds b => enterDefect ds 0 b 2 count) st.defects
  let ds := st.boot.failed.foldl (fun ds u => enterDefect ds u.1 u.2 3 count) ds
  let kept : AMap Nat Berth := if powerOn then [] else retired.map fun b => (b, { Berth.reset with retire := true })
  .next ({ State.reset with
    clock := st.clock, nextId := st.nextId, agenda := st.agenda, mem := resetMem st.mem powerOn, berths := kept
    modRegs := { Module.reset with classes := st.modRegs.classes, version := st.modRegs.version }
    boot := { count := count, stage := 1, passed := 0, dark := ~~~verified, failed := [] }
    defects := ds }).applyDefects

/-- SELF_TEST (R484 stage 2, R485): a field tests its units, and a unit that fails is entered once. -/
def execSelfTest (field : Nat) (failed : List (Nat × Nat)) (st : State) : Host.Outcome State Fault Refusal :=
  if st.mayPass 2 field then
    let ds := failed.foldl (fun ds u => enterDefect ds u.1 u.2 1 st.boot.count) st.defects
    .next (({ st with defects := ds }).applyDefects.passStage field)
  else .next st

/-- A granule entry that is withdrawn (Table 25.3): ASGN reads 0. -/
def withdrawnEntry (e : BitVec 16) : BitVec 16 := (e ||| 0x2000#16) &&& 0xBFFF#16

/-- LANE_REPAIR (R484 stage 3, R487): the pseudo-channels of a removed rim link are entered with KIND 4, and the granules that they hold
are withdrawn from every partition. -/
def execLaneRepair (field : Nat) (channels granules : List Nat) (st : State) : Host.Outcome State Fault Refusal :=
  if st.mayPass 3 field then
    let ds := channels.foldl (fun ds c => enterDefect ds 4 c 1 st.boot.count) st.defects
    let gs := granules.foldl (fun (gs : AMap Nat (BitVec 16)) g => gs.set g (withdrawnEntry ((gs.get? g).getD 0))) st.granules
    .next (({ st with defects := ds, granules := gs }).passStage field)
  else .next st

/-- The failed wires of a direction of a seam: its wires are numbered through, 512 to a direction (log entry 22). -/
def seamFails (ds : List Defect) (seam dir : Nat) : Nat :=
  (ds.filter fun d => d.kind = 3 ∧ d.unit / 1024 = seam ∧ d.unit % 1024 / 512 = dir).length

/-- The seams that lack spares for their failed wires (R487). -/
def removedSeams (ds : List Defect) : List Nat := (List.range 49).filter fun s => 8 < seamFails ds s 0 ∨ 8 < seamFails ds s 1

/-- The berths on both ends of a seam (R4, R367). -/
def seamBerths (s : Nat) : List Nat :=
  if s < 25 then
    let fx := s % 5
    let fy := s / 5
    (List.range 14).flatMap fun i => [(14 * fy + i) * 72 + 12 * fx + 11, (14 * fy + i) * 72 + 12 * fx + 12]
  else
    let fx := (s - 25) % 6
    let fy := (s - 25) / 6
    (List.range 12).flatMap fun i => [(14 * fy + 13) * 72 + 12 * fx + i, (14 * fy + 14) * 72 + 12 * fx + i]

/-- The berths that no route crosses (R484, R486, R487): routers in the map, the ends of removed seams, and the berths of dark fields. -/
def State.findHoles (st : State) : List Nat :=
  let cuts := (removedSeams st.defects).flatMap seamBerths
  (List.range berthCount).filter fun b => hasDefect st.defects 2 b || cuts.contains b || st.boot.dark.getLsbD (fieldOf b)

/-- ROUTE_TABLE_BUILD (R484 stage 4, R488): the routes of a field are chosen; they are fixed until the next boot. -/
def execRouteTableBuild (field : Nat) (st : State) : Host.Outcome State Fault Refusal :=
  if st.mayPass 4 field then .next (({ st with holes := st.findHoles, cuts := removedSeams st.defects }).passStage field) else .next st

/-- TIME_COUNTER_START (R484 stage 5, R491): every field starts its counter at 0 in the same reset release. -/
def execTimeCounterStart (st : State) : Host.Outcome State Fault Refusal :=
  if st.boot.stage = 4 then
    let st := st.booting.foldl (fun (st : State) f => st.modField f fun x => { x with time := 0, counting := true, off := 0, fed := 0 }) st
    .next { st with now := 0, toff := List.replicate 30 0, boot := { st.boot with stage := 5 } }
  else .next st

/-- SEAMLAT of a seam from its least, median and greatest latency (R492, Table 13.8). -/
def seamWord (lo mid hi : Nat) : Word :=
  let sat (n : Nat) : Nat := min n 255
  BitVec.ofNat 32 (sat hi / 16 * 2 ^ 24 + sat hi * 2 ^ 16 + sat mid * 2 ^ 8 + sat lo)

/-- SEAM_MEASUREMENT (R484 stage 6, R492): each seam's latencies are recorded; a removed seam reads all ones. -/
def execSeamMeasurement (lat : List (Nat × Nat × Nat)) (st : State) : Host.Outcome State Fault Refusal :=
  if st.boot.stage = 5 then
    let word (s : Nat) : Word :=
      if st.cuts.contains s then 0xFFFFFFFF#32
      else let l := lat.getD s (0, 0, 0); seamWord l.1 l.2.1 l.2.2
    .next { st with seamlat := (List.range 49).map word, boot := { st.boot with stage := 6 } }
  else .next st

/-- FREEB (R486): the compute berths that are neither quay tiles, nor entered, nor in a dark field. -/
def State.countFree (st : State) : Nat :=
  ((List.range berthCount).filter fun b => !isQuay b && !hasDefect st.defects 0 b && !st.boot.dark.getLsbD (fieldOf b)).length

/-- WORLD_ASSIGNMENT (R484 stage 7, R493): FREEB and the version are published, and partitions open. -/
def execWorldAssignment (st : State) : Host.Outcome State Fault Refusal :=
  if st.boot.stage = 6 then
    let minor := descField st.modRegs.version 16 8
    let st := (List.range 30).foldl (fun (st : State) p => st.modPart p fun x => { x with minor := minor }) st
    .next { st with modRegs := { st.modRegs with freeb := st.countFree }, boot := { st.boot with stage := 7 } }
  else .next st

/-- POWER_LOSS (R509): nothing runs until the module is powered on again. -/
def execPowerLoss (st : State) : Host.Outcome State Fault Refusal := .next { st with powered := false }

/-! ## Offsets (R366, R491) -/

/-- The neighbour of a field on the measuring tree, towards field (0,0). -/
def nearField (f : Nat) : Nat := if f < 6 then f - 1 else f - 6

/-- TIME_PROBE (R491): once per millisecond of its own counter, the near controller of a field sends it a probe. -/
def execTimeProbe (field : Nat) (st : State) : Host.Outcome State Fault Refusal :=
  if field = 0 ∨ 30 ≤ field then .next st
  else
    let near := st.field (nearField field)
    let f := st.field field
    if !near.counting ∨ !f.counting ∨ f.probe.isSome ∨ near.time / 1000000 ≤ f.probed then .next st
    else .next (st.modField field fun f => { f with probe := some ⟨near.time, 0, 0, false⟩, probed := near.time / 1000000 })

/-- TIME_PROBE_ARRIVAL (R491): a probe arrives and is answered. -/
def execTimeProbeArrival (field : Nat) (st : State) : Host.Outcome State Fault Refusal :=
  .next (st.modField field fun f => { f with probe := f.probe.map fun p => if p.arrived then p else { p with t2 := f.time, t3 := f.time, arrived := true } })

/-- The offset that a probe measures (R491). -/
def probeOffset (t1 t2 t3 t4 : Nat) : Int := (((t2 : Int) - t1) - ((t4 : Int) - t3)) / 2

/-- The offset of a field: the sum along the measuring tree, of at most so many hops. -/
def State.treeOffset (st : State) : Nat → Nat → Int
  | 0, _ => 0
  | n + 1, f => if f = 0 then 0 else (st.field f).off + st.treeOffset n (nearField f)

/-- TIME_REPLY_ARRIVAL (R491): the near controller computes the offset, and the table is published as a whole. -/
def execTimeReplyArrival (field : Nat) (st : State) : Host.Outcome State Fault Refusal :=
  match (st.field field).probe with
  | none => .next st
  | some p =>
    if !p.arrived ∨ field = 0 ∨ 30 ≤ field then .next st
    else
      let t4 := (st.field (nearField field)).time
      let st := st.modField field fun f => { f with off := probeOffset p.t1 p.t2 p.t3 t4, probe := none }
      .next { st with toff := (List.range 30).map fun f => st.treeOffset 10 f }

/-! ## Firmware, identity and worlds (R422, R485, R489, R490, R493) -/

/-- DEFECT_REINSTATE (R485, R489): an operator's command whose signatures verify and which carries the current boot count removes an entry;
any other is refused. -/
def execDefectReinstate (index count : Nat) (verified : Bool) (st : State) : Host.Outcome State Fault Refusal :=
  if verified ∧ count = st.boot.count then .next { st with defects := st.defects.eraseIdx index } else .next st

/-- The digest of the defect map: of its records in order. -/
def defectDigest (ds : List Defect) : BitVec 384 :=
  sha384 (ds.flatMap fun d => (List.range 8).map fun i => d.record.toNat / 256 ^ i % 256)

/-- The digest of the world assignment: of the granule entries in order (log entry 25). -/
def State.worldDigest (st : State) : BitVec 384 :=
  sha384 ((List.range 2560).flatMap fun g => let e := ((st.granules.get? g).getD 0).toNat; [e % 256, e / 256])

/-- ATTESTATION_REPORT (R490): the report for a verifier's nonce. -/
def execAttestationReport (nonce : Nat) (st : State) : Host.Outcome State Fault Refusal :=
  let r : Report :=
    { nonce := nonce, version := st.modRegs.version, secver := Config.securityVersion, rom := Config.romDigest
      firmware := (List.range 30).map Config.firmwareDigest, defects := defectDigest st.defects, freeb := st.modRegs.freeb
      mix := st.modRegs.clmix, worlds := st.worldDigest }
  .next { st with reports := st.reports ++ [r] }

/-- Empties a granule of rim store. -/
def clearGranule (mem : List Host.Cell) (g : Nat) : List Host.Cell :=
  let lo := memKey 2 0 (g * 2 ^ 30)
  mem.filter fun c => !(decide (lo ≤ c.1) && decide (c.1 < lo + 2 ^ 30))

/-- The partition that a granule entry assigns its granule to. -/
def granulePart (e : BitVec 16) : Option Nat := if e.getLsbD 14 then some (e.toNat / 256 % 32) else none

/-- GRANULE_REASSIGN (R493): while no launch of the old or the new partition runs, the granule is zeroed, every TLB is invalidated, and the
entry is written; a withdrawn granule stays withdrawn. -/
def execGranuleReassign (granule : Nat) (entry : BitVec 16) (st : State) : Host.Outcome State Fault Refusal :=
  let old := (st.granules.get? granule).getD 0
  let busy (e : BitVec 16) : Bool := (granulePart e).any st.partRuns
  if busy old ∨ busy entry ∨ 2560 ≤ granule then .next st
  else
    let e := entry &&& 0xDF00#16
    .next { st with
      mem := clearGranule st.mem granule
      berths := st.berths.map fun b => (b.1, { b.2 with utlb := [] })
      fields := st.fields.map fun f => (f.1, { f.2 with tlb := [] })
      granules := st.granules.set granule (if old.getLsbD 13 then withdrawnEntry e else e) }

/-- FIRMWARE_UPDATE (R422, R489): an accepted image's MINOR takes effect in a partition while no launch of it runs. -/
def execFirmwareUpdate (part : Nat) (version : Word) (verified : Bool) (st : State) : Host.Outcome State Fault Refusal :=
  if !verified ∨ st.partRuns part then .next st
  else
    let v := (st.modRegs.version &&& 0xFF000000#32) ||| (version &&& 0x00FFFFFF#32)
    .next ((st.modModule fun m => { m with version := v }).modPart part fun p => { p with minor := descField v 16 8 })

end Sys2Proof.Machine
end

