-- ==== Sys2Proof/Machine/Checkpoint.lean ====
section
/-! DEFINITION. STOP flits and step checkpoints (R506 to R509). -/

namespace Sys2Proof.Machine

/-- STOP_FLIT_ARRIVAL (R506): a STOP flit of a peer for a phase of a job arrives, and is held until the phase reaches its stop. -/
def execStopFlitArrival (flit : Nat) (st : State) : Host.Outcome State Fault Refusal :=
  match st.flits.find? (·.1 = flit) with
  | none => .next st
  | some (_, part, peer, job, phase) =>
    let st := { st with flits := st.flits.filter (·.1 ≠ flit) }
    let st := st.modPart part fun p => { p with stops := if p.stops.contains (job, phase, peer) then p.stops else p.stops ++ [(job, phase, peer)] }
    .next (st.settlePhase part job)

/-- CHECKPOINT_TIMER (R507): under MODE 0 the timer expires, and the next phase boundary is a checkpoint boundary. -/
def execCheckpointTimer (part : Nat) (st : State) : Host.Outcome State Fault Refusal :=
  let p := st.part part
  if !ckEnabled p.ckctl ∨ ckByPhase p.ckctl ∨ p.ckstep ≠ .idle ∨ st.now < p.cktimer + ckPeriod p.ckctl * 1000000 then .next st
  else .next (st.modPart part fun p => { p with ckcount := 1 })

/-- The pages of 64 KiB of a region, as the job's tables translate them; none when one does not translate. -/
def State.regionPages (st : State) (part root base len : Nat) : Option (List Nat) :=
  (List.range (len / 65536)).foldr (fun i acc => match acc, walk st part root (base + i * 65536) true false with
    | some ps, .ok e => some ((e.pa + (base + i * 65536 - e.base)) :: ps)
    | _, _ => none) (some [])

/-- The pages of every region that is in use, in region order (R508 step 4). -/
def State.checkpointPages (st : State) (part job : Nat) : Option (List Nat) :=
  match st.roots.get? (part, job) with
  | none => if (st.part part).ckrgn.all fun r => r.2 < 65536 then some [] else none
  | some root => (st.part part).ckrgn.foldr (fun r acc => match acc, st.regionPages part root r.1 r.2 with
    | some ps, some qs => some (qs ++ ps)
    | _, _ => none) (some [])

/-- A checkpoint is abandoned (R509): CKSTAT 4, and the PHASE command is released. -/
def State.abortCheckpoint (st : State) (part : Nat) : State :=
  let job := (st.part part).ckphase.1
  (st.modPart part fun p => { p with ckstep := .idle, ckstate := 4, ckcount := 0, cktimer := st.now }).settlePhase part job

/-- The pages of a checkpoint are copied to its slot, behind the commit record (R508 step 4; log entry 20). -/
def copyPages (mem : List Host.Cell) (key : Nat) (pages : List Nat) : List Host.Cell :=
  pages.zipIdx.foldl (fun m p => memCopy (memClearRange m (key + 64 + p.2 * 65536) 65536) (memKey 2 0 p.1) (key + 64 + p.2 * 65536) 65536) mem
where
  /-- Empties some bytes of memory. -/
  memClearRange (m : List Host.Cell) (lo n : Nat) : List Host.Cell := m.filter fun c => !(decide (lo ≤ c.1) && decide (c.1 < lo + n))

/-- CHECKPOINT_SLOT_CLEARED (R508 steps 3 and 4): the zeros over the slot's record are acknowledged, and the regions are copied; a
region that does not translate, or a slot that the partition may not write, abandons the checkpoint. -/
def execCheckpointSlotCleared (part : Nat) (st : State) : Host.Outcome State Fault Refusal :=
  let p := st.part part
  if p.ckstep ≠ .clearing then .next st
  else match st.slotKey part, st.checkpointPages part p.ckphase.1 with
    | some key, some pages =>
      .next (({ st with mem := copyPages st.mem key pages }).modPart part fun p => { p with ckstep := .writing, ckcopied := pages.length })
    | _, _ => .next (st.abortCheckpoint part)

/-- The digest of the copied bytes of a slot. -/
def State.slotDigest (st : State) (key pages : Nat) : BitVec 384 :=
  sha384 ((List.range (pages * 65536)).map fun i => (memGet st.mem (key + 64 + i)).toNat)

/-- A 384-bit digest as a little-endian number of its bytes in order. -/
def digestLe (d : BitVec 384) : Nat := ((List.range 48).map fun i => d.toNat / 256 ^ (47 - i) % 256 * 256 ^ i).foldl (· + ·) 0

/-- The commit record (R508 step 5), as a little-endian number of 64 bytes. -/
def commitRecord (seq phase : Nat) (now : Int) (digest : BitVec 384) : Nat :=
  seq % 2 ^ 32 + phase % 2 ^ 32 * 2 ^ 32 + (now % 2 ^ 64).toNat * 2 ^ 64 + digestLe digest * 2 ^ 128

/-- CHECKPOINT_COMMIT (R508 steps 5 and 6): the commit record is written and acknowledged; CKSTAT is 3 with the new SEQ, and the PHASE
command is released. -/
def execCheckpointCommit (part : Nat) (st : State) : Host.Outcome State Fault Refusal :=
  let p := st.part part
  if p.ckstep ≠ .writing then .next st
  else match st.slotKey part with
    | none => .next (st.abortCheckpoint part)
    | some key =>
      let rec' := commitRecord (p.ckseq + 1) p.ckphase.2 st.now (st.slotDigest key p.ckcopied)
      let st := { st with mem := memWrite st.mem key 64 rec' }
      .next ((st.modPart part fun p => { p with ckstep := .idle, ckstate := 3, ckseq := p.ckseq + 1 }).settlePhase part p.ckphase.1)

/-- CHECKPOINT_ABORT (R509): a barrier that has waited longer than 1 s, or a write that is refused or meets an uncorrectable error. -/
def execCheckpointAbort (part : Nat) (st : State) : Host.Outcome State Fault Refusal :=
  let p := st.part part
  if p.ckstep = .idle ∨ (p.ckstep = .stopping ∧ st.now ≤ p.cktimer + 1000000000) then .next st else .next (st.abortCheckpoint part)

end Sys2Proof.Machine
end

