-- ==== Sys2Proof/Machine/Fetch.lean ====
section
/-! DEFINITION. The wheel's choice of a tile, core and thread (R31, R34 to R36, R54), and the fetch and decode of its instruction
(R220, R221, R229, R236). -/

namespace Sys2Proof.Machine

/-! ## Tiles and cores in turn (R31) -/

/-- The tiles whose tile cycles are counted: the moored ones. -/
def State.runningTiles (st : State) : List TileId := (st.tiles.filter fun e => e.2.berth.isSome).map (·.1)

/-- The tile that begins its next tile cycle: the only one, or one that the model leaves open (R5; log entry 1). -/
def State.nextTile (st : State) : Option TileId :=
  match st.runningTiles with
  | [] => none
  | [t] => some t
  | ts => ts[Config.tileChoice st.clock ts.length % ts.length]?

/-- The core whose turn is next, with its tile at that core's cycle: the eight cores of a tile take their turns of one tile cycle in
ascending order. -/
def State.nextCore (st : State) : Option (TileId × Nat × State) :=
  let (tile, core) := st.focus
  if core < 7 ∧ st.runningTiles.contains tile then some (tile, core + 1, { st with focus := (tile, core + 1) })
  else match st.nextTile with
    | none => none
    | some t => some (t, 0, { st.modTile t fun tl => { tl with cycle := tl.cycle + 1 } with focus := (t, 0) })

/-! ## The thread that issues (R34, R35) -/

/-- Whether a thread at a position may be offered the turn: its stall count is spent, it has waited out a removal and the bubble of R409, its walk is done
(R167), and its leader has issued what it follows (R48). A killed thread always is (R52). -/
def Thread.eligible (t : Thread) (cycle : Nat) : Bool :=
  t.kill ||
  (t.stall == 0 && !t.bubble && decide (t.notBefore ≤ cycle) && t.walking.isNone &&
    (match t.follow with
      | some f => !f.trace.isEmpty
      | none => true))

/-- The slots of a position in the order of its search (R34), each with the place at which the next search would start. -/
def Position.search (q : Position) : List (Nat × Nat) :=
  let idx := q.list.zipIdx.map fun e => (e.1, e.2 + 1)
  idx.drop q.start ++ idx.take q.start

/-- The slots that may be offered a turn of a core, in order. -/
def State.candidates (st : State) (tile : TileId) (core : Nat) : List (Nat × Nat) :=
  match st.tile? tile with
  | none => []
  | some tl =>
    let co := tl.core core
    let q := co.positions.getD (tl.cycle % 8) ⟨false, [], 0⟩
    if tl.stopped || co.halted || !q.enabled || st.gangState tile != .resident then []
    else q.search.filter fun e => match tl.threads.get? e.1 with
      | some t => t.eligible tl.cycle
      | none => false

/-- The threads of a position with unspent stall counts, or a bubble to come, forgo its turn (R35, R409). -/
def State.forgoTurn (st : State) (tile : TileId) (core : Nat) : State :=
  match st.tile? tile with
  | none => st
  | some tl =>
    let q := (tl.core core).positions.getD (tl.cycle % 8) ⟨false, [], 0⟩
    q.list.foldl (fun st n => st.modThread ⟨tile, n⟩ (·.forgo tl.cycle)) st

/-- The fixed-latency results of a core's threads that are due are delivered (R175, R403), and at a thread's turn the loads and atomics
that it issued under DISCARD resolve (R281). -/
def State.deliverCore (st : State) (tile : TileId) (core : Nat) : State :=
  match st.tile? tile with
  | none => st
  | some tl =>
    let slots := ((tl.core core).positions.getD (tl.cycle % 8) ⟨false, [], 0⟩).list
    let due := (tl.core core).symbols.filter fun e => e.2.source == .discard && slots.contains e.2.thr
    let late := tl.threads.filter fun e => coreOf e.1 = core ∧ (!e.2.inflight.isEmpty ∨ (tl.twin e.1).inflight.isSome)
    due.foldl (fun st e => st.deliver tile core e.1) (st.modTile tile fun tl =>
      late.foldl (fun tl e => tl.modMembers e.1 (·.deliverDue tl.cycle)) tl)

/-- The state in which a slot takes the turn: the position's next search starts behind it. -/
def State.offer (st : State) (tile : TileId) (e : Nat × Nat) : State :=
  let st := st.modTile tile fun tl => tl.modCore (coreOf e.1) fun c =>
    { c with positions := updAt c.positions (tl.cycle % 8) fun q => { q with start := e.2 } }
  { st with cur := some ⟨tile, e.1⟩ }

/-! ## Fetch and decode (R220, R221, R229, R236) -/

/-- The 32-bit word at a byte offset of a launch's code section. -/
def State.codeWord (st : State) (tile : TileId) (off : Nat) : Nat := memRead st.mem (codeKey tile.part tile.slot off) 4

/-- The instruction of a word in a decode mode, with the word behind it when the code section holds one: an IMX pair, or the
illegal word of R229 and R236. -/
def decodeAt (m : DMode) (w : Nat) (next : Option Nat) : Instr :=
  if isImxWord w then
    match next with
    | some w2 => .imx (BitVec.ofNat 22 w) (BitVec.ofNat 32 w2)
    | none => .illegal (BitVec.ofNat 32 w)
  else if modeRejects m w then .illegal (BitVec.ofNat 32 w)
  else match decodeWord w with
    | .ok i => i
    | .error _ => .illegal (BitVec.ofNat 32 w)

/-- The instruction at a thread's PC, or the offset outside the code section that traps BOUNDS (R221). -/
def fetch (st : State) (t : ThreadId) (th : Thread) : Except Word Instr :=
  match st.launchOf t.tile with
  | none => .error th.pc
  | some l =>
    let pc := th.pc &&& 0xFFFFFFFC#32
    if l.kernel.codeSize ≤ pc.toNat then .error pc
    else
      let next := if pc.toNat + 8 ≤ l.kernel.codeSize then some (st.codeWord t.tile (pc.toNat + 4)) else none
      .ok (decodeAt th.mode (st.codeWord t.tile pc.toNat) next)

end Sys2Proof.Machine
end

