-- ==== Sys2Proof/Machine/Links.lean ====
section
/-! DEFINITION. External links, remote traffic, source routes, and the queues of the quay tiles (R109, R118, R119, R482, R483, R488,
R505). -/

namespace Sys2Proof.Machine

/-! ## Links -/

/-- A link as it is at reset. -/
def Link.reset : Link := { failed := false, narrow := false, retries := 0, dups := 0, rx := [] }
/-- A link of the state. -/
def State.link (st : State) (n : Nat) : Link := (st.links.get? n).getD Link.reset
/-- Changes a link. -/
def State.modLink (st : State) (n : Nat) (f : Link → Link) : State := { st with links := st.links.set n (f (st.link n)) }

/-- The source number of a link (Table 0.3). -/
def linkSource (link : Nat) : Nat := 5070 + link

/-- What a link delivers takes effect (R118): a write at its visibility point, or a message at its tile, moored for a gang that is
not resident. -/
def State.deliverLink (st : State) (link : Nat) (d : LinkData) : State :=
  match d with
  | .write pa bytes => { st with mem := memWriteBytes st.mem (memKey 2 0 pa) bytes }
  | .message dst m =>
    let (id, st) := st.freshId
    let it : Item := ⟨id, dst, dst, .message m, linkSource link, 0, false⟩
    if st.gangState dst = .resident then st.takeIn it else (st.moor it (linkSource link)).tileFault dst (linkSource link)

/-- LINK_ITEM_ARRIVAL (R118): the next write or message of a link; one whose number is not ahead of the last accepted one of its source
is dropped and counted. -/
def execLinkItemArrival (link : Nat) (st : State) : Host.Outcome State Fault Refusal :=
  let l := st.link link
  match l.rx with
  | [] => .next st
  | i :: rest =>
    if l.failed then .next st
    else
      let st := st.modLink link fun l => { l with rx := rest, retries := 0 }
      let fresh := match st.seqIn.get? i.source with
        | some last => seqAhead i.seq last
        | none => true
      if fresh then .next (({ st with seqIn := st.seqIn.set i.source i.seq }).deliverLink link i.data)
      else .next (st.modLink link fun l => { l with dups := l.dups + 1 })

/-- A write or message to another module (R118, R505): it takes the next sequence number of its source agent and destination module and
goes on the link that firmware's table selects, or the next working one. No instruction of the spec names another module, so this is
the link layer's rule alone (log entry 62). -/
def State.sendRemote (st : State) (t : ThreadId) (source dest : Nat) (d : LinkData) : State :=
  let (id, st) := st.freshId
  let seq := (st.seqOut.get? (source, dest)).getD 0 + 1#32
  let first := Config.linkTable dest % 96
  let link := (((List.range 96).map fun i => (first + i) % 96).find? fun n => !(st.link n).failed).getD first
  { st with seqOut := st.seqOut.set (source, dest) seq, remotes := st.remotes ++ [⟨id, t, dest, link, ⟨source, seq, d⟩, st.now, false⟩] }

/-- Settles every job of a partition whose open phase may have reached its global stop (R506). -/
def State.settleJobs (st : State) (part : Nat) : State :=
  ((st.part part).jobs.map (·.1)).foldl (fun (st : State) j => st.settlePhase part j) st

/-- REMOTE_WRITE_ACK (R118): a remote write has been performed at its visibility point. -/
def execRemoteWriteAck (link id : Nat) (st : State) : Host.Outcome State Fault Refusal :=
  match st.remotes.find? fun r => r.id = id ∧ r.link = link ∧ !r.lost with
  | none => .next st
  | some r => .next (({ st with remotes := st.remotes.filter (·.id ≠ id) }).settleJobs r.thread.tile.part)

/-- FLIT_CRC_FAIL (R482): the flit in flight fails its CRC, and is retransmitted up to 8 times. -/
def execFlitCrcFail (link : Nat) (st : State) : Host.Outcome State Fault Refusal :=
  if (st.link link).failed then .next st else .next (st.modLink link fun l => { l with retries := min 9 (l.retries + 1) })

/-- The working links, from the one after a link on in ascending number, wrapping (R505). -/
def State.nextLink (st : State) (link : Nat) : Option Nat :=
  ((List.range 95).map fun i => (link + 1 + i) % 96).find? fun n => !(st.link n).failed

/-- A link has failed (R119, R505): what it has not seen acknowledged is sent again, in order, on the next working plane. -/
def State.failLink (st : State) (link : Nat) : State :=
  let st := st.modLink link fun l => { l with failed := true }
  match st.nextLink link with
  | none => st
  | some n => { st with remotes := st.remotes.map fun r => if r.link = link then { r with link := n } else r }

/-- LINK_RETRAIN (R482): once all 8 retransmissions have failed, the link retrains with the lanes that work: all 8, 4 at half rate, or it
fails. -/
def execLinkRetrain (link lanes : Nat) (st : State) : Host.Outcome State Fault Refusal :=
  let l := st.link link
  if l.failed ∨ l.retries < 9 then .next st
  else if lanes < 4 then .next (st.failLink link)
  else .next (st.modLink link fun l => { l with retries := 0, narrow := decide (lanes < 8) })

/-- LINK_FAILURE (R119): a link fails. -/
def execLinkFailure (link : Nat) (st : State) : Host.Outcome State Fault Refusal :=
  if (st.link link).failed then .next st else .next (st.failLink link)

/-- REMOTE_WRITE_ABANDON (R483): a write without acknowledgement or path for 100 ms; its launch completes FAULTED with detail 4. -/
def execRemoteWriteAbandon (id : Nat) (st : State) : Host.Outcome State Fault Refusal :=
  match st.remotes.find? fun r => r.id = id ∧ !r.lost with
  | none => .next st
  | some r =>
    if !(st.link r.link).failed ∨ st.now < r.time + 100000000 then .next st
    else
      let st := { st with remotes := st.remotes.map fun (x : Remote) => if x.id = id then { x with lost := true } else x }
      let t := r.thread.tile
      .next ((st.failLaunch t.part t.slot 4 none).settleLaunch t.part t.slot)

/-! ## Source routes (R488) -/

/-- The berth one hop from another: 0 east, 1 south, 2 west, 3 north. -/
def hop (b dir : Nat) : Option Nat :=
  let x := b % 72
  let y := b / 72
  match dir with
  | 0 => if x < 71 then some (b + 1) else none
  | 1 => if y < 69 then some (b + 72) else none
  | 2 => if 0 < x then some (b - 1) else none
  | _ => if 0 < y then some (b - 72) else none

/-- The directions of the XY route between two berths. -/
def xySteps (src dst : Nat) : List Nat :=
  let sx := src % 72
  let sy := src / 72
  let dx := dst % 72
  let dy := dst / 72
  List.replicate (dx - sx) 0 ++ List.replicate (sx - dx) 2 ++ List.replicate (dy - sy) 1 ++ List.replicate (sy - dy) 3

/-- The berths along some directions from one on, itself included. -/
def walkSteps (b : Nat) : List Nat → List Nat
  | [] => [b]
  | d :: ds => match hop b d with
    | some c => b :: walkSteps c ds
    | none => [b]

/-- The berths by their distance from a destination, over paths that avoid the holes: each ring from the one before. -/
def ringsFrom (holes : List Nat) : Nat → List Nat → List Nat → List (List Nat)
  | 0, _, _ => []
  | n + 1, seen, ring =>
    if ring.isEmpty then []
    else
      let next := ((ring.flatMap fun b => (List.range 4).filterMap (hop b)).filter fun c => !seen.contains c && !holes.contains c).eraseDups
      ring :: ringsFrom holes n (seen ++ next) next

/-- The least directions from a berth down the rings to the destination. -/
def descend : List (List Nat) → Nat → List Nat
  | [], _ => []
  | ring :: inner, b =>
    match (List.range 4).find? fun d => match hop b d with
      | some c => ring.contains c
      | none => false with
    | some d => d :: descend inner ((hop b d).getD b)
    | none => []

/-- The directions of the route between two berths (R488): the XY route when it crosses no hole, else the shortest path that avoids
every hole, the least in the order east, south, west, north; none when no path reaches. -/
def routeSteps (holes : List Nat) (src dst : Nat) : Option (List Nat) :=
  let xy := xySteps src dst
  if (walkSteps src xy).all fun b => !holes.contains b then some xy
  else if holes.contains dst ∨ holes.contains src then none
  else
    let rings := ringsFrom holes 5040 [dst] [dst]
    match rings.findIdx? fun r => r.contains src with
    | none => none
    | some n => some (descend (rings.take n).reverse src)

/-- The legs of some directions: each with its length. -/
def legsOf : List Nat → List (Nat × Nat)
  | [] => []
  | d :: ds => match legsOf ds with
    | (e, n) :: rest => if e = d then (e, n + 1) :: rest else (d, 1) :: (e, n) :: rest
    | [] => [(d, 1)]

/-- A route as the interface's table holds it (R488). -/
def routeWord (steps : List Nat) : BitVec 64 :=
  let legs := legsOf steps
  BitVec.ofNat 64 (legs.length * 2 ^ 60 + (legs.zipIdx.map fun l => (l.1.1 * 128 + l.1.2) * 2 ^ (9 * l.2)).foldl (· + ·) 0)

/-- Whether the traffic of a launch has a route through a berth: a tile stands there, or the route between two of its tiles crosses it. -/
def State.routesThrough (st : State) (part slot berth : Nat) : Bool :=
  let bs := (st.tilesOf part slot).filterMap fun e => e.2.berth
  bs.any fun a => a == berth || bs.any fun b => match routeSteps st.holes a b with
    | some s => (walkSteps a s).contains berth
    | none => false

/-- ROUTER_FAILURE (R488): every launch whose traffic has a route through the router is cancelled as a faulted one, and the router is
entered in the defect map at the next boot. -/
def execRouterFailure (berth : Nat) (st : State) : Host.Outcome State Fault Refusal :=
  let hit := (st.launches.filter fun e => st.routesThrough e.1.1 e.1.2 berth).map (·.1)
  let st := { st with boot := { st.boot with failed := st.boot.failed ++ [(2, berth)] } }
  .next (hit.foldl (fun (st : State) l => (st.failLaunch l.1 l.2 (Config.routerDetail + 1) none).settleLaunch l.1 l.2) st)

/-! ## The queues of the quay tiles (R109) -/

/-- QUAY_TILE_QUEUE_COMPLETION (Table 3.5): a quay tile's command completes, and its ranges are released. -/
def execQuayTileQueueCompletion (id : Nat) (st : State) : Host.Outcome State Fault Refusal :=
  match st.quay.find? (·.1 = id) with
  | none => .next st
  | some c => .next (({ st with quay := st.quay.filter (·.1 ≠ id) }).release c.2)

end Sys2Proof.Machine
end

