-- ==== Sys2Proof/Machine/VecInstr.lean ====
section
/-! DEFINITION. The vector instructions of majors 0x31 to 0x37: each one's push (R313). -/

namespace Sys2Proof.Machine

/-- R316: Pushes an element-wise integer addition. -/
def execVadd (s : BitVec 2) (d : VReg) (a : VReg) (b : VReg) (w : VWidth) (k : KReg) (st : State) := opVec st s (.vadd s d a b w k)
/-- R316: Pushes an element-wise integer subtraction. -/
def execVsub (s : BitVec 2) (d : VReg) (a : VReg) (b : VReg) (w : VWidth) (k : KReg) (st : State) := opVec st s (.vsub s d a b w k)
/-- R316: Pushes an element-wise low-half multiplication. -/
def execVmul (s : BitVec 2) (d : VReg) (a : VReg) (b : VReg) (w : VWidth) (k : KReg) (st : State) := opVec st s (.vmul s d a b w k)
/-- R316: Pushes an element-wise signed high-half multiplication. -/
def execVmulh (s : BitVec 2) (d : VReg) (a : VReg) (b : VReg) (w : VWidth) (k : KReg) (st : State) := opVec st s (.vmulh s d a b w k)
/-- R316: Pushes an element-wise AND. -/
def execVand (s : BitVec 2) (d : VReg) (a : VReg) (b : VReg) (w : VWidth) (k : KReg) (st : State) := opVec st s (.vand s d a b w k)
/-- R316: Pushes an element-wise OR. -/
def execVor (s : BitVec 2) (d : VReg) (a : VReg) (b : VReg) (w : VWidth) (k : KReg) (st : State) := opVec st s (.vor s d a b w k)
/-- R316: Pushes an element-wise XOR. -/
def execVxor (s : BitVec 2) (d : VReg) (a : VReg) (b : VReg) (w : VWidth) (k : KReg) (st : State) := opVec st s (.vxor s d a b w k)
/-- R316: Pushes an element-wise left shift. -/
def execVsll (s : BitVec 2) (d : VReg) (a : VReg) (b : VReg) (w : VWidth) (k : KReg) (st : State) := opVec st s (.vsll s d a b w k)
/-- R316: Pushes an element-wise logical right shift. -/
def execVsrl (s : BitVec 2) (d : VReg) (a : VReg) (b : VReg) (w : VWidth) (k : KReg) (st : State) := opVec st s (.vsrl s d a b w k)
/-- R316: Pushes an element-wise arithmetic right shift. -/
def execVsra (s : BitVec 2) (d : VReg) (a : VReg) (b : VReg) (w : VWidth) (k : KReg) (st : State) := opVec st s (.vsra s d a b w k)
/-- R316: Pushes an element-wise signed minimum. -/
def execVmin (s : BitVec 2) (d : VReg) (a : VReg) (b : VReg) (w : VWidth) (k : KReg) (st : State) := opVec st s (.vmin s d a b w k)
/-- R316: Pushes an element-wise signed maximum. -/
def execVmax (s : BitVec 2) (d : VReg) (a : VReg) (b : VReg) (w : VWidth) (k : KReg) (st : State) := opVec st s (.vmax s d a b w k)
/-- R316: Pushes an element-wise unsigned minimum. -/
def execVminn (s : BitVec 2) (d : VReg) (a : VReg) (b : VReg) (w : VWidth) (k : KReg) (st : State) := opVec st s (.vminn s d a b w k)
/-- R316: Pushes an element-wise unsigned maximum. -/
def execVmaxn (s : BitVec 2) (d : VReg) (a : VReg) (b : VReg) (w : VWidth) (k : KReg) (st : State) := opVec st s (.vmaxn s d a b w k)
/-- R316: Pushes an element-wise saturating signed addition. -/
def execVadds (s : BitVec 2) (d : VReg) (a : VReg) (b : VReg) (w : VWidth) (k : KReg) (st : State) := opVec st s (.vadds s d a b w k)
/-- R316: Pushes an element-wise saturating signed subtraction. -/
def execVsubs (s : BitVec 2) (d : VReg) (a : VReg) (b : VReg) (w : VWidth) (k : KReg) (st : State) := opVec st s (.vsubs s d a b w k)
/-- R317: Pushes an element-wise FP addition. -/
def execVfadd (s : BitVec 2) (d : VReg) (a : VReg) (b : VReg) (w : FWidth) (k : KReg) (st : State) := opVec st s (.vfadd s d a b w k)
/-- R317: Pushes an element-wise FP subtraction. -/
def execVfsub (s : BitVec 2) (d : VReg) (a : VReg) (b : VReg) (w : FWidth) (k : KReg) (st : State) := opVec st s (.vfsub s d a b w k)
/-- R317: Pushes an element-wise FP multiplication. -/
def execVfmul (s : BitVec 2) (d : VReg) (a : VReg) (b : VReg) (w : FWidth) (k : KReg) (st : State) := opVec st s (.vfmul s d a b w k)
/-- R317: Pushes an element-wise fused multiply-add into vd. -/
def execVffma (s : BitVec 2) (d : VReg) (a : VReg) (b : VReg) (w : FWidth) (k : KReg) (st : State) := opVec st s (.vffma s d a b w k)
/-- R317: Pushes an element-wise fused multiply-subtract of vd. -/
def execVffms (s : BitVec 2) (d : VReg) (a : VReg) (b : VReg) (w : FWidth) (k : KReg) (st : State) := opVec st s (.vffms s d a b w k)
/-- R317: Pushes an element-wise FP minimum. -/
def execVfmin (s : BitVec 2) (d : VReg) (a : VReg) (b : VReg) (w : FWidth) (k : KReg) (st : State) := opVec st s (.vfmin s d a b w k)
/-- R317: Pushes an element-wise FP maximum. -/
def execVfmax (s : BitVec 2) (d : VReg) (a : VReg) (b : VReg) (w : FWidth) (k : KReg) (st : State) := opVec st s (.vfmax s d a b w k)
/-- R317: Pushes an element-wise FP division. -/
def execVfdiv (s : BitVec 2) (d : VReg) (a : VReg) (b : VReg) (w : FWidth) (k : KReg) (st : State) := opVec st s (.vfdiv s d a b w k)
/-- R317: Pushes an element-wise FP square root. -/
def execVfsqrt (s : BitVec 2) (d : VReg) (a : VReg) (w : FWidth) (k : KReg) (st : State) := opVec st s (.vfsqrt s d a w k)
/-- R317: Pushes an element-wise clear of the sign bit. -/
def execVfabs (s : BitVec 2) (d : VReg) (a : VReg) (w : FWidth) (k : KReg) (st : State) := opVec st s (.vfabs s d a w k)
/-- R317: Pushes an element-wise inversion of the sign bit. -/
def execVfneg (s : BitVec 2) (d : VReg) (a : VReg) (w : FWidth) (k : KReg) (st : State) := opVec st s (.vfneg s d a w k)
/-- R317: Pushes an element-wise correctly rounded exp2. -/
def execVfexp2 (s : BitVec 2) (d : VReg) (a : VReg) (w : FWidth) (k : KReg) (st : State) := opVec st s (.vfexp2 s d a w k)
/-- R317: Pushes an element-wise correctly rounded log2. -/
def execVflog2 (s : BitVec 2) (d : VReg) (a : VReg) (w : FWidth) (k : KReg) (st : State) := opVec st s (.vflog2 s d a w k)
/-- R317: Pushes an element-wise correctly rounded reciprocal. -/
def execVfrcp (s : BitVec 2) (d : VReg) (a : VReg) (w : FWidth) (k : KReg) (st : State) := opVec st s (.vfrcp s d a w k)
/-- R317: Pushes an element-wise correctly rounded reciprocal square root. -/
def execVfrsqrt (s : BitVec 2) (d : VReg) (a : VReg) (w : FWidth) (k : KReg) (st : State) := opVec st s (.vfrsqrt s d a w k)
/-- R318: Pushes a write of X[b] to every active slot of vd. -/
def execVsplat (s : BitVec 2) (d : VReg) (b : XField) (k : KReg) (st : State) := opVec st s (.vsplat s d b k)
/-- R318: Pushes a write of X[b] to one slot of vd. -/
def execVins (s : BitVec 2) (d : VReg) (i : BitVec 5) (b : XField) (j : BitVec 3) (st : State) := opVec st s (.vins s d i b j)
/-- R320: Pushes a packed contiguous vector load. -/
def execVld (s : BitVec 2) (d : VReg) (l : LEntry) (c : XField) (k : KReg) (st : State) := opVmem st s (.vld s d l c k) ⟨0, d, l, c, k⟩
/-- R320: Pushes a packed contiguous vector store. -/
def execVst (s : BitVec 2) (d : VReg) (l : LEntry) (c : XField) (k : KReg) (st : State) := opVmem st s (.vst s d l c k) ⟨1, d, l, c, k⟩
/-- R320: Pushes a strided single-element vector load. -/
def execVlds (s : BitVec 2) (d : VReg) (l : LEntry) (c : XField) (k : KReg) (st : State) := opVmem st s (.vlds s d l c k) ⟨2, d, l, c, k⟩
/-- R320: Pushes a strided single-element vector store. -/
def execVsts (s : BitVec 2) (d : VReg) (l : LEntry) (c : XField) (k : KReg) (st : State) := opVmem st s (.vsts s d l c k) ⟨3, d, l, c, k⟩
/-- R320: Pushes an indexed gather. -/
def execVgath (s : BitVec 2) (d : VReg) (l : LEntry) (c : XField) (k : KReg) (st : State) := opVmem st s (.vgath s d l c k) ⟨4, d, l, c, k⟩
/-- R320: Pushes an indexed scatter. -/
def execVscat (s : BitVec 2) (d : VReg) (l : LEntry) (c : XField) (k : KReg) (st : State) := opVmem st s (.vscat s d l c k) ⟨5, d, l, c, k⟩
/-- R322: Pushes a pop of VL stream elements into vd. -/
def execVpop (s : BitVec 2) (d : VReg) (m : BitVec 3) (k : KReg) (st : State) := opVec st s (.vpop s d m k)
/-- R322: Pushes a push of VL slots of vd into a write stream. -/
def execVpush (s : BitVec 2) (d : VReg) (m : BitVec 3) (st : State) := opVec st s (.vpush s d m)
/-- R323: Pushes an integer tree reduction into slot 0 of vd. -/
def execVrsum (s : BitVec 2) (d : VReg) (a : VReg) (b : VReg) (k : KReg) (st : State) := opVec st s (.vrsum s d a b k)
/-- R323: Pushes an FP32 fixed-tree sum into slot 0 of vd. -/
def execVrfsum (s : BitVec 2) (d : VReg) (a : VReg) (b : VReg) (k : KReg) (st : State) := opVec st s (.vrfsum s d a b k)
/-- R323: Pushes a signed minimum reduction. -/
def execVrmin (s : BitVec 2) (d : VReg) (a : VReg) (b : VReg) (k : KReg) (st : State) := opVec st s (.vrmin s d a b k)
/-- R323: Pushes a signed maximum reduction. -/
def execVrmax (s : BitVec 2) (d : VReg) (a : VReg) (b : VReg) (k : KReg) (st : State) := opVec st s (.vrmax s d a b k)
/-- R323: Pushes an FP minimum reduction. -/
def execVrfmin (s : BitVec 2) (d : VReg) (a : VReg) (b : VReg) (k : KReg) (st : State) := opVec st s (.vrfmin s d a b k)
/-- R323: Pushes an FP maximum reduction. -/
def execVrfmax (s : BitVec 2) (d : VReg) (a : VReg) (b : VReg) (k : KReg) (st : State) := opVec st s (.vrfmax s d a b k)
/-- R325: Packs L6 codes four to three bytes. -/
def execVpackl6 (s : BitVec 2) (d : VReg) (a : VReg) (st : State) := opVec st s (.vpackl6 s d a)
/-- R325: Unpacks packed L6 bytes to one code per byte. -/
def execVunpkl6 (s : BitVec 2) (d : VReg) (a : VReg) (st : State) := opVec st s (.vunpkl6 s d a)
/-- R326: Quantises FP32 blocks of 32 to L6 codes and scales. -/
def execVquant (s : BitVec 2) (d : VReg) (a : VReg) (st : State) := opVec st s (.vquant s d a)
/-- R326: Dequantises L6 codes with block scales to FP32. -/
def execVdeq (s : BitVec 2) (d : VReg) (a : VReg) (b : VReg) (st : State) := opVec st s (.vdeq s d a b)
/-- R327: Converts FP32 slots to BF16 elements. -/
def execVcvtbf (s : BitVec 2) (d : VReg) (a : VReg) (st : State) := opVec st s (.vcvtbf s d a)
/-- R327: Widens BF16 elements to FP32 slots. -/
def execVcvtf (s : BitVec 2) (d : VReg) (a : VReg) (st : State) := opVec st s (.vcvtf s d a)
/-- R328: Adds two L6 blocks and requantises each block. -/
def execBaddq (s : BitVec 2) (d : VReg) (a : VReg) (b : VReg) (st : State) := opVec st s (.baddq s d a b)
/-- R329: Permutes slots of va by indices in vb. -/
def execVpermv (s : BitVec 2) (d : VReg) (a : VReg) (b : VReg) (k : KReg) (st : State) := opVec st s (.vpermv s d a b k)
/-- R329: Slides slots up by an amount. -/
def execVslup (s : BitVec 2) (d : VReg) (a : VReg) (n : BitVec 5) (k : KReg) (st : State) := opVec st s (.vslup s d a n k)
/-- R329: Slides slots down by an amount. -/
def execVsldn (s : BitVec 2) (d : VReg) (a : VReg) (n : BitVec 5) (k : KReg) (st : State) := opVec st s (.vsldn s d a n k)
/-- R329: Merges va and vb under a mask. -/
def execVmerge (s : BitVec 2) (d : VReg) (a : VReg) (b : VReg) (k : KReg) (st : State) := opVec st s (.vmerge s d a b k)
/-- R329: ANDs two mask registers. -/
def execVkand (s : BitVec 2) (d : BitVec 3) (a : BitVec 3) (b : BitVec 3) (st : State) := opVec st s (.vkand s d a b)
/-- R329: ORs two mask registers. -/
def execVkor (s : BitVec 2) (d : BitVec 3) (a : BitVec 3) (b : BitVec 3) (st : State) := opVec st s (.vkor s d a b)
/-- R329: XORs two mask registers. -/
def execVkxor (s : BitVec 2) (d : BitVec 3) (a : BitVec 3) (b : BitVec 3) (st : State) := opVec st s (.vkxor s d a b)
/-- R329: Inverts a mask register. -/
def execVknot (s : BitVec 2) (d : BitVec 3) (a : BitVec 3) (st : State) := opVec st s (.vknot s d a)
/-- R330: Compares 32-bit slots into a mask register by one of eight conditions. -/
def execVcmp (s : BitVec 2) (d : BitVec 3) (a : VReg) (b : VReg) (c : VCond) (k : KReg) (st : State) := opVec st s (.vcmp s d a b c k)

end Sys2Proof.Machine
end

