-- ==== Sys2Proof/Machine/Dispatch.lean ====
section
/-! DEFINITION. The dispatch of an instruction, host command or event to its meaning: one arm per constructor. -/

namespace Sys2Proof.Machine

/-- The meaning of one instruction, host command or event. -/
def exec (i : Instr) (s : State) : Host.Outcome State Fault Refusal :=
  match i with
  | .add stall d a b => Sys2Proof.Machine.execAdd stall d a b s
  | .sub stall d a b => Sys2Proof.Machine.execSub stall d a b s
  | .and stall d a b => Sys2Proof.Machine.execAnd stall d a b s
  | .or stall d a b => Sys2Proof.Machine.execOr stall d a b s
  | .xor stall d a b => Sys2Proof.Machine.execXor stall d a b s
  | .andn stall d a b => Sys2Proof.Machine.execAndn stall d a b s
  | .slt stall d a b => Sys2Proof.Machine.execSlt stall d a b s
  | .sltn stall d a b => Sys2Proof.Machine.execSltn stall d a b s
  | .sll stall d a b => Sys2Proof.Machine.execSll stall d a b s
  | .srl stall d a b => Sys2Proof.Machine.execSrl stall d a b s
  | .sra stall d a b => Sys2Proof.Machine.execSra stall d a b s
  | .min stall d a b => Sys2Proof.Machine.execMin stall d a b s
  | .max stall d a b => Sys2Proof.Machine.execMax stall d a b s
  | .minn stall d a b => Sys2Proof.Machine.execMinn stall d a b s
  | .maxn stall d a b => Sys2Proof.Machine.execMaxn stall d a b s
  | .rotr stall d a b => Sys2Proof.Machine.execRotr stall d a b s
  | .mul stall d a b => Sys2Proof.Machine.execMul stall d a b s
  | .mulh stall d a b => Sys2Proof.Machine.execMulh stall d a b s
  | .mulhn stall d a b => Sys2Proof.Machine.execMulhn stall d a b s
  | .mac stall d a b => Sys2Proof.Machine.execMac stall d a b s
  | .div stall d a b => Sys2Proof.Machine.execDiv stall d a b s
  | .divn stall d a b => Sys2Proof.Machine.execDivn stall d a b s
  | .rem stall d a b => Sys2Proof.Machine.execRem stall d a b s
  | .remn stall d a b => Sys2Proof.Machine.execRemn stall d a b s
  | .clz stall d a => Sys2Proof.Machine.execClz stall d a s
  | .ctz stall d a => Sys2Proof.Machine.execCtz stall d a s
  | .popc stall d a => Sys2Proof.Machine.execPopc stall d a s
  | .brev stall d a => Sys2Proof.Machine.execBrev stall d a s
  | .extr stall d a b => Sys2Proof.Machine.execExtr stall d a b s
  | .ins stall d a b => Sys2Proof.Machine.execIns stall d a b s
  | .bswap stall d a => Sys2Proof.Machine.execBswap stall d a s
  | .addi stall d a imm => Sys2Proof.Machine.execAddi stall d a imm s
  | .andi stall d a imm => Sys2Proof.Machine.execAndi stall d a imm s
  | .ori stall d a imm => Sys2Proof.Machine.execOri stall d a imm s
  | .xori stall d a imm => Sys2Proof.Machine.execXori stall d a imm s
  | .slli stall d a k => Sys2Proof.Machine.execSlli stall d a k s
  | .srli stall d a k => Sys2Proof.Machine.execSrli stall d a k s
  | .srai stall d a k => Sys2Proof.Machine.execSrai stall d a k s
  | .rotri stall d a k => Sys2Proof.Machine.execRotri stall d a k s
  | .slti stall d a imm => Sys2Proof.Machine.execSlti stall d a imm s
  | .sltni stall d a imm => Sys2Proof.Machine.execSltni stall d a imm s
  | .li stall d imm => Sys2Proof.Machine.execLi stall d imm s
  | .sel stall d a b p => Sys2Proof.Machine.execSel stall d a b p s
  | .pcmp stall g c p a b => Sys2Proof.Machine.execPcmp stall g c p a b s
  | .pcmpi stall g c p a imm => Sys2Proof.Machine.execPcmpi stall g c p a imm s
  | .beq stall a b o => Sys2Proof.Machine.execBeq stall a b o s
  | .bne stall a b o => Sys2Proof.Machine.execBne stall a b o s
  | .blt stall a b o => Sys2Proof.Machine.execBlt stall a b o s
  | .bge stall a b o => Sys2Proof.Machine.execBge stall a b o s
  | .bltn stall a b o => Sys2Proof.Machine.execBltn stall a b o s
  | .bgen stall a b o => Sys2Proof.Machine.execBgen stall a b o s
  | .bp stall p n o => Sys2Proof.Machine.execBp stall p n o s
  | .jal stall o => Sys2Proof.Machine.execJal stall o s
  | .jalr stall d a imm => Sys2Proof.Machine.execJalr stall d a imm s
  | .loop stall a b o => Sys2Proof.Machine.execLoop stall a b o s
  | .fadd stall d a b => Sys2Proof.Machine.execFadd stall d a b s
  | .fsub stall d a b => Sys2Proof.Machine.execFsub stall d a b s
  | .fmul stall d a b => Sys2Proof.Machine.execFmul stall d a b s
  | .fmin stall d a b => Sys2Proof.Machine.execFmin stall d a b s
  | .fmax stall d a b => Sys2Proof.Machine.execFmax stall d a b s
  | .fdiv stall d a b => Sys2Proof.Machine.execFdiv stall d a b s
  | .fsqrt stall d a => Sys2Proof.Machine.execFsqrt stall d a s
  | .fsgn stall d a b => Sys2Proof.Machine.execFsgn stall d a b s
  | .ffma stall d a b => Sys2Proof.Machine.execFfma stall d a b s
  | .ffms stall d a b => Sys2Proof.Machine.execFfms stall d a b s
  | .fcvtfi stall d a => Sys2Proof.Machine.execFcvtfi stall d a s
  | .fcvtif stall d a => Sys2Proof.Machine.execFcvtif stall d a s
  | .fcvtifz stall d a => Sys2Proof.Machine.execFcvtifz stall d a s
  | .fclass stall d a => Sys2Proof.Machine.execFclass stall d a s
  | .fbf stall d a => Sys2Proof.Machine.execFbf stall d a s
  | .fbfx stall d a => Sys2Proof.Machine.execFbfx stall d a s
  | .feq stall d a b => Sys2Proof.Machine.execFeq stall d a b s
  | .flt stall d a b => Sys2Proof.Machine.execFlt stall d a b s
  | .fle stall d a b => Sys2Proof.Machine.execFle stall d a b s
  | .funord stall d a b => Sys2Proof.Machine.execFunord stall d a b s
  | .sfunExp2 stall d a => Sys2Proof.Machine.execSfunExp2 stall d a s
  | .sfunLog2 stall d a => Sys2Proof.Machine.execSfunLog2 stall d a s
  | .sfunRcp stall d a => Sys2Proof.Machine.execSfunRcp stall d a s
  | .sfunRsqrt stall d a => Sys2Proof.Machine.execSfunRsqrt stall d a s
  | .sfunSinpi stall d a => Sys2Proof.Machine.execSfunSinpi stall d a s
  | .sfunCospi stall d a => Sys2Proof.Machine.execSfunCospi stall d a s
  | .sfunTanh stall d a => Sys2Proof.Machine.execSfunTanh stall d a s
  | .sfunSigmoid stall d a => Sys2Proof.Machine.execSfunSigmoid stall d a s
  | .pref stall d a b => Sys2Proof.Machine.execPref stall d a b s
  | .tclass stall d a b => Sys2Proof.Machine.execTclass stall d a b s
  | .brhint stall d a b => Sys2Proof.Machine.execBrhint stall d a b s
  | .hintFallback stall d a b f hi => Sys2Proof.Machine.execHintFallback stall d a b f hi s
  | .ld stall d c l m z o => Sys2Proof.Machine.execLd stall d c l m z o s
  | .st stall d c l o => Sys2Proof.Machine.execSt stall d c l o s
  | .amoRlx stall d c l op => Sys2Proof.Machine.execAmoRlx stall d c l op s
  | .amoAcq stall d c l op => Sys2Proof.Machine.execAmoAcq stall d c l op s
  | .amoRel stall d c l op => Sys2Proof.Machine.execAmoRel stall d c l op s
  | .amoAr stall d c l op => Sys2Proof.Machine.execAmoAr stall d c l op s
  | .fenceFull stall q => Sys2Proof.Machine.execFenceFull stall q s
  | .fenceAcq stall q => Sys2Proof.Machine.execFenceAcq stall q s
  | .fenceRel stall q => Sys2Proof.Machine.execFenceRel stall q s
  | .fenceAlias stall q => Sys2Proof.Machine.execFenceAlias stall q s
  | .send stall d c l w => Sys2Proof.Machine.execSend stall d c l w s
  | .sendRel stall d c l w => Sys2Proof.Machine.execSendRel stall d c l w s
  | .recv stall d l w => Sys2Proof.Machine.execRecv stall d l w s
  | .recvAcq stall d l w => Sys2Proof.Machine.execRecvAcq stall d l w s
  | .cpy stall d c => Sys2Proof.Machine.execCpy stall d c s
  | .sbindR stall m c l => Sys2Proof.Machine.execSbindR stall m c l s
  | .sbindW stall m c l => Sys2Proof.Machine.execSbindW stall m c l s
  | .sctlUnbind stall m => Sys2Proof.Machine.execSctlUnbind stall m s
  | .sctlPos stall d m => Sys2Proof.Machine.execSctlPos stall d m s
  | .barCore stall a => Sys2Proof.Machine.execBarCore stall a s
  | .barTile stall a => Sys2Proof.Machine.execBarTile stall a s
  | .barGrid stall => Sys2Proof.Machine.execBarGrid stall s
  | .gaddr stall d c l => Sys2Proof.Machine.execGaddr stall d c l s
  | .illegal w => Sys2Proof.Machine.execIllegal w s
  | .vclaim stall d a => Sys2Proof.Machine.execVclaim stall d a s
  | .vyield stall => Sys2Proof.Machine.execVyield stall s
  | .vreneg stall d a => Sys2Proof.Machine.execVreneg stall d a s
  | .vadd stall d a b w k => Sys2Proof.Machine.execVadd stall d a b w k s
  | .vsub stall d a b w k => Sys2Proof.Machine.execVsub stall d a b w k s
  | .vmul stall d a b w k => Sys2Proof.Machine.execVmul stall d a b w k s
  | .vmulh stall d a b w k => Sys2Proof.Machine.execVmulh stall d a b w k s
  | .vand stall d a b w k => Sys2Proof.Machine.execVand stall d a b w k s
  | .vor stall d a b w k => Sys2Proof.Machine.execVor stall d a b w k s
  | .vxor stall d a b w k => Sys2Proof.Machine.execVxor stall d a b w k s
  | .vsll stall d a b w k => Sys2Proof.Machine.execVsll stall d a b w k s
  | .vsrl stall d a b w k => Sys2Proof.Machine.execVsrl stall d a b w k s
  | .vsra stall d a b w k => Sys2Proof.Machine.execVsra stall d a b w k s
  | .vmin stall d a b w k => Sys2Proof.Machine.execVmin stall d a b w k s
  | .vmax stall d a b w k => Sys2Proof.Machine.execVmax stall d a b w k s
  | .vminn stall d a b w k => Sys2Proof.Machine.execVminn stall d a b w k s
  | .vmaxn stall d a b w k => Sys2Proof.Machine.execVmaxn stall d a b w k s
  | .vadds stall d a b w k => Sys2Proof.Machine.execVadds stall d a b w k s
  | .vsubs stall d a b w k => Sys2Proof.Machine.execVsubs stall d a b w k s
  | .vfadd stall d a b w k => Sys2Proof.Machine.execVfadd stall d a b w k s
  | .vfsub stall d a b w k => Sys2Proof.Machine.execVfsub stall d a b w k s
  | .vfmul stall d a b w k => Sys2Proof.Machine.execVfmul stall d a b w k s
  | .vffma stall d a b w k => Sys2Proof.Machine.execVffma stall d a b w k s
  | .vffms stall d a b w k => Sys2Proof.Machine.execVffms stall d a b w k s
  | .vfmin stall d a b w k => Sys2Proof.Machine.execVfmin stall d a b w k s
  | .vfmax stall d a b w k => Sys2Proof.Machine.execVfmax stall d a b w k s
  | .vfdiv stall d a b w k => Sys2Proof.Machine.execVfdiv stall d a b w k s
  | .vfsqrt stall d a w k => Sys2Proof.Machine.execVfsqrt stall d a w k s
  | .vfabs stall d a w k => Sys2Proof.Machine.execVfabs stall d a w k s
  | .vfneg stall d a w k => Sys2Proof.Machine.execVfneg stall d a w k s
  | .vfexp2 stall d a w k => Sys2Proof.Machine.execVfexp2 stall d a w k s
  | .vflog2 stall d a w k => Sys2Proof.Machine.execVflog2 stall d a w k s
  | .vfrcp stall d a w k => Sys2Proof.Machine.execVfrcp stall d a w k s
  | .vfrsqrt stall d a w k => Sys2Proof.Machine.execVfrsqrt stall d a w k s
  | .vsplat stall d b k => Sys2Proof.Machine.execVsplat stall d b k s
  | .vextr stall imm a b j => Sys2Proof.Machine.execVextr stall imm a b j s
  | .vins stall d imm b j => Sys2Proof.Machine.execVins stall d imm b j s
  | .vgaddr stall d a b k => Sys2Proof.Machine.execVgaddr stall d a b k s
  | .vld stall d l c k => Sys2Proof.Machine.execVld stall d l c k s
  | .vst stall d l c k => Sys2Proof.Machine.execVst stall d l c k s
  | .vlds stall d l c k => Sys2Proof.Machine.execVlds stall d l c k s
  | .vsts stall d l c k => Sys2Proof.Machine.execVsts stall d l c k s
  | .vgath stall d l c k => Sys2Proof.Machine.execVgath stall d l c k s
  | .vscat stall d l c k => Sys2Proof.Machine.execVscat stall d l c k s
  | .vpop stall d m k => Sys2Proof.Machine.execVpop stall d m k s
  | .vpush stall d m => Sys2Proof.Machine.execVpush stall d m s
  | .vrsum stall d a b k => Sys2Proof.Machine.execVrsum stall d a b k s
  | .vrfsum stall d a b k => Sys2Proof.Machine.execVrfsum stall d a b k s
  | .vrmin stall d a b k => Sys2Proof.Machine.execVrmin stall d a b k s
  | .vrmax stall d a b k => Sys2Proof.Machine.execVrmax stall d a b k s
  | .vrfmin stall d a b k => Sys2Proof.Machine.execVrfmin stall d a b k s
  | .vrfmax stall d a b k => Sys2Proof.Machine.execVrfmax stall d a b k s
  | .vrecvadd stall d n => Sys2Proof.Machine.execVrecvadd stall d n s
  | .vpackl6 stall d a => Sys2Proof.Machine.execVpackl6 stall d a s
  | .vunpkl6 stall d a => Sys2Proof.Machine.execVunpkl6 stall d a s
  | .vquant stall d a => Sys2Proof.Machine.execVquant stall d a s
  | .vdeq stall d a b => Sys2Proof.Machine.execVdeq stall d a b s
  | .vcvtbf stall d a => Sys2Proof.Machine.execVcvtbf stall d a s
  | .vcvtf stall d a => Sys2Proof.Machine.execVcvtf stall d a s
  | .baddq stall d a b => Sys2Proof.Machine.execBaddq stall d a b s
  | .vpermv stall d a b k => Sys2Proof.Machine.execVpermv stall d a b k s
  | .vslup stall d a n k => Sys2Proof.Machine.execVslup stall d a n k s
  | .vsldn stall d a n k => Sys2Proof.Machine.execVsldn stall d a n k s
  | .vmerge stall d a b k => Sys2Proof.Machine.execVmerge stall d a b k s
  | .vkand stall d a b => Sys2Proof.Machine.execVkand stall d a b s
  | .vkor stall d a b => Sys2Proof.Machine.execVkor stall d a b s
  | .vkxor stall d a b => Sys2Proof.Machine.execVkxor stall d a b s
  | .vknot stall d a => Sys2Proof.Machine.execVknot stall d a s
  | .vcmp stall d a b c k => Sys2Proof.Machine.execVcmp stall d a b c k s
  | .repf stall d n x y z => Sys2Proof.Machine.execRepf stall d n x y z s
  | .mlease stall => Sys2Proof.Machine.execMlease stall s
  | .mleaseRel stall => Sys2Proof.Machine.execMleaseRel stall s
  | .mloads stall x l p => Sys2Proof.Machine.execMloads stall x l p s
  | .mloadsFb stall b t => Sys2Proof.Machine.execMloadsFb stall b t s
  | .mswap stall => Sys2Proof.Machine.execMswap stall s
  | .mma stall d x m l z c p => Sys2Proof.Machine.execMma stall d x m l z c p s
  | .mmaFb stall d b x z t => Sys2Proof.Machine.execMmaFb stall d b x z t s
  | .miterNs3 stall d x n => Sys2Proof.Machine.execMiterNs3 stall d x n s
  | .miterNs5 stall d x n => Sys2Proof.Machine.execMiterNs5 stall d x n s
  | .miterInv stall d b x n => Sys2Proof.Machine.execMiterInv stall d b x n s
  | .mpoly stall d x n => Sys2Proof.Machine.execMpoly stall d x n s
  | .mzero stall d => Sys2Proof.Machine.execMzero stall d s
  | .mdrain stall d x m z t h u => Sys2Proof.Machine.execMdrain stall d x m z t h u s
  | .mtov stall d x t h => Sys2Proof.Machine.execMtov stall d x t h s
  | .mcoef stall n x => Sys2Proof.Machine.execMcoef stall n x s
  | .mcoefR stall n x => Sys2Proof.Machine.execMcoefR stall n x s
  | .mstatWait stall x => Sys2Proof.Machine.execMstatWait stall x s
  | .mstatGrp stall x => Sys2Proof.Machine.execMstatGrp stall x s
  | .mstatPlane stall x => Sys2Proof.Machine.execMstatPlane stall x s
  | .mstatCmds stall x => Sys2Proof.Machine.execMstatCmds stall x s
  | .macca stall n => Sys2Proof.Machine.execMacca stall n s
  | .trap stall a => Sys2Proof.Machine.execTrap stall a s
  | .eret stall => Sys2Proof.Machine.execEret stall s
  | .csrr stall d h g => Sys2Proof.Machine.execCsrr stall d h g s
  | .csrw stall h a g => Sys2Proof.Machine.execCsrw stall h a g s
  | .tspawn stall d a => Sys2Proof.Machine.execTspawn stall d a s
  | .texit stall => Sys2Proof.Machine.execTexit stall s
  | .tyield stall => Sys2Proof.Machine.execTyield stall s
  | .taskget stall d => Sys2Proof.Machine.execTaskget stall d s
  | .taskput stall d a => Sys2Proof.Machine.execTaskput stall d a s
  | .migrate stall a => Sys2Proof.Machine.execMigrate stall a s
  | .follow stall a => Sys2Proof.Machine.execFollow stall a s
  | .unfollow stall => Sys2Proof.Machine.execUnfollow stall s
  | .symwait stall d a y => Sys2Proof.Machine.execSymwait stall d a y s
  | .symq stall d a => Sys2Proof.Machine.execSymq stall d a s
  | .time stall d g => Sys2Proof.Machine.execTime stall d g s
  | .setfmt stall d a => Sys2Proof.Machine.execSetfmt stall d a s
  | .rlwait stall a => Sys2Proof.Machine.execRlwait stall a s
  | .tlbinv stall a f u => Sys2Proof.Machine.execTlbinv stall a f u s
  | .halt stall => Sys2Proof.Machine.execHalt stall s
  | .cancelLaunch stall => Sys2Proof.Machine.execCancelLaunch stall s
  | .cancelGraph stall => Sys2Proof.Machine.execCancelGraph stall s
  | .cancelPhase stall => Sys2Proof.Machine.execCancelPhase stall s
  | .cancelJob stall => Sys2Proof.Machine.execCancelJob stall s
  | .imx imm w => Sys2Proof.Machine.execImx imm w s
  | .stallCountExpiry t => Sys2Proof.Machine.execStallCountExpiry t s
  | .fixedLatencyDelivery t => Sys2Proof.Machine.execFixedLatencyDelivery t s
  | .dispatch tile => Sys2Proof.Machine.execDispatch tile s
  | .threadKill t => Sys2Proof.Machine.execThreadKill t s
  | .levellerSample tile => Sys2Proof.Machine.execLevellerSample tile s
  | .levellerShipmentArrival item => Sys2Proof.Machine.execLevellerShipmentArrival item s
  | .migrantCreate tile => Sys2Proof.Machine.execMigrantCreate tile s
  | .fieldOffsetRelease part slot field => Sys2Proof.Machine.execFieldOffsetRelease part slot field s
  | .refreshWindowOpen berth bad => Sys2Proof.Machine.execRefreshWindowOpen berth bad s
  | .refreshWindowClose berth => Sys2Proof.Machine.execRefreshWindowClose berth s
  | .niSend berth => Sys2Proof.Machine.execNiSend berth s
  | .itemArrival item => Sys2Proof.Machine.execItemArrival item s
  | .itemReturn item => Sys2Proof.Machine.execItemReturn item s
  | .spillwayAppend tile => Sys2Proof.Machine.execSpillwayAppend tile s
  | .spillwayReplay tile => Sys2Proof.Machine.execSpillwayReplay tile s
  | .heldMessageMove tile => Sys2Proof.Machine.execHeldMessageMove tile s
  | .accessPerformed access ecc => Sys2Proof.Machine.execAccessPerformed access ecc s
  | .resultDelivery tile core entry => Sys2Proof.Machine.execResultDelivery tile core entry s
  | .peerWriteAck item => Sys2Proof.Machine.execPeerWriteAck item s
  | .combiningBufferTimeout t => Sys2Proof.Machine.execCombiningBufferTimeout t s
  | .probeEcho t group => Sys2Proof.Machine.execProbeEcho t group s
  | .registrationEnter tile reg => Sys2Proof.Machine.execRegistrationEnter tile reg s
  | .streamFetch t stream ecc => Sys2Proof.Machine.execStreamFetch t stream ecc s
  | .streamDrain t stream ecc => Sys2Proof.Machine.execStreamDrain t stream ecc s
  | .copyAccept tile queue => Sys2Proof.Machine.execCopyAccept tile queue s
  | .copyComplete tile queue => Sys2Proof.Machine.execCopyComplete tile queue s
  | .sfuStart tile => Sys2Proof.Machine.execSfuStart tile s
  | .sfuResult tile => Sys2Proof.Machine.execSfuResult tile s
  | .vectorComplete tile ctx bad => Sys2Proof.Machine.execVectorComplete tile ctx bad s
  | .leaseBudgetSpent tile => Sys2Proof.Machine.execLeaseBudgetSpent tile s
  | .planeReloadComplete tile shadow => Sys2Proof.Machine.execPlaneReloadComplete tile shadow s
  | .planeLoadComplete tile bad => Sys2Proof.Machine.execPlaneLoadComplete tile bad s
  | .matrixCommandComplete tile => Sys2Proof.Machine.execMatrixCommandComplete tile s
  | .mmaOperandFault tile => Sys2Proof.Machine.execMmaOperandFault tile s
  | .miterStepComplete tile => Sys2Proof.Machine.execMiterStepComplete tile s
  | .weirStep field => Sys2Proof.Machine.execWeirStep field s
  | .rampDownEnd tile => Sys2Proof.Machine.execRampDownEnd tile s
  | .wakeTokenTake field => Sys2Proof.Machine.execWakeTokenTake field s
  | .wakeComplete field seg => Sys2Proof.Machine.execWakeComplete field seg s
  | .segmentPowerDown seg => Sys2Proof.Machine.execSegmentPowerDown seg s
  | .doorbell port func queue tail => Sys2Proof.Machine.execDoorbell port func queue tail s
  | .dispatcherTake part hostError => Sys2Proof.Machine.execDispatcherTake part hostError s
  | .launch cmd => Sys2Proof.Machine.execLaunch cmd s
  | .hostCancelLaunch cmd => Sys2Proof.Machine.execHostCancelLaunch cmd s
  | .hostCancelGraph cmd => Sys2Proof.Machine.execHostCancelGraph cmd s
  | .hostCancelPhase cmd => Sys2Proof.Machine.execHostCancelPhase cmd s
  | .hostCancelJob cmd => Sys2Proof.Machine.execHostCancelJob cmd s
  | .phase cmd => Sys2Proof.Machine.execPhase cmd s
  | .endjob cmd => Sys2Proof.Machine.execEndjob cmd s
  | .nop cmd => Sys2Proof.Machine.execNop cmd s
  | .admission part fit => Sys2Proof.Machine.execAdmission part fit s
  | .counterQueryJob part => Sys2Proof.Machine.execCounterQueryJob part s
  | .counterQueryPhase part => Sys2Proof.Machine.execCounterQueryPhase part s
  | .counterQueryGraph part => Sys2Proof.Machine.execCounterQueryGraph part s
  | .pcauseClear part v => Sys2Proof.Machine.execPcauseClear part v s
  | .niinv berth slot num => Sys2Proof.Machine.execNiinv berth slot num s
  | .modcapWrite v => Sys2Proof.Machine.execModcapWrite v s
  | .registerWrite reg v secure => Sys2Proof.Machine.execRegisterWrite reg v secure s
  | .sliceEnd part slot gang => Sys2Proof.Machine.execSliceEnd part slot gang s
  | .summons part => Sys2Proof.Machine.execSummons part s
  | .saveComplete part slot gang => Sys2Proof.Machine.execSaveComplete part slot gang s
  | .saveAbort part slot gang berth => Sys2Proof.Machine.execSaveAbort part slot gang berth s
  | .restoreComplete part slot gang => Sys2Proof.Machine.execRestoreComplete part slot gang s
  | .checkpointWriteAck berth line => Sys2Proof.Machine.execCheckpointWriteAck berth line s
  | .relocationStart tile berth => Sys2Proof.Machine.execRelocationStart tile berth s
  | .relocationCutover tile => Sys2Proof.Machine.execRelocationCutover tile s
  | .relocationRestore tile => Sys2Proof.Machine.execRelocationRestore tile s
  | .relocationEnd tile => Sys2Proof.Machine.execRelocationEnd tile s
  | .invalidation berth tile => Sys2Proof.Machine.execInvalidation berth tile s
  | .walkComplete field walk => Sys2Proof.Machine.execWalkComplete field walk s
  | .fwResume t clean => Sys2Proof.Machine.execFwResume t clean s
  | .fwForward t => Sys2Proof.Machine.execFwForward t s
  | .fwKill t => Sys2Proof.Machine.execFwKill t s
  | .pairTimeout t => Sys2Proof.Machine.execPairTimeout t s
  | .linkItemArrival link => Sys2Proof.Machine.execLinkItemArrival link s
  | .remoteWriteAck link id => Sys2Proof.Machine.execRemoteWriteAck link id s
  | .flitCrcFail link => Sys2Proof.Machine.execFlitCrcFail link s
  | .linkRetrain link lanes => Sys2Proof.Machine.execLinkRetrain link lanes s
  | .linkFailure link => Sys2Proof.Machine.execLinkFailure link s
  | .remoteWriteAbandon id => Sys2Proof.Machine.execRemoteWriteAbandon id s
  | .routerFailure berth => Sys2Proof.Machine.execRouterFailure berth s
  | .moduleReset powerOn verified => Sys2Proof.Machine.execModuleReset powerOn verified s
  | .selfTest field failed => Sys2Proof.Machine.execSelfTest field failed s
  | .laneRepair field channels granules => Sys2Proof.Machine.execLaneRepair field channels granules s
  | .routeTableBuild field => Sys2Proof.Machine.execRouteTableBuild field s
  | .timeCounterStart => Sys2Proof.Machine.execTimeCounterStart s
  | .seamMeasurement lat => Sys2Proof.Machine.execSeamMeasurement lat s
  | .worldAssignment => Sys2Proof.Machine.execWorldAssignment s
  | .timeProbe field => Sys2Proof.Machine.execTimeProbe field s
  | .timeProbeArrival field => Sys2Proof.Machine.execTimeProbeArrival field s
  | .timeReplyArrival field => Sys2Proof.Machine.execTimeReplyArrival field s
  | .defectReinstate index count verified => Sys2Proof.Machine.execDefectReinstate index count verified s
  | .attestationReport nonce => Sys2Proof.Machine.execAttestationReport nonce s
  | .granuleReassign granule entry => Sys2Proof.Machine.execGranuleReassign granule entry s
  | .firmwareUpdate part version verified => Sys2Proof.Machine.execFirmwareUpdate part version verified s
  | .coreRestart tile core => Sys2Proof.Machine.execCoreRestart tile core s
  | .towpathFrame payload => Sys2Proof.Machine.execTowpathFrame payload s
  | .hallSettingApply => Sys2Proof.Machine.execHallSettingApply s
  | .settingChange part field => Sys2Proof.Machine.execSettingChange part field s
  | .budgetCheck part power => Sys2Proof.Machine.execBudgetCheck part power s
  | .watchdogFeed field => Sys2Proof.Machine.execWatchdogFeed field s
  | .watchdogTimeout field => Sys2Proof.Machine.execWatchdogTimeout field s
  | .sensorCheck field readings => Sys2Proof.Machine.execSensorCheck field readings s
  | .currentTrip field => Sys2Proof.Machine.execCurrentTrip field s
  | .tripEnd field => Sys2Proof.Machine.execTripEnd field s
  | .stopFlitArrival flit => Sys2Proof.Machine.execStopFlitArrival flit s
  | .checkpointTimer part => Sys2Proof.Machine.execCheckpointTimer part s
  | .checkpointSlotCleared part => Sys2Proof.Machine.execCheckpointSlotCleared part s
  | .checkpointCommit part => Sys2Proof.Machine.execCheckpointCommit part s
  | .checkpointAbort part => Sys2Proof.Machine.execCheckpointAbort part s
  | .itemAcknowledgement item => Sys2Proof.Machine.execItemAcknowledgement item s
  | .powerLoss => Sys2Proof.Machine.execPowerLoss s
  | .quayTileQueueCompletion id => Sys2Proof.Machine.execQuayTileQueueCompletion id s

end Sys2Proof.Machine
end

