-- ==== Sys2Proof/Machine/Turn.lean ====
section
/-! DEFINITION. A turn of a core: the thread that issues, its instruction, and the turn of a killed thread (R31 to R35, R52, R221). -/

namespace Sys2Proof.Machine

/-- The turn of a killed thread (R52): one that executes TEXIT on it retires, and any other is killed. -/
def killTurn (i : Instr) (t : ThreadId) (st : State) : Host.Outcome State Fault Refusal :=
  match i, exec i st with
  | .texit _, .next st' => if (st'.thread? t).isNone then .next st' else execThreadKill t st
  | _, _ => execThreadKill t st

/-- A thread fetches and executes its instruction. -/
def runInstr (t : ThreadId) (th : Thread) (st : State) : Host.Outcome State Fault Refusal :=
  match fetch st t th with
  | .error pc => if th.kill then execThreadKill t st else .next (st.takeTrap t .bounds pc pc false)
  | .ok i => if th.kill then killTurn i t st else exec i st

/-! ## Checked pairs (R41, R152, R480, R481; log entry 64) -/

/-- The machine as the second member of a pair sees it: its own context, with a soft error that strikes it, and its own reading of the
time. -/
def State.asSecond (st : State) (t : ThreadId) (second : Thread) : State :=
  let flip (th : Thread) : Thread := match Config.upset st.clock with
    | some (n, m) => { th with regs := updAt th.regs n fun r => match r with
        | .ready v => .ready (v ^^^ m)
        | r => r }
    | none => th
  let skew : Nat := Config.pairSkew st.clock
  let fields : AMap Nat Field := st.fields.map fun e => (e.1, { e.2 with time := e.2.time + skew })
  State.setThread { st with now := st.now + skew, fields := fields } t (flip second)

/-- What a member has presented in its instruction: items, and its task's end. -/
def State.items' (st : State) (t : ThreadId) : List PairItem :=
  if st.held then [] else st.presented ++ (if (st.thread? t).isNone then [.ends] else [])

/-- A turn after which the first member stands as the state has it, and the second as given; a member may wait at the port. -/
def State.withSecond (st : State) (t : ThreadId) (second : Option Thread) (waits : Option (Bool × Nat)) : State :=
  let st := { st with presented := [] }
  match st.thread? t, second with
  | some th, some s => st.modTile t.tile fun tl => tl.setTwin t.thr (Twin.of s th waits)
  | _, _ => st

/-- A turn of both members of a pair: each executes its own instruction, the second without effect but on its own context. Items that
compare equal leave once; a member whose instruction presents one waits while the other presents none; and unequal items leave
neither, and both trap MISMATCH. -/
def runPair (t : ThreadId) (th : Thread) (tl : Tile) (st : State) : Host.Outcome State Fault Refusal :=
  let st := { st with presented := [] }
  let w := tl.twin t.thr
  let second := w.apply th
  match runInstr t th st, runInstr t second (st.asSecond t second) with
  | .next s1, .next s2 =>
    let p := s1.items' t
    let q := s2.items' t
    let moved := if s2.held then some second else s2.thread? t
    let since (m : Bool) : Option (Bool × Nat) := some (m, (w.waits.map (·.2)).getD tl.cycle)
    if s1.held then .next { s1 with presented := [] }
    else if p = q then .next (s1.withSecond t moved none)
    else if p.isEmpty then .next (s1.withSecond t (some second) (since true))
    else if q.isEmpty then .next (st.withSecond t moved (since false))
    else .next (st.trapMismatch t th)
  | .next _, o => o
  | o, _ => o

/-- A slot is offered the turn. -/
def runThread (tile : TileId) (e : Nat × Nat) (st : State) : Host.Outcome State Fault Refusal :=
  let st := st.offer tile e
  let t : ThreadId := ⟨tile, e.1⟩
  match st.thread? t, st.tile? tile with
  | some th, some tl => if th.paired.isSome && !th.kill then runPair t th tl st else runInstr t th st
  | _, _ => .next st

/-- The first slot that is not held takes the turn (R34); when there is none the turn is a bubble. -/
def tryTurn (tile : TileId) : List (Nat × Nat) → State → Host.Outcome State Fault Refusal
  | [], st => .next { st with cur := none }
  | e :: es, st =>
    match runThread tile e st with
    | .next st' => if st'.held then tryTurn tile es st else .next st'
    | o => o

/-- What a turn does before a thread issues: results that are due arrive, threads whose wait is over are dealt, and stall counts
count the turn. -/
def State.openTurn (st : State) (tile : TileId) (core : Nat) : State := (st.deliverCore tile core).wakeCore tile core

/-- The next turn of a core (R31). -/
def turn (st : State) : Host.Outcome State Fault Refusal :=
  match st.nextCore with
  | none => .next { st with cur := none }
  | some (tile, core, st) =>
    let st := st.openTurn tile core
    tryTurn tile (st.candidates tile core) (st.forgoTurn tile core)

end Sys2Proof.Machine
end

