-- ==== Sys2Proof/Machine/Events.lean ====
section
/-! DEFINITION. The events that the state enables, which happen without the environment's doing (log entry 1): an event's own
meaning says what it does and when it does nothing. -/

namespace Sys2Proof.Machine

/-- An event with its operands: its meaning. -/
abbrev Event := State → Host.Outcome State Fault Refusal

/-- An event, when a condition holds. -/
def when' (c : Bool) (i : Event) : List Event := if c then [i] else []

/-- Events of a source (R5). -/
def sourced (source : Nat) (es : List Event) : List (Nat × Event) := es.map fun e => (source, e)

/-- The events of a thread. -/
def threadEvents (st : State) (id : TileId) (tl : Tile) (e : Nat × Thread) : List Event :=
  let t := e.2
  let tid : ThreadId := ⟨id, e.1⟩
  when' (t.inflight.any fun f => decide (f.due ≤ tl.cycle)) (execFixedLatencyDelivery tid) ++
  when' (t.kill && (match t.status with
    | .off _ _ => killReady st tid t
    | _ => false)) (execThreadKill tid) ++
  (match t.fence.bind (·.probes) with
    | some ps => ps.map fun p => execProbeEcho tid p.1
    | none => []) ++
  ((List.range 8).flatMap fun m =>
    match t.stream? m with
    | some b => when' b.mayFetch (execStreamFetch tid m .clean) ++ when' (b.write && !b.queue.isEmpty) (execStreamDrain tid m .clean)
    | none => []) ++
  (match t.fwTrap with
    | none => []
    | some f =>
      if f.cause = .mismatch then [execFwKill tid]
      else match st.resolveTrap tid t f true with
        | some _ => [execFwResume tid true]
        | none => [execFwForward tid])

/-- Whether a tile's restore is under way at its berth (R456, R461 step 4). -/
def State.reinstating (st : State) (id : TileId) (tl : Tile) : Bool :=
  st.gangState id == .restoring || tl.reloc.any fun r => r.stage == .cut

/-- The next plane of a tile's reload. -/
def reloadEvents (id : TileId) (tl : Tile) : List Event :=
  match tl.arr.holder with
  | none => []
  | some h => match (tl.core h).reload with
    | b :: _ => [execPlaneReloadComplete id b]
    | [] => []

/-- The events of a tile that is being restored: registrations enter, and planes are reloaded (R456 step 3). -/
def restoringEvents (id : TileId) (tl : Tile) : List Event :=
  (tl.regWait.map fun r => execRegistrationEnter id r.id) ++ reloadEvents id tl

/-- The events of a tile's array (06, 12). -/
def arrayEvents (st : State) (id : TileId) (tl : Tile) : List Event :=
  let co := tl.core (tl.arr.holder.getD 0)
  (if tl.stopped then [] else reloadEvents id tl) ++
  (match tl.arr.holder with
    | none => []
    | some _ =>
      when' tl.arr.spent (execLeaseBudgetSpent id) ++
      (match nextLoad co.mcmds with
        | some _ => when' co.reload.isEmpty (execPlaneLoadComplete id [])
        | none => [])) ++
  (match st.running id with
    | none => []
    | some (_, _, c) =>
      if isIter c.instr then [execMiterStepComplete id] else when' (mmaForm c.instr).isSome (execMmaOperandFault id))

/-- The events of a moored tile's network interface, work list, copies, vector contexts and symbols. -/
def tileEvents (st : State) (id : TileId) (tl : Tile) (b : Nat) : List Event :=
  let live := st.gangState id == .resident && !tl.stopped
  when' (!tl.niq.isEmpty || tl.cores.any fun c => !c.outbound.isEmpty) (execNiSend b) ++
  when' (!tl.overflow.isEmpty) (execSpillwayAppend id) ++
  (match tl.heap with
    | m :: _ => when' (tl.inboxRoom m) (execSpillwayReplay id)
    | [] => []) ++
  (match tl.held with
    | m :: _ => (match st.launchOf id with
      | some l => when' (if l.kernel.spill = 0 then tl.inboxRoom m else tl.heapRoom l.kernel m) (execHeldMessageMove id)
      | none => [])
    | [] => []) ++
  when' (live && tl.arrivalFirst && st.cycleOver id) (execMigrantCreate id) ++
  (match tl.work with
    | p :: _ => (match st.launchOf id with
      | some l => when' (live && !tl.arrivalFirst && st.cycleOver id && (tl.dispatchCore l.kernel p).isSome) (execDispatch id)
      | none => [])
    | [] => []) ++
  (tl.regWait.map fun r => execRegistrationEnter id r.id) ++
  ((List.range 4).flatMap fun q =>
    match tl.copyQ.getD q [] with
    | [] => []
    | cs => (match st.launchOf id with
        | some l => when' (endingCopy st l.kernel true cs).isSome (execCopyComplete id q)
        | none => []) ++
      (cs.take 1).map fun c => execAccessPerformed c.id .clean) ++
  when' (!tl.sfuFifo.isEmpty && !tl.stopped) (execSfuStart id) ++
  (match tl.sfuBusy with
    | (_, due) :: _ => when' (decide (due ≤ tl.cycle)) (execSfuResult id)
    | [] => []) ++
  ((List.range tl.vecs.length).flatMap fun n => match tl.vecs.getD n none with
    | some c => when' (!c.queue.isEmpty) (execVectorComplete id n none)
    | none => []) ++
  ((List.range 8).flatMap fun c => ((tl.core c).symbols.filter fun s => s.2.data.isSome).map fun s => execResultDelivery id c s.1) ++
  arrayEvents st id tl

/-- The events of a launch's gangs (23). -/
def gangEvents (st : State) (part slot : Nat) (l : Launch) : List Event :=
  l.gangs.zipIdx.flatMap fun g =>
    (if g.1.state == .saving then
      match (gangTiles part slot l.kernel g.2).find? st.locationBad with
      | some id => (((st.tile? id).bind (·.berth)).map (execSaveAbort part slot g.2)).toList
      | none => [execSaveComplete part slot g.2]
    else []) ++
    when' (g.1.state == .restoring) (execRestoreComplete part slot g.2) ++
    when' (g.1.state == .resident && !l.cancelled && decide (g.1.slice + l.kernel.sliceMs * 1000000 ≤ st.now) &&
      (gangTiles part slot l.kernel g.2).all st.cycleOver) (execSliceEnd part slot g.2)

/-- The events of a tile's relocation, and the start of one that its berth's marks ask for (R461, R463). -/
def relocEvents (st : State) (id : TileId) (tl : Tile) (b : Nat) : List Event :=
  match tl.reloc with
  | some r =>
    (match r.stage with
      | .streaming => [execRelocationCutover id]
      | .cut => [execRelocationRestore id]
      | .restored => when' r.acks.isEmpty (execRelocationEnd id)) ++ r.acks.map fun a => execInvalidation a id
  | none =>
    if ((st.berth b).marginal || (st.berth b).retire) && st.gangState id == .resident then
      match st.launchOf id with
      | some l => match st.chooseBerths (st.freeBerths id.part l.kernel.pairs) 1 none with
        | some (n :: _) => [execRelocationStart id n]
        | _ => []
      | none => []
    else []

/-- The first scratchpad line that an incremental checkpoint has still to write (R458). -/
def checkpointEvents (st : State) (b : Nat) (x : Berth) : List Event :=
  match x.ckpt, x.moored with
  | true, some id => match st.tile? id with
    | some tl =>
      (match (List.range scratchLines).find? fun n => st.scratchLine id n != (tl.image.get? n).getD 0 with
        | some n => [execCheckpointWriteAck b n]
        | none => match (List.range 8192).find? fun n => tl.regGroup n != (tl.imageRegs.get? n).getD [] with
          | some n => [execCheckpointWriteAck b (scratchLines + n)]
          | none => [])
    | none => []
  | _, _ => []

/-- The events of a partition (22, 26). -/
def partEvents (st : State) (n : Nat) (p : Part) : List Event :=
  when' (!p.ready.isEmpty && (st.freeSlot n).isSome) (execAdmission n true) ++
  when' (!(st.summoned n).isEmpty || (st.exitedGang n).isSome) (execSummons n) ++
  ((p.fieldList.filter fun f => (st.field f).applied != st.inForce n f).map fun f => execSettingChange n f) ++
  when' (ckEnabled p.ckctl && !ckByPhase p.ckctl && p.ckstep == .idle && p.ckcount == 0 &&
    decide (p.cktimer + ckPeriod p.ckctl * 1000000 ≤ st.now)) (execCheckpointTimer n) ++
  when' (p.ckstep == .clearing) (execCheckpointSlotCleared n) ++
  when' (p.ckstep == .writing) (execCheckpointCommit n) ++
  when' (p.ckstep == .stopping && decide (p.cktimer + 1000000000 < st.now)) (execCheckpointAbort n)

/-- The events of a field (24 to 26). -/
def fieldEvents (st : State) (n : Nat) (f : Field) : List Event :=
  ((f.walks.take 16).map fun w => execWalkComplete n w.id) ++
  when' (!f.wakes.isEmpty && decide (f.waking.length < 4)) (execWakeTokenTake n) ++
  ((f.waking.filter fun w => decide (w.2 + 2000 ≤ (f.time : Int))).map fun w => execWakeComplete n w.1) ++
  when' (f.counting && !f.wdog && decide (f.fed + 50000000 ≤ st.now)) (execWatchdogTimeout n) ++
  when' (!f.current && decide ((st.modRegs.itrip : Int) * 1000 ≤ currentSum f.readings)) (execCurrentTrip n) ++
  when' ((f.thermal && f.cool.any fun s => decide (s + 1000000 ≤ st.now)) || (f.current && f.low.any fun s => decide (s + 1000000 ≤ st.now)))
    (execTripEnd n) ++
  (match f.probe with
    | some p => if p.arrived then [execTimeReplyArrival n] else [execTimeProbeArrival n]
    | none => when' (n != 0 && f.counting && decide (f.probed < (st.field (nearField n)).time / 1000000)) (execTimeProbe n))

/-- The stages of boot that need nothing from outside (R484). -/
def bootEvents (st : State) : List Event :=
  match st.boot.stage with
  | 3 => (st.booting.filter (st.mayPass 4)).map execRouteTableBuild
  | 4 => [execTimeCounterStart]
  | 6 => [execWorldAssignment]
  | _ => []

/-- The events of the links (R118, R483). -/
def linkEvents (st : State) : List (Nat × Event) :=
  (st.links.flatMap fun l => sourced (linkSource l.1) (when' (!l.2.rx.isEmpty && !l.2.failed) (execLinkItemArrival l.1))) ++
  (st.flits.map fun f => (linkSource (Config.linkTable f.2.2.1 % 96), execStopFlitArrival f.1)) ++
  ((st.remotes.filter fun r => !r.lost && (st.link r.link).failed && decide (r.time + 100000000 ≤ st.now)).map
    fun r => (linkSource r.link, execRemoteWriteAbandon r.id))

/-- The partitions for which a queue has a command to take (R432). -/
def takingParts (st : State) : List Nat :=
  if st.boot.stage = 7 then
    ((st.queues.filter (·.2.available)).filterMap fun q => st.queuePart q.1).eraseDups
  else []

/-- The source number of a tile's berth (Table 0.3), or, while it is moored at none, of its partition's field controller. -/
def State.tileSource (st : State) (tile : TileId) : Nat :=
  ((st.tile? tile).bind (·.berth)).getD (st.controllerSource tile.part)

/-- The events that are due at this moment, before time runs on: each is enabled no more once it has happened. -/
def State.dueEvents (st : State) : List (Nat × Event) :=
  (st.tiles.flatMap fun e => match e.2.berth with
    | some b => sourced b (
      ((List.range 4).flatMap fun q => match (st.launchOf e.1).bind fun _ => st.acceptable (e.2.copyQ.getD q []) with
        | some c => when' (st.nextAccept e.2 == some c) (execCopyAccept e.1 q)
        | none => []) ++
      (e.2.threads.filter fun t => t.2.paired.isSome && t.2.fwTrap.isNone && e.2.pairOverdue t.1).map (fun t => execPairTimeout ⟨e.1, t.1⟩) ++
      (e.2.threads.filter fun t => t.2.lines.any fun l => decide (l.last + 512 ≤ e.2.cycle)).map (fun t => execCombiningBufferTimeout ⟨e.1, t.1⟩) ++
      (match st.launchOf e.1 with
        | some l => when' (e.2.sampled != st.balanceInterval e.1 l.kernel) (execLevellerSample e.1)
        | none => []) ++
      (match e.2.arr.ramp with
        | .down j s => when' (decide (s + 4 * (j + 1) ≤ e.2.cycle)) (execRampDownEnd e.1)
        | _ => []) ++
      when' (st.commandDue e.1) (execMatrixCommandComplete e.1))
    | none => []) ++
  (st.fields.flatMap fun f => sourced (5040 + f.1) (when' (st.weirDue f.1) (execWeirStep f.1))) ++
  (st.berths.flatMap fun b =>
    let time := (st.field (fieldOf b.1)).counting
    sourced b.1 (when' (time && !b.2.window && refreshTime st b.1) (execRefreshWindowOpen b.1 []) ++
      when' (b.2.window && !refreshTime st b.1) (execRefreshWindowClose b.1))) ++
  st.launches.flatMap fun l =>
    (((st.tilesOf l.1.1 l.1.2).filterMap fun e => e.2.berth.bind fun b =>
      if st.gangState e.1 = .resident ∧ e.2.threads.any (fun t => st.releaseDue l.2 (fieldOf b) t.2) then some (fieldOf b) else none).eraseDups.map
        fun f => (5040 + f, execFieldOffsetRelease l.1.1 l.1.2 f))

/-- The events that the state enables, and that happen at a time which the model leaves open. -/
def State.enabledEvents (st : State) : List (Nat × Event) :=
  (st.tiles.flatMap fun e => match e.2.berth with
    | some b => sourced b (relocEvents st e.1 e.2 b ++
      (if st.reinstating e.1 e.2 then restoringEvents e.1 e.2
       else tileEvents st e.1 e.2 b ++ e.2.threads.flatMap (threadEvents st e.1 e.2)))
    | none => []) ++
  ((st.accesses.filter st.mayPerform).map fun a => (st.tileSource a.agent.tile, execAccessPerformed a.id .clean)) ++
  ((st.items.filter st.inOrder).map fun i => (i.origin, if i.back then execItemReturn i.id else match i.payload with
    | .shipment _ => execLevellerShipmentArrival i.id
    | _ => execItemArrival i.id)) ++
  (st.itemAcks.map fun a => (a.2, execItemAcknowledgement a.1)) ++
  (st.acks.map fun a => (st.tileSource a.2.tile, execPeerWriteAck a.1)) ++
  (st.fields.flatMap fun f => sourced (5040 + f.1) (fieldEvents st f.1 f.2)) ++
  (st.berths.flatMap fun b => sourced b.1 (checkpointEvents st b.1 b.2)) ++
  (st.launches.flatMap fun l => sourced (st.controllerSource l.1.1) (gangEvents st l.1.1 l.1.2 l.2)) ++
  (st.parts.flatMap fun p => sourced (st.controllerSource p.1) (partEvents st p.1 p.2)) ++
  ((takingParts st).map fun p => (st.controllerSource p, execDispatcherTake p false)) ++
  sourced 5040 (when' st.modRegs.towpend execHallSettingApply) ++ linkEvents st ++ sourced 5040 (bootEvents st)

end Sys2Proof.Machine
end

