-- ==== Sys2Proof/Machine/Load.lean ====
section
/-! DEFINITION. Time (R7, R491), the commands that a dispatcher has taken, and the program that stands for a load from outside
(log entry 6). -/

namespace Sys2Proof.Machine

/-! ## Time -/

/-- One step of time: the counters of the fields run on (R7; log entry 5), and global time is field 0's counter (R491). An error may strike
meanwhile (R476). -/
def State.tick (st : State) : State :=
  let fields : AMap Nat Field := st.fields.map fun e => if e.2.counting then (e.1, { e.2 with time := e.2.time + Config.elapsed st.clock e.1 }) else e
  let now : Int := match AMap.get? fields 0 with
    | some f => if f.counting then f.time else st.now
    | none => st.now
  { st with clock := st.clock + 1, fields := fields, now := now, errors := st.errors ++ (Config.softError st.clock).toList }

/-- A step's time: it passes once, and not again while events that are due at that moment happen. -/
def State.advance (st : State) : State := if st.ticked then { st with clock := st.clock + 1 } else { st.tick with ticked := true }

/-! ## Equal global times (R5) -/

/-- The next nanosecond of global time. -/
def State.later (st : State) : State :=
  { st with now := st.now + 1, fields := st.fields.map fun e => if e.2.counting then (e.1, { e.2 with time := e.2.time + 1 }) else e }

/-- What a source may change of the launches' counters: which launches run, which are cancelled, and their first faults. -/
def State.levelMarks (st : State) : List ((Nat × Nat) × Bool × Option FaultRec) := st.launches.map fun l => (l.1, l.2.cancelled, l.2.fault)

/-- A happening of a source (R5): once a host port or the management port has acted, or any source has cancelled, faulted or ended a
launch, a source with a lower number acts at a later global time. -/
def happen (source : Nat) (e : Event) (st : State) : Host.Outcome State Fault Refusal :=
  let st := if st.lastNow = st.now ∧ source < st.lastSource then st.later else st
  match e st with
  | .next t => .next (if 5166 ≤ source ∨ t.levelMarks ≠ st.levelMarks then { t with lastSource := source, lastNow := t.now } else t)
  | o => o

/-- The source number of a host port (Table 0.3). -/
def portSource (port : Nat) : Nat := 5166 + port

/-- The source number of the management port (Table 0.3). -/
def managementSource : Nat := 5168

/-- The source number of the tile whose core takes the next turn. -/
def State.turnSource (st : State) : Nat := match st.nextCore with
  | some (tile, _, _) => st.tileSource tile
  | none => 0

/-- The source number of an input (Table 0.3): a host port, an external link or the management port; a field controller's inputs and those
of a berth come as they happen. -/
def inputSource : Instr → Nat
  | .doorbell port .. => portSource port
  | .registerWrite (.bar0 port ..) .. => portSource port
  | .registerWrite (.intstat port _) .. => portSource port
  | .registerWrite (.intmask port _) .. => portSource port
  | .registerWrite (.qmap port _) .. => portSource port
  | .registerWrite (.numvfs port) .. => portSource port
  | .linkItemArrival link => linkSource link
  | .remoteWriteAck link _ => linkSource link
  | .flitCrcFail link => linkSource link
  | .linkRetrain link _ => linkSource link
  | .linkFailure link => linkSource link
  | .towpathFrame _ => managementSource
  | .attestationReport _ => managementSource
  | .defectReinstate .. => managementSource
  | _ => 0

/-! ## A program that is in the machine when a word is put where the step fetches -/

/-- The bound record of the smallest launch: one tile, one thread of 128 registers, and a code section of 64 bytes. -/
def loadKernel : Kernel :=
  { mode := .w3, vx := 1, vy := 1, gx := 1, gy := 1, regs := 128, threads := 511, sliceMs := 1, balanceUs := 4, spill := 0, entry := 0, exit := 0
    tvec := noTvec, fmt := 0, scp := 0, pairs := false, codeSize := 64, args := [0, 0, 0, 0], layout := List.replicate 64 0, dist := [] }

/-- The launch of that record, resident. -/
def loadLaunch : Launch :=
  { kernel := loadKernel, node := 0, job := 0, graph := 0, phase := 0, queue := 0, irq := false, counter := none, workTable := 0, moorBytes := 0
    state := .running, detail := 0, members := 0, lost := 0, retiring := [], discard := 0, gen := 0, genTime := 0, arrived := [], arrivedNext := [], written := [], fault := none
    cancelled := false
    gangs := [{ state := .resident, gen := 1, fault := none, summon := 0, slice := 0, image := 0, crec := none, moorn := 0, cls := none, created := true }]
    table := [(0, ⟨some 0, false, 0, 1⟩)], moored := [] }

/-- The tile that a loaded program runs on. -/
def loadTile : TileId := ⟨0, 0, 0⟩

/-- The machine with the smallest launch loaded, its root thread dealt to position 0, whose turn comes next. -/
def State.load (st : State) : State :=
  let st := { st with
    powered := true, agenda := [], ticked := false, taken := [], focus := (loadTile, 7), cur := none, held := false, accesses := [], items := [], acks := []
    itemAcks := [], fields := [], berths := [(0, { Berth.reset with state := .moored, moored := some loadTile })]
    tiles := [(loadTile, { Tile.unplaced [] with berth := some 0, cycle := 7 })], launches := [((0, 0), loadLaunch)] }
  (st.createRoot loadTile).dealThread ⟨loadTile, 0⟩

/-- Where the very next step fetches an instruction: the tile and the byte offset of its code section. -/
def State.fetchSite (st : State) : Option (TileId × Nat) :=
  let st := { st.advance with ticked := false }
  if !st.powered || !st.agenda.isEmpty || !st.taken.isEmpty || !st.dueEvents.isEmpty || !st.enabledEvents.isEmpty then none
  else match st.nextCore with
    | none => none
    | some (tile, core, st) =>
      let st := st.openTurn tile core
      match st.candidates tile core with
      | [] => none
      | e :: _ => match st.thread? ⟨tile, e.1⟩, st.launchOf tile with
        | some th, some l =>
          let pc := (th.pc &&& 0xFFFFFFFC#32).toNat
          if th.kill || decide (l.kernel.codeSize < pc + 8) then none else some (tile, pc)
        | _, _ => none

end Sys2Proof.Machine
end

