-- ==== Sys2Proof/Machine/Step.lean ====
section
/-! DEFINITION. One step of the machine: an input or command that is waiting, an event that is due or that the state enables, or a turn of
a core (log entry 1), in the order of source numbers at one global time (R5). -/

namespace Sys2Proof.Machine

/-- Whether an input reaches a module without power. -/
def wakesModule : Instr → Bool
  | .moduleReset .. => true
  | _ => false

/-- One of some events, or a turn, as the model leaves open (log entry 1). -/
def pickEvent (st : State) (es : List (Nat × Event)) : Host.Outcome State Fault Refusal :=
  match es with
  | [] => happen st.turnSource turn st
  | e :: rest =>
    match Config.schedule st.clock (rest.length + 2) % (rest.length + 2) with
    | 0 => happen st.turnSource turn st
    | k + 1 => let c := (e :: rest).getD k e; happen c.1 c.2 st

/-- What a step of a module with power does when no input waits: an event that is due, a command that a dispatcher has taken, an event that
the state enables, or a turn. -/
def proceed (st : State) : Host.Outcome State Fault Refusal :=
  match st.dueEvents with
  | e :: rest =>
    let c := (e :: rest).getD (Config.schedule st.clock (rest.length + 1) % (rest.length + 1)) e
    happen c.1 c.2 st
  | [] =>
    let st := { st with ticked := false }
    match st.taken with
    | c :: rest => happen (portSource (c.queue / 131072)) (carryOut c) { st with taken := rest }
    | [] => pickEvent st st.enabledEvents

/-- One step. Inputs from outside come first. -/
def step (s : State) : Host.Outcome State Fault Refusal :=
  let st := s.advance
  match st.agenda with
  | i :: rest =>
    let st := { st with agenda := rest }
    if st.powered || wakesModule i then happen (inputSource i) (exec i) st else .next st
  | [] => if st.powered then proceed st else .fault .poweredOff

/-- A state with an instruction stored where the next step fetches (log entry 6): the site of a state that has one, and else the
smallest launch is loaded first. -/
def State.withFetchWord (s : State) (nbits w : Nat) : State :=
  let (st, tile, pc) := match s.fetchSite with
    | some (t, pc) => (s, t, pc)
    | none => (s.load, loadTile, 0)
  { st with mem := memWriteBytes st.mem (codeKey tile.part tile.slot pc) (bytesOfTable nbits w) }

end Sys2Proof.Machine
end

