-- ==== Sys2Proof/Safety.lean ====
section
/-! DEFINITION. What counts as a safe run, the invariants of a run, and the words in which claims about instructions are said:
how a field is read and written, and what the end of an instruction leaves alone. -/

namespace Sys2Proof.Safety

open Sys2Proof.Machine

/-! ## Safe runs -/

/-- A step that stops neither with a fault nor with a refusal. -/
def SafeStep (s : State) : Prop := ∃ t, step s = .next t

/-- The states that a run from a state reaches. -/
inductive Reaches (s : State) : State → Prop
  | start : Reaches s s
  | step {t u : State} (h : Reaches s t) (hu : Machine.step t = .next u) : Reaches s u

/-- A run from a state is safe when no state that it reaches stops, other than for want of power (R484, R509). -/
def SafeRun (s : State) : Prop := ∀ t, Reaches s t → SafeStep t ∨ (t.powered = false ∧ t.agenda = [])

/-- The invariant of memory: it keeps its one canonical form. -/
def MemoryOk (s : State) : Prop := Memory.wf s.mem = true

/-! ## Operands -/

/-- A source field yields a word and leaves the thread's context as given (R170, R172, R232): a register of the allocation that
is ready, or a read stream whose oldest fetched element is a word, which is popped. -/
def Reads (th : Thread) (c : XField) (w : Word) (after : Thread) : Prop :=
  (c.toNat < th.alloc ∧ th.reg c.toNat = .ready w ∧ after = th) ∨
  (th.alloc ≤ 120 ∧ 120 ≤ c.toNat ∧ ∃ b q, th.stream? (c.toNat - 120) = some b ∧ b.write = false ∧ th.acqHold = [] ∧
    b.pos < b.length ∧ b.queue = .word w :: q ∧
    after = th.setStream (c.toNat - 120) (some { b with queue := q, pos := b.pos + 1 }))

/-- A destination field takes a word (R11, R170, R172, R232): a register of the allocation, of which x0 discards it, or a write
stream that has room and whose next element has a location, which takes it at its tail. -/
def Puts (st : State) (tid : ThreadId) (th : Thread) (d : XField) (w : Word) (after : Thread) : Prop :=
  (d.toNat < th.alloc ∧ after = th.setX d.toNat w) ∨
  (th.alloc ≤ 120 ∧ 120 ≤ d.toNat ∧ ∃ b target st', th.stream? (d.toNat - 120) = some b ∧ b.write = true ∧ th.acqHold = [] ∧
    b.pos < b.length ∧ b.queue.length < 16 ∧ streamTarget st tid th.priv b b.pos = .ok (target, st') ∧
    after = th.setStream (d.toNat - 120) (some { b with queue := b.queue ++ [.store w target], pos := b.pos + 1 }))

/-- A destination field takes a word that comes after the latency of stall count g, with flags (R135, R175, R256, R403): a register
takes it 8 × (g + 1) tile cycles after the issue, and a write stream at once, its flags with that delay. -/
def PutsLate (st : State) (tid : ThreadId) (th : Thread) (d : XField) (w : Word) (flags : FFlags) (g : Nat) (after : Thread) : Prop :=
  let due := st.cycleOf tid.tile + 8 * (g + 1)
  (d.toNat < th.alloc ∧ after = { th with inflight := th.inflight ++ [⟨d.toNat, w, flags, due⟩] }) ∨
  (th.alloc ≤ d.toNat ∧ ∃ pushed, Puts st tid th d w pushed ∧
    after = { pushed with inflight := pushed.inflight ++ [⟨0, 0, flags, due⟩] })

/-- A field names a register of the allocation or a stream register (R28, R232). -/
def Named (th : Thread) (c : XField) : Prop := c.toNat < th.alloc ∨ (th.alloc ≤ 120 ∧ 120 ≤ c.toNat)

/-- No read of these fields comes too early for a fixed-latency result (R175, R176, R251): none is undelivered, or the thread is
one that reads the earlier value. -/
def NotEarly (th : Thread) (cs : List XField) : Prop :=
  ∀ c ∈ cs, c.toNat < th.alloc → th.isEarly c.toNat = true → th.mode ≠ .w1 ∧ th.sbchk = false

/-- The thread that takes this turn, without a single step asked for (R362). -/
def Runs (st : State) (tid : ThreadId) (th : Thread) : Prop :=
  st.cur = some tid ∧ st.thread? tid = some th ∧ th.step = false

/-! ## Memory operands -/

/-- A memory operand has its location (R68, R214, R279): its coordinate registers, and the tile-number register of an explicit
entry, are ready, and their values resolve. -/
def Located (tid : ThreadId) (th : Thread) (k : Kernel) (kidx : Nat) (c : XField) (u : Use) (loc : Loc) : Prop :=
  ∃ ws : List Word, ws.length = coordCount k kidx ∧ (∀ i < ws.length, th.reg (c.toNat + i) = .ready (ws.getD i 0#32)) ∧
    resolveLoc k tid.tile.num tid.thr th.priv kidx u ((ws.take (k.entryOf kidx).rank).map (·.toInt))
      (ws.getD (k.entryOf kidx).rank 0#32).toNat 0 = .ok loc

/-- Register ranges lie below the allocation (R233), which is at most 128 (R27). -/
def Ranges (th : Thread) (rs : List (XField × Nat)) : Prop := th.alloc ≤ 128 ∧ ∀ r ∈ rs, r.1.toNat + r.2 ≤ th.alloc

/-- A thread may pass stages 1 and 2 of a memory instruction (R97, R176, R280): no read of some fields is early, no earlier acquire
is unresolved, and it is not in the middle of a W1 pair (R252). -/
def MayAccess (th : Thread) (reads : List XField) : Prop := NotEarly th reads ∧ th.acqHold = [] ∧ th.w1Done = false

/-- Nothing that a release waits for is outstanding (R93, R103): earlier loads and receives have resolved, pushed stream elements,
vector accesses and stores are performed, and no store is buffered, touched or unacknowledged. -/
def Quiet (st : State) (tid : ThreadId) (th : Thread) : Prop :=
  th.fence = none ∧ loadsResolved st tid = true ∧ th.lines = [] ∧ streamsIssued st tid th = true ∧ vectorsIssued st tid = true ∧
    th.touch = 0#64 ∧ th.peerOut = [] ∧ hostWritesDone st tid = true ∧ ∀ a ∈ st.accesses, a.agent.thread? ≠ some tid

/-! ## What the end of an instruction leaves alone -/

/-- A stream without its registrations. -/
def bareStream (b : Stream) : Stream := { b with regs := [] }

/-- What an instruction's end keeps of its thread's context: all of it but the PC, the loop levels with the index registers of
the active ones, following, and the bookkeeping of the issue (R35, R48, R268 to R271). -/
def SameContext (a b : Thread) : Prop :=
  b = { a with pc := b.pc, regs := b.regs, inflight := b.inflight, loops := b.loops, follow := b.follow, bubble := b.bubble, stall := b.stall,
               lastIssue := b.lastIssue, fence := b.fence, w1Done := b.w1Done, matCmd := b.matCmd, symSince := b.symSince,
               streams := b.streams, status := b.status } ∧
  (∀ n, (∀ l ∈ a.loops, l.index ≠ n) → b.reg n = a.reg n) ∧
  (a.loops = [] → b.regs = a.regs ∧ b.inflight = a.inflight ∧ b.loops = []) ∧
  (∀ s, (b.stream? s).map bareStream = (a.stream? s).map bareStream) ∧
  (a.follow = none → b.follow = none ∧ b.bubble = a.bubble ∧ b.status = a.status)

/-- Where an instruction goes on (R221, R268): behind itself, outside the ends of loop levels, or at its target. -/
def GoesOn (a b : Thread) (len : Nat) (next : Next) : Prop :=
  match next with
  | .fall => a.loops = [] → b.pc = a.pc + BitVec.ofNat 32 len
  | .jump x => b.pc = x
  | .set x => b.pc = x

/-- What an instruction's end keeps of a tile: all but the range-lock table, in which the registrations of spent streams are
released, and the threads and positions of followers (R48, R113). -/
def SameTile (a b : Tile) : Prop :=
  ∃ rlt regWait threads cores, b = { a with rlt := rlt, regWait := regWait, threads := threads, cores := cores } ∧
    ∀ c, ∃ positions deal, b.core c = { a.core c with positions := positions, deal := deal }

/-- An instruction of a thread completes: from the state m that its effect leaves, with the thread's context `new`, the machine
goes to t, in which every byte of memory, every other thread's registers and everything outside the thread is as in m but for
followers and released registrations. -/
def Completed (m t : State) (tid : ThreadId) (new : Thread) (stall : BitVec 2) (len : Nat) (next : Next) : Prop :=
  t = { m with tiles := t.tiles } ∧
  (∀ a, memGet t.mem a = memGet m.mem a) ∧
  (∃ th, t.thread? tid = some th ∧ SameContext new th ∧ GoesOn new th len next ∧
    th.stall = (if new.mode = .w1 then 0 else stall.toNat)) ∧
  (∀ u o, u ≠ tid → m.thread? u = some o →
    ∃ follow bubble status, t.thread? u = some { o with follow := follow, bubble := bubble, status := status } ∧
      (o.follow = none → follow = none ∧ bubble = o.bubble ∧ status = o.status)) ∧
  (∀ id tl, m.tile? id = some tl → ∃ tl', t.tile? id = some tl' ∧ SameTile tl tl')

/-! ## Traps -/

/-- A trap of a cause that goes to TVEC is taken (R359 to R361): in a launch that declares a TVEC, outside a handler, the thread's
context keeps everything but TCAUSE, TVAL, TEPC, TSTAT, STEP, following with the bubble at its end, a fence in progress and held stream faults, and goes
on at TVEC, back on the wheel when it was blocked at a FOLLOW; no byte of memory and no other thread's register changes. -/
def TakesTrap (st t : State) (tid : ThreadId) (th : Thread) (cause : Cause) (tval : Word) (pair : Bool) : Prop :=
  ∀ la, st.launchOf tid.tile = some la → la.kernel.tvec ≠ 0xFFFFFFFF#32 → th.tstat.getLsbD 0 = false →
    t.mem = st.mem ∧ (∀ u, u ≠ tid → (t.thread? u).map (·.regs) = (st.thread? u).map (·.regs)) ∧
    ∃ streams status, (th.joining = false → status = th.status) ∧ t.thread? tid = some { th with
      pc := la.kernel.tvec, tcause := BitVec.ofNat 32 cause.code, tval := tval, tepc := th.pc
      tstat := BitVec.ofNat 32 (th.follow.isSome.toNat * 8 + th.step.toNat * 4 + pair.toNat * 2 + 1)
      step := false, follow := none, bubble := th.bubble || th.follow.any (·.joined), fence := none, w1Done := false, symSince := none
      streams := streams, status := status }

/-- A launch fails by a trap of a thread that has nowhere to go (R359, R360): it is cancelled, and its record names the trap as
the first fault, with detail 1 without a TVEC and 2 inside a handler. -/
def FailsLaunch (st t : State) (tid : ThreadId) (th : Thread) (cause : Cause) (tval : Word) : Prop :=
  ∀ la, st.launchOf tid.tile = some la → la.cancelled = false → la.detail = 0 →
    la.kernel.tvec = 0xFFFFFFFF#32 ∨ th.tstat.getLsbD 0 = true →
    ∃ la', t.launchOf tid.tile = some la' ∧ la'.cancelled = true ∧
      la'.detail = (if la.kernel.tvec = 0xFFFFFFFF#32 then 1 else 2) ∧
      la'.fault = some ⟨cause, th.pc, tval, tid.thr, tid.tile.num, st.now⟩

end Sys2Proof.Safety
end

