-- ==== Sys2Proof/Certificates/Slice0/Obligations.lean ====
section
/-! DEFINITION. The statements for the provers. Each says what the machine does in the words of Safety.lean. -/

namespace Sys2Proof

open Sys2Proof.Machine Sys2Proof.Safety

/-! ## Integer instructions (09) -/

/-- The two-register integer forms of Tables 9.1 and 9.2 without a latency, each with its result as a function of A and B. -/
def wordOps2 : List ((BitVec 2 → XField → XField → XField → Instr) × (Word → Word → Word)) := [
  (.add, fun x y => x + y),
  (.sub, fun x y => x - y),
  (.mul, fun x y => x * y),
  (.and, fun x y => x &&& y),
  (.or, fun x y => x ||| y),
  (.xor, fun x y => x ^^^ y),
  (.andn, fun x y => x &&& ~~~y),
  (.slt, fun x y => if x.slt y then 1 else 0),
  (.sltn, fun x y => if x.ult y then 1 else 0),
  (.sll, fun x y => BitVec.ofNat 32 (x.toNat * 2 ^ (y.toNat % 32))),
  (.srl, fun x y => BitVec.ofNat 32 (x.toNat / 2 ^ (y.toNat % 32))),
  (.sra, fun x y => BitVec.ofInt 32 (x.toInt / 2 ^ (y.toNat % 32))),
  (.rotr, fun x y => BitVec.ofNat 32 (x.toNat / 2 ^ (y.toNat % 32) + x.toNat * 2 ^ (32 - y.toNat % 32))),
  (.min, fun x y => BitVec.ofInt 32 (min x.toInt y.toInt)),
  (.max, fun x y => BitVec.ofInt 32 (max x.toInt y.toInt)),
  (.minn, fun x y => BitVec.ofNat 32 (min x.toNat y.toNat)),
  (.maxn, fun x y => BitVec.ofNat 32 (max x.toNat y.toNat)),
  (.mulh, fun x y => ((x.signExtend 64 * y.signExtend 64) >>> 32).setWidth 32),
  (.mulhn, fun x y => ((x.setWidth 64 * y.setWidth 64) >>> 32).setWidth 32)]

/-- The divisions (Table 9.2), each with its result. -/
def divOps : List ((BitVec 2 → XField → XField → XField → Instr) × (Word → Word → Word)) := [
  (.div, fun x y => if y = 0 then BitVec.allOnes 32 else BitVec.sdiv x y),
  (.divn, fun x y => if y = 0 then BitVec.allOnes 32 else x / y),
  (.rem, fun x y => if y = 0 then x else BitVec.srem x y),
  (.remn, fun x y => if y = 0 then x else x % y)]

/-- The one-register bit forms (Table 9.3), each with its result. -/
def bitOps1 : List ((BitVec 2 → XField → XField → Instr) × (Word → Word)) := [
  (.clz, fun x => x.clz),
  (.ctz, fun x => x.reverse.clz),
  (.popc, fun x => x.cpop),
  (.brev, fun x => x.reverse),
  (.bswap, fun x => x.extractLsb' 0 8 ++ x.extractLsb' 8 8 ++ x.extractLsb' 16 8 ++ x.extractLsb' 24 8)]

/-- The immediate forms (R260) as one word, with I extended as Table 8.3 gives. -/
def immOps : List ((BitVec 2 → XField → XField → BitVec 10 → Instr) × (Word → BitVec 10 → Word)) := [
  (.addi, fun x i => x + i.signExtend 32),
  (.andi, fun x i => x &&& i.signExtend 32),
  (.ori, fun x i => x ||| i.setWidth 32),
  (.xori, fun x i => x ^^^ i.signExtend 32),
  (.slti, fun x i => if x.slt (i.signExtend 32) then 1 else 0),
  (.sltni, fun x i => if x.ult (i.signExtend 32) then 1 else 0)]

/-- The shifts and the rotation by an immediate amount (R260). -/
def shiftOps : List ((BitVec 2 → XField → XField → BitVec 5 → Instr) × (Word → BitVec 5 → Word)) := [
  (.slli, fun x k => BitVec.ofNat 32 (x.toNat * 2 ^ k.toNat)),
  (.srli, fun x k => BitVec.ofNat 32 (x.toNat / 2 ^ k.toNat)),
  (.srai, fun x k => BitVec.ofInt 32 (x.toInt / 2 ^ k.toNat)),
  (.rotri, fun x k => BitVec.ofNat 32 (x.toNat / 2 ^ k.toNat + x.toNat * 2 ^ (32 - k.toNat)))]

/-- R257, R258: a two-register integer instruction, of any stall count and for every form of its operands (registers, x0,
streams), completes: d takes the stated function of A and B, each source stream is popped once, in the order a, then b, and
nothing else of the thread, no other thread and no byte of memory changes. -/
def IntegerRegisterForms : Prop :=
  ∀ e ∈ wordOps2, ∀ st s d a b tid th th1 th2 th3 x y, Runs st tid th → NotEarly th [a, b] → Reads th a x th1 → Reads th1 b y th2 →
    Puts st tid th2 d (e.2 x y) th3 →
    ∃ t, exec (e.1 s d a b) st = .next t ∧ Completed st t tid th3 s 4 .fall

/-- R259: the one-register bit instructions. -/
def BitForms : Prop :=
  ∀ e ∈ bitOps1, ∀ st s d a tid th th1 th2 x, Runs st tid th → NotEarly th [a] → Reads th a x th1 →
    Puts st tid th1 d (e.2 x) th2 →
    ∃ t, exec (e.1 s d a) st = .next t ∧ Completed st t tid th2 s 4 .fall

/-- R259: EXTR extracts bits [top:pos] of A, sign-extended when sx is set, and INS replaces those bits of X[d]; MAC adds the
product to X[d] (R258). MAC and INS read d before they write it. -/
def FieldForms : Prop :=
  (∀ st s tid th th1 th2 th3 d a b x y v, Runs st tid th → NotEarly th [a, b] → Reads th a x th1 → Reads th1 b y th2 →
    (∀ i < 32, v.getLsbD i =
      let pos := y.toNat % 32
      let top := min (pos + (y.toNat / 32 % 32 + 1)) 32 - 1
      if i ≤ top - pos then x.getLsbD (pos + i) else y.getLsbD 10 && x.getLsbD top) →
    Puts st tid th2 d v th3 → ∃ t, exec (.extr s d a b) st = .next t ∧ Completed st t tid th3 s 4 .fall) ∧
  (∀ st s tid th th1 th2 d a b x y z v, Runs st tid th → NotEarly th [a, b, d] → Reads th a x th1 → Reads th1 b y th2 →
    d.toNat < th.alloc → th.reg d.toNat = .ready z →
    (∀ i < 32, v.getLsbD i =
      let pos := y.toNat % 32
      let top := min (pos + (y.toNat / 32 % 32 + 1)) 32 - 1
      if pos ≤ i ∧ i ≤ top then x.getLsbD (i - pos) else z.getLsbD i) →
    ∃ t, exec (.ins s d a b) st = .next t ∧ Completed st t tid (th2.setX d.toNat v) s 4 .fall) ∧
  (∀ st s tid th th1 th2 d a b x y z, Runs st tid th → NotEarly th [a, b, d] → Reads th a x th1 → Reads th1 b y th2 →
    d.toNat < th.alloc → th.reg d.toNat = .ready z →
    ∃ t, exec (.mac s d a b) st = .next t ∧ Completed st t tid (th2.setX d.toNat (z + x * y)) s 4 .fall)

/-- R260, R261: the immediate forms and LI as single words. -/
def ImmediateForms : Prop :=
  (∀ e ∈ immOps, ∀ st s d a i tid th th1 th2 x, Runs st tid th → NotEarly th [a] → Reads th a x th1 →
    Puts st tid th1 d (e.2 x i) th2 → ∃ t, exec (e.1 s d a i) st = .next t ∧ Completed st t tid th2 s 4 .fall) ∧
  (∀ e ∈ shiftOps, ∀ st s d a k tid th th1 th2 x, Runs st tid th → NotEarly th [a] → Reads th a x th1 →
    Puts st tid th1 d (e.2 x k) th2 → ∃ t, exec (e.1 s d a k) st = .next t ∧ Completed st t tid th2 s 4 .fall) ∧
  (∀ s d i st tid th th1, Runs st tid th → Puts st tid th d (BitVec.signExtend 32 i) th1 →
    ∃ t, exec (.li s d i) st = .next t ∧ Completed st t tid th1 s 4 .fall)

/-- The comparisons of Table 8.4. -/
def compares : Cond → Word → Word → Bool
  | .eq, x, y => x == y
  | .ne, x, y => x != y
  | .lt, x, y => x.slt y
  | .ge, x, y => y.sle x
  | .ltn, x, y => x.ult y
  | .gen, x, y => y.ule x
  | .anyBit, x, y => x &&& y != 0
  | .noBit, x, y => x &&& y == 0

/-- R262, R263, R240: PCMP and PCMPI write the predicate that the comparison of Table 8.4 gives, ANDed into it for conditions 8 to
15, and p0 discards it; SEL takes A when its predicate is true and B otherwise, and reads both. -/
def PredicateForms : Prop :=
  (∀ st s tid th th1 th2 g c p a b x y, Runs st tid th → NotEarly th [a, b] → Reads th a x th1 → Reads th1 b y th2 →
    ∃ t th3, exec (.pcmp s g c p a b) st = .next t ∧ Completed st t tid th3 s 4 .fall ∧ th3 = { th2 with preds := th3.preds } ∧
      (∀ q, q ≠ p ∨ p = 0 → th3.pred q = th.pred q) ∧ (p ≠ 0 → th3.pred p = (compares c x y && (!g || th.pred p)))) ∧
  (∀ st s tid th th1 g c p a i x, Runs st tid th → NotEarly th [a] → Reads th a x th1 →
    ∃ t th3, exec (.pcmpi s g c p a i) st = .next t ∧ Completed st t tid th3 s 4 .fall ∧ th3 = { th1 with preds := th3.preds } ∧
      (∀ q, q ≠ p ∨ p = 0 → th3.pred q = th.pred q) ∧ (p ≠ 0 → th3.pred p = (compares c x (i.signExtend 32) && (!g || th.pred p)))) ∧
  (∀ st s tid th th1 th2 th3 d a b p x y, Runs st tid th → NotEarly th [a, b] → Reads th a x th1 → Reads th1 b y th2 →
    Puts st tid th2 d (if th.pred p then x else y) th3 →
    ∃ t, exec (.sel s d a b p) st = .next t ∧ Completed st t tid th3 s 4 .fall)

/-! ## Branches, jumps and loops (09) -/

/-- The compare branches (Table 9.4), each with its condition. -/
def branchOps : List ((BitVec 2 → XField → XField → BitVec 10 → Instr) × Cond) := [
  (.beq, .eq), (.bne, .ne), (.blt, .lt), (.bge, .ge), (.bltn, .ltn), (.bgen, .gen)]

/-- R264, R265: a compare branch reads both fields whether or not it is taken, and goes to addr + 4 × off or to the next
instruction; BP reads its predicate. -/
def Branches : Prop :=
  (∀ e ∈ branchOps, ∀ st s a b o tid th th1 th2 x y, Runs st tid th → NotEarly th [a, b] → Reads th a x th1 → Reads th1 b y th2 →
    ∃ t, exec (e.1 s a b o) st = .next t ∧
      Completed st t tid th2 s 4 (if compares e.2 x y then .jump (th.pc + 4 * o.signExtend 32) else .fall)) ∧
  (∀ st s p n o tid th, Runs st tid th →
    ∃ t, exec (.bp s p n o) st = .next t ∧
      Completed st t tid th s 4 (if th.pred p = n then .jump (th.pc + 4 * o.signExtend 32) else .fall))

/-- R266, R267: JAL links in x2 and jumps by off24 words; JALR forms its target from A before it writes the link to d, and ignores
the target's low two bits. -/
def Jumps : Prop :=
  (∀ st s o tid th, Runs st tid th →
    ∃ t, exec (.jal s o) st = .next t ∧ Completed st t tid (th.setX 2 (th.pc + 4)) s 4 (.jump (th.pc + 4 * o.signExtend 32))) ∧
  (∀ st s d a i tid th th1 th2 x, Runs st tid th → NotEarly th [a] → Reads th a x th1 → Puts st tid th1 d (th.pc + 4) th2 →
    ∃ t, exec (.jalr s d a i) st = .next t ∧ Completed st t tid th2 s 4 (.jump ((x + i.signExtend 32) &&& 0xFFFFFFFC)))

/-- R269: a LOOP outside every level, with a ready count other than zero and an index register of the allocation, completes: the body
begins behind it, one level is active, and the index register is cleared. -/
def LoopStarts : Prop :=
  ∀ st s a b o tid th n, Runs st tid th → NotEarly th [a] → a.toNat < th.alloc → th.reg a.toNat = .ready n → n ≠ 0 → b.toNat < th.alloc →
    0 < o.toInt → th.loops = [] →
    ∃ t, exec (.loop s a b o) st = .next t ∧
      Completed st t tid ({ th with loops := [⟨th.pc + 4, th.pc + 4 * o.signExtend 32, n.toNat, 0, b.toNat⟩] }.setX b.toNat 0)
        s 4 (.set (th.pc + 4))

/-- R269: a LOOP whose off10 is 1 to 511 pushes a level that starts behind it and ends at E = addr + 4 × off10, with the count, iteration 0
and its index register cleared; with a count of zero no level is pushed, and the thread goes on behind E, where a level that ends there too
counts an iteration (R270). With two levels active, or a level whose end lies before E, it traps ILLEGAL with the LOOP word. -/
def LoopPushes : Prop :=
  (∀ st s a b o tid th w, Runs st tid th → NotEarly th [a] → a.toNat < th.alloc → th.reg a.toNat = .ready w → b.toNat < th.alloc → 0 < o.toInt →
    2 ≤ th.loops.length ∨ (∃ l, th.loops = [l] ∧ l.stop < th.pc + 4 * o.signExtend 32) →
    ∃ t, exec (.loop s a b o) st = .next t ∧
      TakesTrap st t tid th .illegal (BitVec.ofNat 32 (encodeWord (.loop s a b o))) false) ∧
  ∀ st s a b o tid th th1 n, Runs st tid th → NotEarly th [a] → Reads th a n th1 → b.toNat < th.alloc → 0 < o.toInt →
    let stop := th.pc + 4 * o.signExtend 32
    (th.loops = [] ∨ ∃ l, th.loops = [l] ∧ stop ≤ l.stop) →
    ∃ t, exec (.loop s a b o) st = .next t ∧
      (n ≠ 0 → Completed st t tid ({ th1 with loops := ⟨th.pc + 4, stop, n.toNat, 0, b.toNat⟩ :: th.loops }.setX b.toNat 0)
        s 4 (.set (th.pc + 4))) ∧
      (n = 0 → (∀ l ∈ th.loops, l.stop ≠ stop) → Completed st t tid th1 s 4 (.set (stop + 4))) ∧
      (n = 0 → ∀ l, th.loops = [l] → l.stop = stop →
        (1 < l.left → Completed st t tid ({ th1 with loops := [{ l with left := l.left - 1, iter := l.iter + 1 }] }.setX l.index (l.iter + 1))
          s 4 (.set l.start)) ∧
        (l.left ≤ 1 → Completed st t tid { th1 with loops := [] } s 4 (.set (stop + 4))))

/-- R270: the instruction at the end of the innermost level counts an iteration: it goes back to the level's start with the index
register at the iteration number, or, after the last one, goes on behind the end with the level popped; two levels that share
the end are counted one after the other. Said of an instruction that has completed otherwise, with its context `th`. -/
def LoopEnd : Prop :=
  ∀ (th : Thread) len l ls, th.loops = l :: ls → th.pc ≤ l.stop → l.stop < th.pc + BitVec.ofNat 32 len →
    (1 < l.left → (th.advance len .fall).pc = l.start ∧
      (th.advance len .fall).loops = { l with left := l.left - 1, iter := l.iter + 1 } :: ls ∧
      (l.index ≠ 0 → (th.advance len .fall).reg l.index = .ready (l.iter + 1))) ∧
    (l.left ≤ 1 → ls = [] → (th.advance len .fall).pc = l.stop + 4 ∧ (th.advance len .fall).loops = []) ∧
    (∀ o, l.left ≤ 1 → ls = [o] → o.stop = l.stop → 1 < o.left → (th.advance len .fall).pc = o.start ∧
      (th.advance len .fall).loops = [{ o with left := o.left - 1, iter := o.iter + 1 }])

/-- R271: a taken transfer from inside a level to outside it ends that level and every level inside it; one to inside leaves every
level active with its count. -/
def LoopLeave : Prop :=
  ∀ (th : Thread) len x, let inside := fun (l : LoopLevel) a => l.start ≤ a ∧ a ≤ l.stop
    ((∀ l ∈ th.loops, inside l th.pc → inside l x) → (th.advance len (.jump x)).loops = th.loops) ∧
    (∀ outer l inner, th.loops = inner ++ l :: outer → inside l th.pc → ¬ inside l x → (∀ o ∈ outer, inside o th.pc → inside o x) →
      (th.advance len (.jump x)).loops = outer)

/-- A field of a pair's second word, with the pair's 32-bit value (R227): IMX.imm22 above the low ten bits. -/
def pairImm (hi : BitVec 22) (lo : BitVec 10) : Word := hi ++ lo

/-- The immediate forms that a pair extends (R260), with their functions. -/
def pairOps : List ((BitVec 2 → XField → XField → BitVec 10 → Instr) × (Word → Word → Word)) := [
  (.addi, fun x v => x + v), (.andi, fun x v => x &&& v), (.ori, fun x v => x ||| v), (.xori, fun x v => x ^^^ v),
  (.slti, fun x v => if x.slt v then 1 else 0), (.sltni, fun x v => if x.ult v then 1 else 0)]

/-! ## Floating point and special functions (09) -/

/-- A NaN by its bits, and a signalling one (R130). -/
def isNaN (x : Word) : Bool := x.extractLsb' 23 8 == 0xFF && x.extractLsb' 0 23 != 0

/-- A signalling NaN by its bits. -/
def isSNaN (x : Word) : Bool := isNaN x && !x.getLsbD 22

/-- The two-register floating-point forms that are ready at once (Tables 9.5 and 9.6, R274), with their results and flags. -/
def fpOps2 : List ((BitVec 2 → XField → XField → XField → Instr) × (Word → Word → FRes)) := [
  (.fadd, fAdd), (.fsub, fSub), (.fmul, fMul), (.fmin, fMin), (.fmax, fMax),
  (.fsgn, fun x y => ⟨y.extractLsb' 31 1 ++ x.extractLsb' 0 31, 0⟩),
  (.feq, fEq), (.flt, fLt), (.fle, fLe),
  (.funord, fun x y => ⟨if isNaN x || isNaN y then 1 else 0, if isSNaN x || isSNaN y then fNV else 0⟩)]

/-- The one-register floating-point forms that are ready at once (Table 9.6). -/
def fpOps1 : List ((BitVec 2 → XField → XField → Instr) × (Word → FRes)) := [
  (.fcvtfi, fCvtFi), (.fcvtif, fCvtInt true), (.fcvtifz, fCvtInt false), (.fclass, fClass), (.fbf, fBf),
  (.fbfx, fun x => ⟨x.extractLsb' 0 16 ++ 0#16, 0⟩)]

/-- R161, R162, R157: on a pending register, ADD transforms its coefficients and FADD appends to its exact log, without waiting; the
instruction completes and its result stays pending on the same symbol. -/
def PendingTransforms : Prop :=
  (∀ st s d a b tid th r e w p α β, Runs st tid th → NotEarly th [a, b] → a.toNat < th.alloc → b.toNat < th.alloc → d.toNat < th.alloc →
    th.reg a.toNat = .pending e w (.int α β) p → th.reg b.toNat = .ready r → α ≠ 0 →
    (∃ t, exec (.add s d a b) st = .next t ∧ Completed st t tid (th.setReg d.toNat (.pending e w (.int α (β + r)) p)) s 4 .fall) ∧
    (∃ t, exec (.sub s d a b) st = .next t ∧ Completed st t tid (th.setReg d.toNat (.pending e w (.int α (β - r)) p)) s 4 .fall) ∧
    (α * r ≠ 0 → ∃ t, exec (.mul s d a b) st = .next t ∧
      Completed st t tid (th.setReg d.toNat (.pending e w (.int (α * r) (β * r)) p)) s 4 .fall)) ∧
  (∀ st s d a b tid th r e w p log, Runs st tid th → NotEarly th [a, b] → a.toNat < th.alloc → b.toNat < th.alloc → d.toNat < th.alloc →
    th.fold = false → th.reg a.toNat = .pending e w (.exact log) p → th.reg b.toNat = .ready r → log.length < 3 →
    (∃ t, exec (.fadd s d a b) st = .next t ∧
      Completed st t tid (th.setReg d.toNat (.pending e w (.exact (log ++ [(.add, r)])) p)) s 4 .fall) ∧
    (∃ t, exec (.fsub s d a b) st = .next t ∧
      Completed st t tid (th.setReg d.toNat (.pending e w (.exact (log ++ [(.sub, r)])) p)) s 4 .fall) ∧
    (∃ t, exec (.fmul s d a b) st = .next t ∧
      Completed st t tid (th.setReg d.toNat (.pending e w (.exact (log ++ [(.mul, r)])) p)) s 4 .fall))

/-- R149, R160: the value that a pending register takes when its symbol resolves to v: α × v + β modulo 2^32 for the integer form, v
itself for a neutral one, and the log replayed in order for the exact one. -/
def PendingResolves : Prop :=
  (∀ v, (PendKind.neutral.resolve v).bits = v) ∧ (∀ a b v, ((PendKind.int a b).resolve v).bits = a * v + b) ∧
  (∀ v, ((PendKind.exact []).resolve v).bits = v) ∧
  (∀ log v r, ((PendKind.exact (log ++ [(.add, r)])).resolve v).bits = (fAdd ((PendKind.exact log).resolve v).bits r).bits) ∧
  (∀ log v r, ((PendKind.exact (log ++ [(.mul, r)])).resolve v).bits = (fMul ((PendKind.exact log).resolve v).bits r).bits) ∧
  (∀ log v r, ((PendKind.exact (log ++ [(.sub, r)])).resolve v).bits = (fSub ((PendKind.exact log).resolve v).bits r).bits) ∧
  (∀ log v r, ((PendKind.exact (log ++ [(.rsub, r)])).resolve v).bits = (fSub r ((PendKind.exact log).resolve v).bits).bits)

/-- The integer forms of two registers that block on a pending one (R255). -/
def blockingOps : List (BitVec 2 → XField → XField → XField → Instr) := [
  .and, .or, .xor, .andn, .slt, .sltn, .sll, .srl, .sra, .min, .max, .minn, .maxn, .rotr, .mulh, .mulhn, .mac, .div, .divn, .rem, .remn,
  .extr, .ins, .fmin, .fmax, .fdiv, .fsgn, .ffma, .ffms, .feq, .flt, .fle, .funord]

/-- R158, R33: an instruction marked B whose a names a register that is pending and not poisoned leaves the wheel until it is
ready, with no effect on its context, on another thread's registers or on memory. -/
def PendingBlocks : Prop :=
  ∀ i ∈ blockingOps, ∀ st s d a b tid th e w k, Runs st tid th → NotEarly th [a, b, d] → a.toNat < th.alloc → b.toNat < th.alloc →
    d.toNat < th.alloc → th.reg a.toNat = .pending e w k false →
    ∃ t, exec (i s d a b) st = .next t ∧ t = { st with tiles := t.tiles } ∧
      t.thread? tid = some { th with status := .off (.reg a.toNat) st.clock } ∧ ∀ u, u ≠ tid → t.thread? u = st.thread? u

/-- The special functions (Table 8.5). -/
def sfunOps : List ((BitVec 2 → XField → XField → Instr) × SfFn) := [
  (.sfunExp2, .exp2), (.sfunLog2, .log2), (.sfunRcp, .rcp), (.sfunRsqrt, .rsqrt), (.sfunSinpi, .sinpi), (.sfunCospi, .cospi),
  (.sfunTanh, .tanh), (.sfunSigmoid, .sigmoid)]

/-- The hint words with an action, which reads b, and those that only copy (R247, R248). -/
def hintOps : List ((BitVec 2 → XField → XField → XField → Instr) × Bool) := [
  (.pref, true), (.tclass, true), (.brhint, true), (fun s d a b => .hintFallback s d a b 5 false, false),
  (fun s d a b => .hintFallback s d a b 2 true, false)]

/-! ## Memory (10, 02, 03) -/

/-- Where an access stands when it has been issued (R75, R86): on its way to a peer's berth, or at its visibility point. -/
def issuedAt (p : Place) (own : TileId) : AccState := if p.isPeer own then .travelling else .arrived

/-- A register's context apart from what a memory access changes of it: d, the TOUCH bits and the acquire holds (R97, R101). -/
def AccessContext (th new : Thread) (d : XField) (r : RegState) : Prop :=
  new = { th with regs := new.regs, inflight := new.inflight, touch := new.touch, acqHold := new.acqHold } ∧
  (d ≠ 0 → new.reg d.toNat = r) ∧ ∀ n, n ≠ d.toNat → new.reg n = th.reg n

/-- R281, R283: an LD whose element lies at a place, in any space and any owner's tile, issues: a symbol is allocated, d is pending
on it in the neutral state, one read of the element's bytes enters the performance order, an ordered load sets the acquire
hold, and no byte of memory changes. (A load whose bytes the thread's own combining buffer holds is R88's.) -/
def LoadsIssue : Prop :=
  ∀ st s d c l mig z o tid th la num space off code p st1 entry, Runs st tid th → st.launchOf tid.tile = some la →
    let k := la.kernel
    let e := k.entryOf l.toNat
    Ranges th [(c, coordCount k l.toNat), (d, 1)] → MayAccess th (rangeFields c (coordCount k l.toNat)) →
    Located tid th k l.toNat c .read (.byte num space off code) → e.packed = false → (z = true → e.elem = 0 ∨ e.elem = 1) →
    (mig = true → num = tid.tile.num) → (th.mode = .w1 → o ≠ .ord) →
    placeOf st tid th k l.toNat 0 num space off true false = .ok (p, st1) → checkLock st1 tid p e.size 0 false = .ok () →
    symbolSlot st1 tid = .ok entry → (∀ va pa, p = .rim va pa → ∀ b ∈ bufferedBytes st1 tid va e.size, b = none) →
    0 < e.size → st1.thread? tid = some th →
    ∃ m t new, exec (.ld s d c l mig z o) st = .next t ∧ Completed m t tid new s 4 .fall ∧
      AccessContext th new d (.pending entry 0 .neutral false) ∧
      new.acqHold = (if o = .ord ∨ o = .ordw then [entry] else []) ∧ m.mem = st1.mem ∧
      ∃ n, m.accesses = st1.accesses ++
        [⟨n, .thread tid, p, e.size, .load, none, widenOf e.elem z, some (tid.thr / 64, entry), none, issuedAt p tid.tile, false⟩]

/-- R285, R77: an ST of a ready register whose element lies at a place issues: one write of the low bits of X[d] enters the
performance order, or the combining buffer for a rim place (R88), and no byte of memory changes yet. An ordered store does so once
its release is complete (R103). -/
def StoresIssue : Prop :=
  ∀ st s d c l o tid th la num space off code p st1 v, Runs st tid th → st.launchOf tid.tile = some la →
    let k := la.kernel
    let e := k.entryOf l.toNat
    Ranges th [(c, coordCount k l.toNat), (d, 1)] → MayAccess th (rangeFields c (coordCount k l.toNat) ++ [d]) →
    Located tid th k l.toNat c .write (.byte num space off code) → th.reg d.toNat = .ready v → e.packed = false → e.space ≠ 3 →
    (th.mode = .w1 → o ≠ .ord) →
    placeOf st tid th k l.toNat 0 num space off false true = .ok (p, st1) → checkLock st1 tid p e.size 0 true = .ok () →
    (o = .ord ∨ o = .ordw → Quiet st1 tid th) → st1.thread? tid = some th → th.lines.length < 8 →
    ∃ m t new, exec (.st s d c l o) st = .next t ∧ Completed m t tid new s 4 .fall ∧
      new = { th with touch := new.touch, lines := new.lines, peerOut := new.peerOut, fence := new.fence } ∧ m.mem = st1.mem ∧
      ∃ n w, m.accesses = st1.accesses ++ [⟨n, .thread tid, p, e.size, .store, some (storeBits e.elem v), w, none, none,
        match p with | .rim _ _ => .buffered | _ => issuedAt p tid.tile, false⟩]

/-- The atomics (R286), each with its acquire and its release half. -/
def amoOps : List ((BitVec 2 → XField → XField → LEntry → AmoOp → Instr) × Bool × Bool) := [
  (.amoRlx, false, false), (.amoAcq, true, false), (.amoRel, false, true), (.amoAr, true, true)]

/-- R286 to R288: an atomic of 32 bits that Table 10.2 allows issues: it allocates a symbol, leaves d pending on it, and enters the
performance order as one read-modify-write with X[d] and, for CAS, X[d + 1]; an acquire sets the hold, and a release has
completed before. -/
def AtomicsIssue : Prop :=
  ∀ e ∈ amoOps, ∀ st s d c l op tid th la num space off code p st1 entry v cas, Runs st tid th → st.launchOf tid.tile = some la →
    let k := la.kernel
    let dw := if op = .cas then 2 else 1
    Ranges th [(c, coordCount k l.toNat), (d, dw)] →
    MayAccess th (rangeFields c (coordCount k l.toNat) ++ rangeFields d dw) →
    Located tid th k l.toNat c .both (.byte num space off code) → th.reg d.toNat = .ready v →
    (if op = .cas then th.reg (d.toNat + 1) = .ready cas else cas = 0) → amoAllowed op (k.entryOf l.toNat) = true →
    placeOf st tid th k l.toNat 0 num space off true true = .ok (p, st1) → checkLock st1 tid p 4 0 true = .ok () →
    symbolSlot st1 tid = .ok entry → (e.2.2 = true → Quiet st1 tid th) → st1.thread? tid = some th → th.lines = [] →
    ∃ m t new, exec (e.1 s d c l op) st = .next t ∧ Completed m t tid new s 4 .fall ∧
      new = { th with regs := new.regs, inflight := new.inflight, touch := new.touch, acqHold := new.acqHold,
                      peerOut := new.peerOut, fence := new.fence } ∧
      (d ≠ 0 → new.reg d.toNat = .pending entry 0 .neutral false) ∧ (∀ n, n ≠ d.toNat → new.reg n = th.reg n) ∧
      new.acqHold = (if e.2.1 then [entry] else []) ∧ m.mem = st1.mem ∧
      ∃ n w, m.accesses = st1.accesses ++
        [⟨n, .thread tid, p, 4, .amo op cas, some v, w, some (tid.thr / 64, entry), none, issuedAt p tid.tile, false⟩]

/-- R287: the value that an atomic leaves in memory, from the old value, the operand and, for CAS, the new value; none where it writes
nothing (R288). -/
def amoLeaves : AmoOp → Word → Word → Word → Option Word
  | .swap, _, v, _ => some v
  | .add, old, v, _ => some (old + v)
  | .and, old, v, _ => some (old &&& v)
  | .or, old, v, _ => some (old ||| v)
  | .xor, old, v, _ => some (old ^^^ v)
  | .min, old, v, _ => some (if old.slt v then old else v)
  | .max, old, v, _ => some (if old.slt v then v else old)
  | .minn, old, v, _ => some (if old.ult v then old else v)
  | .maxn, old, v, _ => some (if old.ult v then v else old)
  | .cas, old, v, new => if old = v then some new else none
  | .fadd, old, v, _ => some (fAdd old v).bits

/-- The fences (R290), with whether they release. -/
def fenceOps : List ((BitVec 2 → Scope → Instr) × Bool) := [(.fenceFull, true), (.fenceAcq, false), (.fenceRel, true), (.fenceAlias, true)]

/-- The word count of a message (R292). -/
def sizeWords : MsgSize → Nat
  | .w1 => 1 | .w2 => 2 | .w4 => 4 | .w8 => 8

/-- R292, R293: a SEND with ready words and a destination in the grid puts its message, with the sender's tile number, at the tail
of its core's outbound queue when that holds fewer than 8; SEND.rel does so once its release is complete. A destination outside
the grid traps BOUNDS with the tile number in TVAL. -/
def Sends : Prop :=
  ∀ st s d c l w tid th la tl dst (ws : List Word), Runs st tid th → st.launchOf tid.tile = some la → st.tile? tid.tile = some tl →
    let n := sizeWords w
    Ranges th [(c, 1), (d, n)] → MayAccess th (c :: rangeFields d n) → th.reg c.toNat = .ready dst → ws.length = n →
    (∀ i < n, th.reg (d.toNat + i) = .ready (ws.getD i 0#32)) →
    (¬ (dst.toNat % 4096 < la.kernel.vx ∧ dst.toNat / 4096 < la.kernel.vy) →
      ∃ t, exec (.send s d c l w) st = .next t ∧ TakesTrap st t tid th .bounds dst false) ∧
    (dst.toNat % 4096 < la.kernel.vx → dst.toNat / 4096 < la.kernel.vy → (tl.core (tid.thr / 64)).outbound.length < 8 →
    (∃ m t, exec (.send s d c l w) st = .next t ∧ Completed m t tid th s 4 .fall ∧ m.mem = st.mem ∧ ∃ tl', m.tile? tid.tile = some tl' ∧
      (tl'.core (tid.thr / 64)).outbound = (tl.core (tid.thr / 64)).outbound ++ [⟨BitVec.ofNat 32 tid.tile.num, dst, l.toNat, ws, tid.thr, st.nextId⟩]) ∧
    (Quiet st tid th → ∃ m t, exec (.sendRel s d c l w) st = .next t ∧ Completed m t tid th s 4 .fall ∧ m.mem = st.mem ∧
      ∃ tl', m.tile? tid.tile = some tl' ∧
      (tl'.core (tid.thr / 64)).outbound = (tl.core (tid.thr / 64)).outbound ++ [⟨BitVec.ofNat 32 tid.tile.num, dst, l.toNat, ws, tid.thr, st.nextId⟩]))

/-- The receives, with whether they acquire (R294). -/
def recvOps : List ((BitVec 2 → XField → LEntry → MsgSize → Instr) × Bool) := [(.recv, false), (.recvAcq, true)]

/-- R294: a RECV posts itself behind the RECVs of its tile, with one symbol, and leaves registers d to d + w − 1 pending on its
words; an acquire sets the hold. It takes no message itself when none waits in the inbox. -/
def Receives : Prop :=
  ∀ e ∈ recvOps, ∀ st s d l w tid th tl entry, Runs st tid th → st.tile? tid.tile = some tl → tl.inbox = [] →
    let n := sizeWords w
    Ranges th [(d, n)] → MayAccess th [] → symbolSlot st tid = .ok entry →
    ∃ m t new, exec (e.1 s d l w) st = .next t ∧ Completed m t tid new s 4 .fall ∧ m.mem = st.mem ∧
      new = { th with regs := new.regs, inflight := new.inflight, acqHold := new.acqHold } ∧
      (∀ i < n, d.toNat + i ≠ 0 → new.reg (d.toNat + i) = .pending entry i .neutral false) ∧
      (∀ r, r < d.toNat ∨ d.toNat + n ≤ r → new.reg r = th.reg r) ∧ new.acqHold = (if e.2 then [entry] else []) ∧
      ∃ tl', m.tile? tid.tile = some tl' ∧ tl'.inbox = [] ∧ tl'.recvs = tl.recvs ++ [⟨l.toNat, n, tid.thr / 64, entry, none⟩]

/-- R295: a RECV of w words takes word j of its message for each j below both lengths, and zero beyond the message's. -/
def ReceivedWords : Prop :=
  ∀ n m j, j < n → (recvWords n m).getD j 0#32 = (if j < m.words.length then m.words.getD j 0#32 else 0#32)

/-- R297: a CPY with a ready descriptor and nothing to release enters its queue as its last command when the queue holds fewer than
16, with one symbol that d is pending on; it reads and writes no memory. -/
def CopiesIssue : Prop :=
  ∀ st s d c tid th la tl (ws : List Word) entry, Runs st tid th → st.launchOf tid.tile = some la → st.tile? tid.tile = some tl →
    Ranges th [(c, 8), (d, 1)] → MayAccess th (rangeFields c 8) → ws.length = 8 →
    (∀ i < 8, th.reg (c.toNat + i) = .ready (ws.getD i 0#32)) → Quiet st tid th → symbolSlot st tid = .ok entry →
    let q := ((ws.getD 0 0#32).extractLsb' 16 2).toNat
    (tl.copyQ.getD q []).length < 16 →
    ∃ m t, exec (.cpy s d c) st = .next t ∧ Completed m t tid (th.setReg d.toNat (.pending entry 0 .neutral false)) s 4 .fall ∧
      m.mem = st.mem ∧ m.accesses = st.accesses ∧ ∃ tl' n, m.tile? tid.tile = some tl' ∧
        tl'.copyQ.getD q [] = tl.copyQ.getD q [] ++ [⟨n, tid.thr, entry, ws, false, [], 0, none, none, false⟩]

/-- The stream bindings, with whether they write (R299). -/
def bindOps : List ((BitVec 2 → BitVec 3 → XField → LEntry → Instr) × Bool) := [(.sbindR, false), (.sbindW, true)]

/-- R299 to R301, R174: SBIND binds its stream register to the pattern of its block, at position 0 with nothing fetched; SCTL.pos
writes a stream's position, or all ones when it is unbound; SCTL.unbind of a drained or unbound stream ends the binding. -/
def StreamBindings : Prop :=
  (∀ e ∈ bindOps, ∀ st s m c l tid th la (ws : List Word), Runs st tid th → st.launchOf tid.tile = some la →
    let k := la.kernel
    let en := k.entryOf l.toNat
    let w := if en.space = 2 ∧ entryField (k.dist.getD en.dist 0) 126 2 = 0 then 13 else 12
    Ranges th [(c, w)] → MayAccess th (rangeFields c w) → ws.length = w → (∀ i < w, th.reg (c.toNat + i) = .ready (ws.getD i 0#32)) →
    sbindCheck st tid th k m.toNat (patternOf e.2 l.toNat en.rank ws) = none →
    ∃ u t new, exec (e.1 s m c l) st = .next t ∧ Completed u t tid new s 4 .fall ∧ u.mem = st.mem ∧
      new = { th with streams := new.streams } ∧ (∀ n, n ≠ m.toNat → new.stream? n = th.stream? n) ∧
      ∃ ids, new.stream? m.toNat = some { patternOf e.2 l.toNat en.rank ws with regs := ids }) ∧
  (∀ st s d m tid th th1, Runs st tid th →
    Puts st tid th d (match th.stream? m.toNat with | some b => BitVec.ofNat 32 b.pos | none => 0xFFFFFFFF#32) th1 →
    ∃ t, exec (.sctlPos s d m) st = .next t ∧ Completed st t tid th1 s 4 .fall) ∧
  (∀ st s m tid th, Runs st tid th → th.streamDrained m.toNat = true →
    ∃ u t new, exec (.sctlUnbind s m) st = .next t ∧ Completed u t tid new s 4 .fall ∧ u.mem = st.mem ∧
      new = { th with streams := new.streams } ∧ new.stream? m.toNat = none ∧ ∀ n, n ≠ m.toNat → new.stream? n = th.stream? n)

/-! ## Threads, traps and the system (13) -/

/-- An IMX word with S and bits [23:22] zero lies at a byte offset of a thread's code section, with a second word that takes a prefix
(Table 13.3, R227, R229). -/
def pairLies (st : State) (tid : ThreadId) (pc : Word) : Bool :=
  match st.launchOf tid.tile with
  | none => false
  | some la =>
    let key := codeKey tid.tile.part tid.tile.slot pc.toNat
    decide (pc.toNat + 8 ≤ la.kernel.codeSize) && memRead st.mem key 4 / 2 ^ 22 == 0xFC && acceptsImx (memRead st.mem (key + 4) 4)

/-- The CSRs of the thread and its launch (Table 13.4, and those of R472 for privileged code), each with the word that a thread reads. -/
def csrReads : List (Nat × (Nat → Nat → Thread → Kernel → Word)) := [
  (0x000, fun thr _ _ _ => BitVec.ofNat 32 thr),
  (0x001, fun _ num _ _ => BitVec.ofNat 32 num),
  (0x002, fun _ _ _ k => BitVec.ofNat 32 ((k.vy - 1) * 4096 + (k.vx - 1))),
  (0x003, fun _ _ t _ => t.fmt),
  (0x004, fun _ _ t _ => t.scp),
  (0x005, fun _ _ t _ => BitVec.ofNat 32 (t.step.toNat * 16 + t.migok.toNat * 4 + t.fold.toNat * 2 + t.sbchk.toNat)),
  (0x00C, fun _ _ t _ => t.mls.setWidth 32),
  (0x00D, fun _ _ t _ => (t.mls >>> 32).setWidth 32),
  (0x00E, fun _ _ t _ => t.touch.setWidth 32),
  (0x00F, fun _ _ t _ => (t.touch >>> 32).setWidth 32),
  (0x018, fun _ _ t _ => t.tcause),
  (0x019, fun _ _ t _ => t.tepc),
  (0x01A, fun _ _ t _ => t.tval),
  (0x01B, fun _ _ t _ => t.tstat),
  (0x01C, fun _ _ _ k => k.tvec),
  (0x800, fun _ _ t _ => t.fva.setWidth 32),
  (0x801, fun _ _ t _ => (t.fva >>> 32).setWidth 32),
  (0x802, fun _ _ t _ => t.finfo)]

/-- The CSRs of the core, berth, field and partition of a thread (Table 13.4, Tables 2.5, 6.1 and 13.6), each with the word that a
thread reads. -/
def csrPlaces (st : State) (tid : ThreadId) (tl : Tile) (b : Nat) : List (Nat × Word) :=
  let core := tid.thr / 64
  let field := st.field (b / 72 / 14 * 6 + b % 72 / 12)
  let part := st.part tid.tile.part
  let waitn := ((List.range 8).filter fun c => c != core && tl.requests c).length
  [(0x008, BitVec.ofNat 32 field.time), (0x009, BitVec.ofNat 32 (field.time / 2 ^ 32)),
   (0x00A, BitVec.ofNat 32 ((if (field.time + 25600 - (st.berth b).edPhase % 25600) % 25600 < 400 then 2 ^ 15 else 0) + (st.berth b).edPhase % 2 ^ 15)),
   (0x00B, BitVec.ofNat 32 ((tl.arr.holder == some core).toNat * 2 ^ 31 + tl.arr.holder.getD 0 * 2 ^ 28 + waitn * 2 ^ 25 +
     (tl.core core).plost.toNat * 2 ^ 24 + min tl.arr.cmds 32 * 2 ^ 18 + min tl.arr.cyc 16384 * 2 ^ 3 + tl.arr.holder.isSome.toNat * 2 ^ 2)),
   (0x010, BitVec.ofNat 32 ((field.weirLimit != 0).toNat * 2 ^ 17 + ((tl.core core).positions.any fun q => !q.enabled).toNat * 2 ^ 16 +
     part.last * 2 ^ 8 + part.sticky.toNat)),
   (0x011, BitVec.ofInt 32 part.lastTime), (0x012, BitVec.ofInt 32 (part.lastTime / 2 ^ 32))]

/-- The user CSRs that a thread can write (Table 13.4, Tables 13.2, 13.3 and 13.5), each with what its write changes; reserved bits of
the trap registers, and MIGOK from 0 to 1, are not written. -/
def csrWrites : List (Nat × (Thread → Word → Thread)) := [
  (0x004, fun t v => { t with scp := v }),
  (0x005, fun t v => { t with
    step := v.getLsbD 4, migok := t.migok && v.getLsbD 2, fold := v.getLsbD 1, sbchk := v.getLsbD 0 }),
  (0x006, fun t v => { t with fflags := v.setWidth 5 }),
  (0x00C, fun t v => { t with mls := (t.mls >>> 32).setWidth 32 ++ (v &&& 0xFFE007FF#32) }),
  (0x00D, fun t v => { t with mls := v ++ t.mls.setWidth 32 }),
  (0x018, fun t v => { t with tcause := v &&& 0x11F#32 }),
  (0x019, fun t v => { t with tepc := v }),
  (0x01A, fun t v => { t with tval := v }),
  (0x01B, fun t v => { t with tstat := v &&& 0xF#32 })]

/-- The user CSRs that a write leaves alone (Table 13.4). -/
def csrReadOnly : List Nat :=
  [0x000, 0x001, 0x002, 0x003, 0x008, 0x009, 0x00A, 0x00E, 0x00F, 0x010, 0x011, 0x012, 0x01C] ++
    (List.range 30).map (0x040 + ·) ++ (List.range 49).map (0x060 + ·)

/-- R370: a TSPAWN with nothing to release creates a child in a free slot of the core that its block names, which starts at ENTRY with
an allocation of 8 × (REGS + 1) registers, the arguments in x4 to x7, and its creator's FMT, SCP, SBCHK, FOLD, decode mode, task
and MIGOK from MIGR; d takes its THRID, and all ones when the core has no room, in which case nothing is created. -/
def ThreadsSpawn : Prop :=
  ∀ st s d a tid th la tl (ws : List Word), Runs st tid th → st.launchOf tid.tile = some la → st.tile? tid.tile = some tl →
    la.cancelled = false → Ranges th [(a, 6)] → NotEarly th (rangeFields a 6) → d.toNat < th.alloc → ws.length = 6 →
    (∀ i < 6, th.reg (a.toNat + i) = .ready (ws.getD i 0#32)) → Quiet st tid th →
    let w := ws.getD 5 0#32
    let core := (w.extractLsb' 8 3).toNat
    let n := ((w.extractLsb' 24 4).toNat + 1) * 8
    w.getLsbD 11 = false →
    (tl.canTake n core = false →
      ∃ t, exec (.tspawn s d a) st = .next t ∧ Completed st t tid (th.setX d.toNat 0xFFFFFFFF#32) s 4 .fall) ∧
    (tl.canTake n core = true →
      ∃ m t thr child, exec (.tspawn s d a) st = .next t ∧ Completed m t tid (th.setX d.toNat (BitVec.ofNat 32 thr)) s 4 .fall ∧
        m = { st with tiles := m.tiles } ∧ thr / 64 = core ∧ thr < 511 ∧ st.thread? ⟨tid.tile, thr⟩ = none ∧
        m.thread? ⟨tid.tile, thr⟩ = some child ∧
        (∀ u, u ≠ tid → u ≠ ⟨tid.tile, thr⟩ → m.thread? u = st.thread? u) ∧
        child.pc = ws.getD 0 0#32 &&& 0xFFFFFFFC#32 ∧ child.alloc = n ∧ child.base + n ≤ 2048 ∧
        (∀ i < 4, child.reg (4 + i) = .ready (ws.getD (1 + i) 0#32)) ∧ child.reg 2 = .ready la.kernel.exit ∧
        child.fmt = th.fmt ∧ child.scp = th.scp ∧ child.sbchk = th.sbchk ∧ child.fold = th.fold ∧ child.mode = th.mode ∧
        child.migok = w.getLsbD 17 ∧ child.task = th.task ∧ child.parent = some tid.thr ∧ child.priv = th.priv)

/-- Nothing that TEXIT and TASKGET wait for is left (R371): the thread has no symbol-table entry, queued vector instruction, matrix
command, undrained write stream, buffered or unperformed rim store, or child. -/
def NothingLeft (st : State) (tid : ThreadId) (th : Thread) : Prop :=
  st.symCount tid = 0 ∧ (∀ n c, th.claim = some n → st.vec? tid.tile n = some c → c.queue = [] ∧ c.stop = none) ∧
  st.cmdsOf tid = [] ∧ (∀ m < 8, th.streamDrained m = true) ∧ th.lines = [] ∧
  (∀ a ∈ st.accesses, a.agent = .thread tid → a.kind ≠ .load → ∀ va pa, a.place ≠ .rim va pa) ∧
  (∀ tl, st.tile? tid.tile = some tl → ∀ e ∈ tl.threads, e.2.parent ≠ some tid.thr)

/-- A launch goes on: it is not cancelled, and no tile waits at its grid barrier. -/
def GoesOnRunning (la : Launch) : Prop := la.cancelled = false ∧ la.arrived = []

/-- Two memories agree but for a launch's counter block, which the device writes (R436). -/
def KeepsMemory (st t : State) (la : Launch) : Prop :=
  ∀ x, (∀ pa, la.counter = some pa → x < memKey 2 0 pa ∨ memKey 2 0 pa + 64 ≤ x) → memGet t.mem x = memGet st.mem x

/-- R371, R30, R372: a TEXIT with nothing left to wait for ends the thread, and its task, unless it was spawned, is counted among the
launch's retirements; no other thread's register changes, and, while another thread of the tile lives, no byte of memory but in the counter block. TYIELD
deals the thread afresh to the position that the dealing pointer names. -/
def ThreadsEnd : Prop :=
  (∀ st s tid th la tl e, Runs st tid th → NothingLeft st tid th → st.launchOf tid.tile = some la → GoesOnRunning la →
    st.tile? tid.tile = some tl → e ∈ tl.threads → e.1 ≠ tid.thr →
    ∃ t la', exec (.texit s) st = .next t ∧ t.thread? tid = none ∧ KeepsMemory st t la ∧
      (∀ u, u ≠ tid → (t.thread? u).map (·.regs) = (st.thread? u).map (·.regs)) ∧ t.launchOf tid.tile = some la' ∧
      la'.members + la'.retiring.length =
        la.members + la.retiring.length + (if th.task.isSome ∧ th.parent = none then 1 else 0)) ∧
  (∀ st s tid th tl, Runs st tid th → st.tile? tid.tile = some tl →
    let c := tl.core (tid.thr / 64)
    c.deal < c.positions.length → c.positions.length = 8 → (c.positions.getD c.deal ⟨false, [], 0⟩).enabled = true →
    ∃ m t, exec (.tyield s) st = .next t ∧ m.mem = st.mem ∧ Completed m t tid { th with status := .dealt c.deal } s 4 .fall ∧
      (∀ u, u ≠ tid → m.thread? u = st.thread? u) ∧ ∃ tl', m.tile? tid.tile = some tl' ∧
      (((tl'.core (tid.thr / 64)).positions.getD c.deal ⟨false, [], 0⟩).list.getLast? = some tid.thr))

/-- A thread takes the packet of a task (R373): x4 to x7, FMT, SCP, MIGOK and the task. -/
def takesPacket (th : Thread) (p : Packet) : Thread :=
  { (((th.setX 4 (p.getD 1 0#32)).setX 5 (p.getD 2 0#32)).setX 6 (p.getD 3 0#32)).setX 7 (p.getD 4 0#32) with
    fmt := p.getD 5 0#32, scp := p.getD 6 0#32, migok := (p.getD 7 0#32).getLsbD 17
    task := some ⟨p.getD 9 0#32 ++ p.getD 8 0#32, p.getD 10 0#32⟩ }

/-- R373: a TASKGET with nothing left to wait for takes the head packet of the tile's work list when its allocation is no larger than
the thread's, and d takes ENTRY; a packet that was moored behind a full list may join the tail (R374); d takes all ones, and the thread holds no task, when the list is empty or the packet larger;
and a spawned thread's TASKGET traps ILLEGAL. -/
def TasksTaken : Prop :=
  (∀ st s d tid th la tl, Runs st tid th → NothingLeft st tid th → st.launchOf tid.tile = some la → GoesOnRunning la →
    st.tile? tid.tile = some tl → th.parent = none → d.toNat < th.alloc →
    let size := fun p : Packet => (((p.getD 7 0#32).extractLsb' 24 4).toNat + 1) * 8
    (∀ p rest, tl.work = p :: rest → p.length = 16 → size p ≤ th.alloc →
      ∃ m t pair, exec (.taskget s d) st = .next t ∧ KeepsMemory st m la ∧
        Completed m t tid ({ takesPacket th p with paired := pair }.setX d.toNat (p.getD 0 0#32)) s 4 .fall ∧
        (∃ tl' more, m.tile? tid.tile = some tl' ∧ tl'.work = rest ++ more ∧ (la.moored = [] → more = []))) ∧
    ((∀ p rest, tl.work = p :: rest → th.alloc < size p) →
      ∃ m t, exec (.taskget s d) st = .next t ∧ KeepsMemory st m la ∧
        Completed m t tid ({ th with task := none, paired := none }.setX d.toNat 0xFFFFFFFF#32) s 4 .fall ∧
        (∃ tl', m.tile? tid.tile = some tl' ∧ tl'.work = tl.work))) ∧
  (∀ st s d tid th, Runs st tid th → Named th d → th.parent.isSome = true →
    ∃ t, exec (.taskget s d) st = .next t ∧ TakesTrap st t tid th .illegal (BitVec.ofNat 32 (encodeWord (.taskget s d))) false)

/-- R374, R37: a TASKPUT with nothing to release whose 16 words lie in the extents of an entry of space 1 and element code 2 and under no
registered range (R111), and whose target lies in the grid, sends the packet and writes 0 when the packet is well formed and its entry an aligned address of
the code section; it writes 1 for a reserved bit, else 2 for its entry, and sends nothing. -/
def TasksPut : Prop :=
  ∀ st s d a tid th la tl (ws : List Word) ps, Runs st tid th → st.launchOf tid.tile = some la → st.tile? tid.tile = some tl →
    Ranges th [(a, 3)] → NotEarly th (rangeFields a 3) → d.toNat < th.alloc → ws.length = 3 → th.paired = none →
    (∀ i < 3, th.reg (a.toNat + i) = .ready (ws.getD i 0#32)) → Quiet st tid th →
    let k := la.kernel
    let kidx := ((ws.getD 1 0#32).extractLsb' 0 6).toNat
    let dst := (ws.getD 0 0#32).toNat
    (k.entryOf kidx).space = 1 → (k.entryOf kidx).elem = 2 → dst % 4096 < k.vx → dst / 4096 < k.vy →
    putPlaces k tid th kidx (ws.getD 2 0#32).toNat 16 = .ok ps →
    (∀ o ∈ ps, checkLock st tid (.scratch tid.tile o) 4 0 false = .ok ()) →
    let p : Packet := ps.map fun o => BitVec.ofNat 32 (memRead st.mem (Place.scratch tid.tile o).key 4)
    let clean := p.getD 7 0#32 &&& 0xF0F8FFFF#32 = 0#32 ∧ ∀ i < 5, p.getD (11 + i) 0#32 = 0#32
    let starts := (p.getD 0 0#32).toNat % 4 = 0 ∧ (p.getD 0 0#32).toNat < k.codeSize
    (clean ∧ starts →
      ∃ m t n, exec (.taskput s d a) st = .next t ∧ Completed m t tid (th.setX d.toNat 0#32) s 4 .fall ∧ m.mem = st.mem ∧
        ∃ tl', m.tile? tid.tile = some tl' ∧
          tl'.niq = tl.niq ++ [⟨n, tid.tile, { tid.tile with num := dst }, .packet p, 0, 0, false⟩]) ∧
    (¬ clean → ∃ t, exec (.taskput s d a) st = .next t ∧ Completed st t tid (th.setX d.toNat 1#32) s 4 .fall) ∧
    (clean → ¬ starts → ∃ t, exec (.taskput s d a) st = .next t ∧ Completed st t tid (th.setX d.toNat 2#32) s 4 .fall)

/-- A thread may migrate (R44). -/
def Eligible (st : State) (tid : ThreadId) (th : Thread) : Prop :=
  th.alloc = 16 ∧ th.migok = true ∧ th.claim = none ∧ th.accGroup = none ∧ th.member = false ∧ (∀ b ∈ th.streams, b = none) ∧
  th.follow = none ∧ th.tstat.getLsbD 0 = false ∧
  ∀ tl, st.tile? tid.tile = some tl → (∀ e ∈ tl.threads, e.2.parent ≠ some tid.thr) ∧
    ∀ n t f, tl.threads.get? n = some t → t.follow = some f → f.leader ≠ tid.thr

/-- R375, R44 to R46: a MIGRATE to the thread's own tile has no effect once its registers are ready; one to another tile of the grid,
with nothing to release, ends the thread here and sends x0 to x15, the predicates, FMT and the task, to go on behind the
MIGRATE; an ineligible thread traps ACCESS, and a target outside the grid BOUNDS. -/
def Migrations : Prop :=
  ∀ st s a tid th la tl x, Runs st tid th → st.launchOf tid.tile = some la → st.tile? tid.tile = some tl → NotEarly th [a] →
    a.toNat < th.alloc → th.reg a.toNat = .ready x →
    (¬ (x.toNat % 4096 < la.kernel.vx ∧ x.toNat / 4096 < la.kernel.vy) →
      ∃ t, exec (.migrate s a) st = .next t ∧ TakesTrap st t tid th .bounds x false) ∧
    (x.toNat % 4096 < la.kernel.vx → x.toNat / 4096 < la.kernel.vy →
      (¬ Eligible st tid th → (∀ e ∈ tl.threads, e.1 < 512) →
        ∃ t bits, bits ≠ 0#32 ∧ exec (.migrate s a) st = .next t ∧ TakesTrap st t tid th .access bits false) ∧
      (Eligible st tid th → (∀ n < th.alloc, ∃ w, th.reg n = .ready w) →
        (x.toNat = tid.tile.num → ∃ t, exec (.migrate s a) st = .next t ∧ Completed st t tid th s 4 .fall) ∧
        (x.toNat ≠ tid.tile.num → th.inflight = [] → Quiet st tid th → GoesOnRunning la →
          ∃ t tl' n mig, exec (.migrate s a) st = .next t ∧ t.thread? tid = none ∧ KeepsMemory st t la ∧
            (∀ u, u ≠ tid → (t.thread? u).map (·.regs) = (st.thread? u).map (·.regs)) ∧ t.tile? tid.tile = some tl' ∧
            tl'.niq = tl.niq ++ [⟨n, tid.tile, { tid.tile with num := x.toNat }, .migrant mig, 0, 0, false⟩] ∧
            mig.pc = th.pc + 4 ∧ (∀ i < 16, th.reg i = .ready (mig.regs.getD i 0#32)) ∧ mig.preds = th.preds ∧ mig.fmt = th.fmt ∧
            mig.sbchk = th.sbchk ∧ mig.fold = th.fold ∧ mig.migok = th.migok ∧ mig.task = th.task ∧ mig.mode = th.mode)))

/-- R376, R48: a FOLLOW of a living thread of the same decode mode parks its thread to join that thread, or the one that it
follows; with no such thread it has no effect, and THRID 511 traps PRIV; UNFOLLOW ends following, and a joined follower's next turn is a
bubble (R409). -/
def Following : Prop :=
  (∀ st s a tid th th1 x tl, Runs st tid th → NotEarly th [a] → Reads th a x th1 → st.tile? tid.tile = some tl →
    let n := x.toNat % 512
    (n = 511 → ∃ t, exec (.follow s a) st = .next t ∧
      TakesTrap st t tid th .priv (BitVec.ofNat 32 (encodeWord (.follow s a))) false) ∧
    (n ≠ 511 → (tl.threads.get? n = none ∨ ∃ o, tl.threads.get? n = some o ∧ o.mode ≠ th.mode) →
      ∃ t, exec (.follow s a) st = .next t ∧ Completed st t tid th1 s 4 .fall) ∧
    (∀ o, n ≠ 511 → n ≠ tid.thr → tl.threads.get? n = some o → o.mode = th.mode → th.follow = none →
      let leader := (o.follow.map (·.leader)).getD n
      leader ≠ tid.thr → (tl.followers leader).length < 15 →
      ∃ m t, exec (.follow s a) st = .next t ∧ m.mem = st.mem ∧ (∀ u, u ≠ tid → m.thread? u = st.thread? u) ∧
        Completed m t tid { th1 with follow := some ⟨leader, false, []⟩, status := .off .followJoin st.clock } s 4 .fall)) ∧
  (∀ st s tid th, Runs st tid th →
    ∃ t, exec (.unfollow s) st = .next t ∧ Completed st t tid { th with follow := none, bubble := th.bubble || th.follow.any (·.joined) } s 4 .fall)

/-- The privileged functions of a user thread's PRIV trap (R379, R380). -/
def privileged : List (BitVec 2 → Instr) := [.halt, .cancelPhase, .cancelJob]

/-- A launch is the only one of its node, and records are listed once. -/
def OnlyLaunch (st : State) (tid : ThreadId) (la : Launch) : Prop :=
  st.slotsOf tid.tile.part la.job la.graph la.node.toNat = [tid.tile.slot] ∧ (st.tiles.map (·.1)).Nodup

/-! ## Vector instructions (11) -/

/-- A thread holds the claim n with context c, which carries no mark, no held stream fault and no pending renegotiation trap, and
the berth's vector unit is powered (R307, R310, R315, R504, R512). -/
def Claims (st : State) (tid : ThreadId) (th : Thread) (n : Nat) (c : VCtx) : Prop :=
  th.claim = some n ∧ st.vec? tid.tile n = some c ∧ c.mark = none ∧ c.stop = none ∧ c.reneg = false ∧
  ∀ tl b, st.tile? tid.tile = some tl → tl.berth = some b → (st.berth b).dark / 4 % 2 = 0

/-- The entries of a claim's queue that are in use (R313, R331). -/
def inQueue (c : VCtx) : Nat := (c.queue.map (·.cost)).sum

/-- An item is pushed to a claim's queue, and nothing else of memory, the accesses and the vector contexts changes (R313). -/
def Pushes (st m : State) (tile : TileId) (n : Nat) (c : VCtx) (item : VItem) : Prop :=
  m.mem = st.mem ∧ m.accesses = st.accesses ∧ m.vec? tile n = some { c with queue := c.queue ++ [item] } ∧
  ∀ u k, (u, k) ≠ (tile, n) → m.vec? u k = st.vec? u k

/-- The GRQ that a claim word asks for (Table 11.1). -/
def groupsAsked (w : Word) : Nat := let g := (w.extractLsb' 4 5).toNat; if 1 ≤ g ∧ g ≤ 16 then g else 16

/-- A thread holds the claim n with context c, which carries no held stream fault (R307, R512). -/
def Holds (st : State) (tid : ThreadId) (th : Thread) (n : Nat) (c : VCtx) : Prop :=
  th.claim = some n ∧ st.vec? tid.tile n = some c ∧ c.stop = none

/-- Of the vector contexts only one differs, and it is as given; no byte of memory, no access, no launch and no other thread differs. -/
def OnlyVec (st m : State) (tid : ThreadId) (n : Nat) (new : Option VCtx) : Prop :=
  m = { st with tiles := m.tiles } ∧ m.vec? tid.tile n = new ∧ (∀ u k, (u, k) ≠ (tid.tile, n) → m.vec? u k = st.vec? u k) ∧
  ∀ u, u ≠ tid → m.thread? u = st.thread? u

/-- The vector instructions that read no scalar register, reach no memory, stream or message and check nothing of VL (Tables 11.4,
11.5, 11.7 and 11.9; R325 to R327, R330), over the fields of all of them. -/
def vectorForms : List (BitVec 2 → VReg → VReg → VReg → KReg → VWidth → FWidth → BitVec 5 → VCond → Instr) := [
  fun s d a b k w _ _ _ => .vadd s d a b w k, fun s d a b k w _ _ _ => .vsub s d a b w k, fun s d a b k w _ _ _ => .vmul s d a b w k,
  fun s d a b k w _ _ _ => .vmulh s d a b w k, fun s d a b k w _ _ _ => .vand s d a b w k, fun s d a b k w _ _ _ => .vor s d a b w k,
  fun s d a b k w _ _ _ => .vxor s d a b w k, fun s d a b k w _ _ _ => .vsll s d a b w k, fun s d a b k w _ _ _ => .vsrl s d a b w k,
  fun s d a b k w _ _ _ => .vsra s d a b w k, fun s d a b k w _ _ _ => .vmin s d a b w k, fun s d a b k w _ _ _ => .vmax s d a b w k,
  fun s d a b k w _ _ _ => .vminn s d a b w k, fun s d a b k w _ _ _ => .vmaxn s d a b w k, fun s d a b k w _ _ _ => .vadds s d a b w k,
  fun s d a b k w _ _ _ => .vsubs s d a b w k] ++ [
  fun s d a b k _ w _ _ => .vfadd s d a b w k, fun s d a b k _ w _ _ => .vfsub s d a b w k, fun s d a b k _ w _ _ => .vfmul s d a b w k,
  fun s d a b k _ w _ _ => .vffma s d a b w k, fun s d a b k _ w _ _ => .vffms s d a b w k, fun s d a b k _ w _ _ => .vfmin s d a b w k,
  fun s d a b k _ w _ _ => .vfmax s d a b w k, fun s d a b k _ w _ _ => .vfdiv s d a b w k, fun s d a _ k _ w _ _ => .vfsqrt s d a w k,
  fun s d a _ k _ w _ _ => .vfabs s d a w k, fun s d a _ k _ w _ _ => .vfneg s d a w k, fun s d a _ k _ w _ _ => .vfexp2 s d a w k,
  fun s d a _ k _ w _ _ => .vflog2 s d a w k, fun s d a _ k _ w _ _ => .vfrcp s d a w k, fun s d a _ k _ w _ _ => .vfrsqrt s d a w k] ++ [
  fun s d a b k _ _ _ _ => .vrsum s d a b k, fun s d a b k _ _ _ _ => .vrfsum s d a b k, fun s d a b k _ _ _ _ => .vrmin s d a b k,
  fun s d a b k _ _ _ _ => .vrmax s d a b k, fun s d a b k _ _ _ _ => .vrfmin s d a b k, fun s d a b k _ _ _ _ => .vrfmax s d a b k,
  fun s d a _ _ _ _ _ _ => .vpackl6 s d a, fun s d a _ _ _ _ _ _ => .vunpkl6 s d a, fun s d a b _ _ _ _ _ => .vdeq s d a b,
  fun s d a _ _ _ _ _ _ => .vcvtbf s d a, fun s d a _ _ _ _ _ _ => .vcvtf s d a, fun s d a b k _ _ _ _ => .vpermv s d a b k,
  fun s d a _ k _ _ n _ => .vslup s d a n k, fun s d a _ k _ _ n _ => .vsldn s d a n k, fun s d a b k _ _ _ _ => .vmerge s d a b k,
  fun s d a b _ _ _ _ _ => .vkand s (d.setWidth 3) (a.setWidth 3) (b.setWidth 3),
  fun s d a b _ _ _ _ _ => .vkor s (d.setWidth 3) (a.setWidth 3) (b.setWidth 3),
  fun s d a b _ _ _ _ _ => .vkxor s (d.setWidth 3) (a.setWidth 3) (b.setWidth 3),
  fun s d a _ _ _ _ _ _ => .vknot s (d.setWidth 3) (a.setWidth 3), fun s d a b k _ _ _ c => .vcmp s (d.setWidth 3) a b c k]

/-- R307, R308, R309: with a context free, a VCLAIM of a thread without a claim takes one and completes; with an empty queue, a VRENEG of a
claimant writes the G of the claim as it then stands and completes, and a VYIELD ends the claim and completes. -/
def ClaimsComplete : Prop :=
  (∀ st s d a tid th tl b n w, Runs st tid th → NotEarly th [a] → a.toNat < th.alloc → th.reg a.toNat = .ready w → d.toNat < th.alloc →
    th.claim = none → st.tile? tid.tile = some tl → tl.berth = some b → tl.vecs.idxOf? none = some n →
    ∃ m t c, exec (.vclaim s d a) st = .next t ∧ m.vec? tid.tile n = some c ∧
      Completed m t tid { th.setX d.toNat (BitVec.ofNat 32 c.g) with claim := some n } s 4 .fall) ∧
  (∀ st s d a tid th tl b n c w, Runs st tid th → NotEarly th [a] → a.toNat < th.alloc → th.reg a.toNat = .ready w → d.toNat < th.alloc →
    Holds st tid th n c → st.tile? tid.tile = some tl → tl.berth = some b → c.queue = [] →
    ∃ m t c', exec (.vreneg s d a) st = .next t ∧ m.vec? tid.tile n = some c' ∧ c'.queue = [] ∧
      Completed m t tid (th.setX d.toNat (BitVec.ofNat 32 c'.g)) s 4 .fall) ∧
  (∀ st s tid th n c, Runs st tid th → Holds st tid th n c → c.queue = [] →
    ∃ m t, exec (.vyield s) st = .next t ∧ m.vec? tid.tile n = none ∧ Completed m t tid { th with claim := none } s 4 .fall)

/-- R313, R310, R326, R328: a vector instruction of a claimant whose queue has a free entry enters that queue with VL and its scalar
operands as read, and the thread goes on; VQUANT needs VL a multiple of 32 and BADDQ of 8, else they trap BOUNDS with VL, and
register 31 traps ILLEGAL there. Without a claim each traps VCLAIM 3, and after a restore that changed G, VCLAIM 2 with G. -/
def VectorPushes : Prop :=
  (∀ e ∈ vectorForms, ∀ st s d a b k w f n q tid th x c, Runs st tid th → Claims st tid th x c → inQueue c < 16 →
    ∃ m t id, exec (e s d a b k w f n q) st = .next t ∧ Completed m t tid th s 4 .fall ∧
      Pushes st m tid.tile x c ⟨1, [⟨id, e s d a b k w f n q, [], c.vl, [], false, 0, none⟩]⟩) ∧
  (∀ st s d a b tid th x c, Runs st tid th → Claims st tid th x c → inQueue c < 16 →
    (d ≠ 31 → c.vl % 32 = 0 → ∃ m t id, exec (.vquant s d a) st = .next t ∧ Completed m t tid th s 4 .fall ∧
      Pushes st m tid.tile x c ⟨1, [⟨id, .vquant s d a, [], c.vl, [], false, 0, none⟩]⟩) ∧
    (d ≠ 31 → c.vl % 32 ≠ 0 → ∃ t, exec (.vquant s d a) st = .next t ∧ TakesTrap st t tid th .bounds (BitVec.ofNat 32 c.vl) false) ∧
    (d ≠ 31 → a ≠ 31 → b ≠ 31 → c.vl % 8 = 0 → ∃ m t id, exec (.baddq s d a b) st = .next t ∧ Completed m t tid th s 4 .fall ∧
      Pushes st m tid.tile x c ⟨1, [⟨id, .baddq s d a b, [], c.vl, [], false, 0, none⟩]⟩) ∧
    (d ≠ 31 → a ≠ 31 → b ≠ 31 → c.vl % 8 ≠ 0 →
      ∃ t, exec (.baddq s d a b) st = .next t ∧ TakesTrap st t tid th .bounds (BitVec.ofNat 32 c.vl) false)) ∧
  (∀ st s a b tid th, Runs st tid th →
    (∃ t, exec (.vquant s 31 a) st = .next t ∧ TakesTrap st t tid th .illegal (BitVec.ofNat 32 (encodeWord (.vquant s 31 a))) false) ∧
    (∃ t, exec (.baddq s 31 a b) st = .next t ∧ TakesTrap st t tid th .illegal (BitVec.ofNat 32 (encodeWord (.baddq s 31 a b))) false)) ∧
  (∀ st s d b k i j tid th th1 x c v, Runs st tid th → Claims st tid th x c → inQueue c < 16 → NotEarly th [b] → Reads th b v th1 →
    (∃ m t id, exec (.vsplat s d b k) st = .next t ∧ Completed m t tid th1 s 4 .fall ∧
      Pushes st m tid.tile x c ⟨1, [⟨id, .vsplat s d b k, [v], c.vl, [], false, 0, none⟩]⟩) ∧
    (∃ m t id, exec (.vins s d i b j) st = .next t ∧ Completed m t tid th1 s 4 .fall ∧
      Pushes st m tid.tile x c ⟨1, [⟨id, .vins s d i b j, [v], c.vl, [], false, 0, none⟩]⟩)) ∧
  (∀ e ∈ vectorForms, ∀ st s d a b k w f n q tid th, Runs st tid th →
    (th.claim = none → ∃ t, exec (e s d a b k w f n q) st = .next t ∧ TakesTrap st t tid th .vclaim 3#32 false) ∧
    (∀ x c, th.claim = some x → st.vec? tid.tile x = some c → c.mark = none → c.stop = none → c.reneg = true →
      ∃ m t, exec (e s d a b k w f n q) st = .next t ∧ m = { st with tiles := m.tiles } ∧
        m.vec? tid.tile x = some { c with reneg := false } ∧
        TakesTrap m t tid th .vclaim (BitVec.ofNat 32 (2 + c.g * 65536)) false))

/-- R318, R319, R324: VEXTR writes a slot of va, zero at or beyond G, once the claim's queue is empty, and holds its thread before;
VGADDR resolves the slots when the queue is empty and pushes their owners and indices; VRECVADD is pushed and blocks its thread
with the PC on it. -/
def VectorScalars : Prop :=
  (∀ st s i a b j tid th th1 x c, Runs st tid th → Claims st tid th x c → c.queue = [] →
    let n := i.toNat * 8 + j.toNat
    Puts st tid th b (if n < c.g then (c.v.getD a.toNat []).getD n 0#32 else 0#32) th1 →
    ∃ t, exec (.vextr s i a b j) st = .next t ∧ Completed st t tid th1 s 4 .fall) ∧
  (∀ st s i a b j tid th x c, Runs st tid th → Claims st tid th x c → Named th b → c.queue ≠ [] →
    exec (.vextr s i a b j) st = .next { st with held := true }) ∧
  (∀ st s d a b k tid th th1 x c la v lanes, Runs st tid th → Claims st tid th x c → c.queue = [] → st.launchOf tid.tile = some la →
    NotEarly th [b] → Reads th b v th1 → d ≠ 31 →
    let kidx := v.toNat % 64
    let e := la.kernel.entryOf kidx
    let r := if 2 ≤ e.rank then 2 else 1
    let explicit := decide (e.space = 2 ∧ entryField (la.kernel.dist.getD e.dist 0) 126 2 = 0)
    (2 ≤ e.rank → a ≠ 31) → (explicit = true → a.toNat + r ≤ 31) → e.space ≠ 0 → e.space ≠ 7 →
    vgaddrLanes la.kernel tid.tile.num kidx a.toNat r explicit c
      ((List.range c.vl).filter fun i => (c.mask k.toNat).getLsbD i) = .ok lanes →
    ∃ m t id, exec (.vgaddr s d a b k) st = .next t ∧ Completed m t tid th1 s 4 .fall ∧
      Pushes st m tid.tile x c ⟨1, [⟨id, .vgaddr s d a b k, [v], c.vl, lanes, false, 0, none⟩]⟩) ∧
  (∀ st s d n tid th x c v, Runs st tid th → Claims st tid th x c → inQueue c < 16 → MayAccess th [n] → n.toNat < th.alloc →
    th.reg n.toNat = .ready v → (∀ q ∈ c.queue, ∀ o ∈ q.ops, ∀ s' d' n', o.instr ≠ .vrecvadd s' d' n') →
    ∃ t id, exec (.vrecvadd s d n) st = .next t ∧ t.thread? tid = some { th with status := .off .vecRecv st.clock } ∧
      Pushes st t tid.tile x c ⟨1, [⟨id, .vrecvadd s d n, [], c.vl, [], false, 0, none⟩]⟩)

/-- R322: a VPOP or VPUSH whose stream is bound in its direction and holds enough elements, those that queued instructions still take
or give counted, is pushed; else it traps BOUNDS, and ACCESS for a stream that is not bound so. -/
def VectorStreams : Prop :=
  ∀ st s d m k tid th x c, Runs st tid th → Claims st tid th x c → inQueue c < 16 → th.acqHold = [] →
    (∀ b, th.stream? m.toNat = some b → b.write = false →
      (b.pos + c.projected m.toNat + c.vl ≤ b.length → ∃ u t id, exec (.vpop s d m k) st = .next t ∧ Completed u t tid th s 4 .fall ∧
        Pushes st u tid.tile x c ⟨1, [⟨id, .vpop s d m k, [], c.vl, [], false, 0, none⟩]⟩) ∧
      (b.length < b.pos + c.projected m.toNat + c.vl → ∃ t, exec (.vpop s d m k) st = .next t ∧
        TakesTrap st t tid th .bounds (BitVec.ofNat 32 (2 ^ 31 + m.toNat * 65536 + b.entry)) false)) ∧
    (∀ b, th.stream? m.toNat = some b → b.write = true →
      (b.pos + c.projected m.toNat + c.vl ≤ b.length → ∃ u t id, exec (.vpush s d m) st = .next t ∧ Completed u t tid th s 4 .fall ∧
        Pushes st u tid.tile x c ⟨1, [⟨id, .vpush s d m, [], c.vl, [], false, 0, none⟩]⟩) ∧
      (b.length < b.pos + c.projected m.toNat + c.vl → ∃ t, exec (.vpush s d m) st = .next t ∧
        TakesTrap st t tid th .bounds (BitVec.ofNat 32 (2 ^ 31 + m.toNat * 65536 + b.entry)) false)) ∧
    (th.stream? m.toNat = none →
      (∃ t, exec (.vpop s d m k) st = .next t ∧ TakesTrap st t tid th .access (BitVec.ofNat 32 (2 ^ 31 + m.toNat * 65536)) false) ∧
      (∃ t, exec (.vpush s d m) st = .next t ∧ TakesTrap st t tid th .access (BitVec.ofNat 32 (2 ^ 31 + m.toNat * 65536)) false))

/-- The vector loads and stores with their forms (Table 11.6). -/
def vmemForms : List ((BitVec 2 → VReg → LEntry → XField → KReg → Instr) × Nat) := [
  (.vld, 0), (.vst, 1), (.vlds, 2), (.vsts, 3), (.vgath, 4), (.vscat, 5)]

/-- R320, R321: a vector load or store whose active elements resolve is pushed with those elements in order: a discarded element has
no access and reads 0, and every other one is an access to its place, a store's still without its data; a gather, a scatter or
a masked form starts from an empty queue only, and is held before. No byte of memory changes. -/
def VectorMemory : Prop :=
  (∀ e ∈ vmemForms, ∀ st s d l xc k tid th x c la (vs : List Word) places st1, Runs st tid th → Claims st tid th x c →
    inQueue c < 16 → st.launchOf tid.tile = some la →
    let kidx := l.toNat
    let en := la.kernel.entryOf kidx
    let w := coordCount la.kernel kidx + (if e.2 = 2 ∨ e.2 = 3 then 1 else 0)
    let store := e.2 % 2 = 1
    Ranges th [(xc, w)] → MayAccess th (rangeFields xc w) → vs.length = w →
    (∀ i < w, th.reg (xc.toNat + i) = .ready (vs.getD i 0#32)) → (4 ≤ e.2 ∨ k ≠ 0 → c.queue = []) →
    vecResolve st tid th la.kernel (BitVec.ofNat 32 (encodeWord (e.1 s d l xc k))) kidx (vs.getD en.rank 0#32).toNat (decide store)
      ((⟨e.2, d, l, xc, k⟩ : VMem).elements c en ((vs.take en.rank).map (·.toInt))
        (if e.2 = 2 ∨ e.2 = 3 then vs.getD (w - 1) 0#32 else 0#32)) = .ok (places, st1) →
    st1.thread? tid = some th → Claims st1 tid th x c → th.lines = [] →
    ∃ m t new id lanes, exec (e.1 s d l xc k) st = .next t ∧ Completed m t tid new s 4 .fall ∧
      new = { th with touch := new.touch, peerOut := new.peerOut } ∧ m.mem = st1.mem ∧
      m.vec? tid.tile x = some { c with queue := c.queue ++ [⟨1, [⟨id, e.1 s d l xc k, [], c.vl, lanes, false, 0, none⟩]⟩] } ∧
      lanes.map (fun v => (v.slot, v.sub)) = places.map (fun p => (p.1, p.2.1)) ∧
      ∀ j slot sub p v, places[j]? = some (slot, sub, p) → lanes[j]? = some v →
        (p = none → v.access = none ∧ v.value = some 0#32) ∧
        (∀ pl, p = some pl → v.value = none ∧ ∃ a ∈ m.accesses, v.access = some a.id ∧ a.agent = .vector tid ∧ a.place = pl ∧
          a.size = en.size ∧ a.kind = (if store then .store else .load) ∧ a.data = none ∧ a.lane = some (x, id, j))) ∧
  (∀ e ∈ vmemForms, ∀ st s d l xc k tid th x c la (vs : List Word), Runs st tid th → Claims st tid th x c →
    st.launchOf tid.tile = some la →
    let w := coordCount la.kernel l.toNat + (if e.2 = 2 ∨ e.2 = 3 then 1 else 0)
    Ranges th [(xc, w)] → MayAccess th (rangeFields xc w) → vs.length = w →
    (∀ i < w, th.reg (xc.toNat + i) = .ready (vs.getD i 0#32)) → 4 ≤ e.2 ∨ k ≠ 0 → c.queue ≠ [] →
    exec (e.1 s d l xc k) st = .next { st with held := true })

/-- The operations of Table 11.4 on elements of any width. -/
def lanesOps : List ((BitVec 2 → VReg → VReg → VReg → VWidth → KReg → Instr) × ((n : Nat) → BitVec n → BitVec n → BitVec n)) := [
  (.vadd, fun _ x y => x + y), (.vsub, fun _ x y => x - y), (.vmul, fun _ x y => x * y),
  (.vmulh, fun n x y => ((x.signExtend (2 * n) * y.signExtend (2 * n)) >>> n).setWidth n),
  (.vand, fun _ x y => x &&& y), (.vor, fun _ x y => x ||| y), (.vxor, fun _ x y => x ^^^ y),
  (.vsll, fun n x y => x <<< (y.toNat % n)), (.vsrl, fun n x y => x >>> (y.toNat % n)),
  (.vsra, fun n x y => x.sshiftRight (y.toNat % n)),
  (.vmin, fun _ x y => if x.sle y then x else y), (.vmax, fun _ x y => if x.sle y then y else x),
  (.vminn, fun _ x y => if x.ule y then x else y), (.vmaxn, fun _ x y => if x.ule y then y else x),
  (.vadds, fun n x y => BitVec.ofInt n (max (-2 ^ (n - 1)) (min (x.toInt + y.toInt) (2 ^ (n - 1) - 1)))),
  (.vsubs, fun n x y => BitVec.ofInt n (max (-2 ^ (n - 1)) (min (x.toInt - y.toInt) (2 ^ (n - 1) - 1))))]

/-- The bits of an element at a width. -/
def laneBits : VWidth → Nat
  | .b32 => 32 | .b16 => 16 | .b8 => 8

/-- The FP32 operations of Table 11.5 on A, B and V[vd], as the scalar instructions that it names (R317). -/
def fltOps : List ((BitVec 2 → VReg → VReg → VReg → KReg → Instr) × (Word → Word → Word → FRes)) := [
  (fun s d a b k => .vfadd s d a b .f32 k, fun x y _ => fAdd x y), (fun s d a b k => .vfsub s d a b .f32 k, fun x y _ => fSub x y),
  (fun s d a b k => .vfmul s d a b .f32 k, fun x y _ => fMul x y), (fun s d a b k => .vfdiv s d a b .f32 k, fun x y _ => fDiv x y),
  (fun s d a b k => .vffma s d a b .f32 k, fFma), (fun s d a b k => .vffms s d a b .f32 k, fFms),
  (fun s d a b k => .vfmin s d a b .f32 k, fun x y _ => fMin x y), (fun s d a b k => .vfmax s d a b .f32 k, fun x y _ => fMax x y),
  (fun s d a _ k => .vfsqrt s d a .f32 k, fun x _ _ => fSqrt x), (fun s d a _ k => .vfabs s d a .f32 k, fun x _ _ => ⟨x &&& 0x7FFFFFFF#32, 0⟩),
  (fun s d a _ k => .vfneg s d a .f32 k, fun x _ _ => ⟨x ^^^ 0x80000000#32, 0⟩),
  (fun s d a _ k => .vfexp2 s d a .f32 k, fun x _ _ => sfun .exp2 x), (fun s d a _ k => .vflog2 s d a .f32 k, fun x _ _ => sfun .log2 x),
  (fun s d a _ k => .vfrcp s d a .f32 k, fun x _ _ => sfun .rcp x), (fun s d a _ k => .vfrsqrt s d a .f32 k, fun x _ _ => sfun .rsqrt x)]

/-- The instruction at the head of a claim's queue has executed: the context is c' behind it, its flags are in the owner's FFLAGS, and
no byte of memory and no other register of the thread changes (R313, R314, R135). -/
def Executes (st t : State) (tile : TileId) (x : Nat) (th : Thread) (c c' : VCtx) (rest : List VItem) (flags : FFlags) : Prop :=
  t.vec? tile x = some c' ∧ t.mem = st.mem ∧ t.thread? ⟨tile, c.owner⟩ = some { th with fflags := th.fflags ||| flags } ∧
  c' = { c with queue := rest, v := c'.v, k := c'.k }

/-! ## Matrix instructions (12, 06) -/

/-- The array takes a command of the thread's core now (R180, R191, R504): the core holds the lease, its planes are loaded, its queue
has room, the budget is not spent, and the array is powered; the thread is a lease member without a deferred error. -/
def TakesCommand (st : State) (tid : ThreadId) (th : Thread) (tl : Tile) : Prop :=
  st.tile? tid.tile = some tl ∧ th.member = true ∧ th.matMark = false ∧ tl.arr.holder = some (tid.thr / 64) ∧
  (tl.core (tid.thr / 64)).reload = [] ∧ (tl.core (tid.thr / 64)).mcmds.length < 8 ∧ tl.arr.cmds < 32 ∧ tl.arr.cyc < 16384 ∧
  ∀ b, tl.berth = some b → (st.berth b).dark / 2 % 2 = 0

/-- A command enters the queue of its thread's core and counts one towards the budget; no accumulator and no byte of memory changes
(R333 stage 8). -/
def Accepted (st m : State) (tid : ThreadId) (tl : Tile) (i : Instr) (x : Word) (base : Nat) : Prop :=
  m.mem = st.mem ∧ ∃ tl' c, m.tile? tid.tile = some tl' ∧ tl'.arr = { tl.arr with cmds := tl.arr.cmds + 1 } ∧
    (tl'.core (tid.thr / 64)).mcmds = (tl.core (tid.thr / 64)).mcmds ++ [c] ∧ c.thr = tid.thr ∧ c.instr = i ∧ c.x = x ∧ c.base = base ∧
    c.started = none ∧ c.prog = 0

/-- R333, R343, R344, R353, R345, R346: MLOADS.fb, MSWAP, MZERO and a feedback MMA whose accumulators lie in the thread's group are
accepted, and the thread goes on; an MMA needs 1 to 64 rows and an active record that matches. A thread that is no member traps
LEASE 1, and an accumulator beyond the group LEASE 2. -/
def MatrixCommands : Prop :=
  (∀ st s b tr d tid th tl base n, Runs st tid th → TakesCommand st tid th tl →
    (∃ m t, exec (.mswap s) st = .next t ∧ Completed m t tid th s 4 .fall ∧ Accepted st m tid tl (.mswap s) 0#32 0) ∧
    (th.accGroup = some (base, n) → b.toNat < n → ∃ m t, exec (.mloadsFb s b tr) st = .next t ∧ Completed m t tid th s 4 .fall ∧
      Accepted st m tid tl (.mloadsFb s b tr) 0#32 base) ∧
    (th.accGroup = some (base, n) → d.toNat < n → ∃ m t, exec (.mzero s d) st = .next t ∧ Completed m t tid th s 4 .fall ∧
      Accepted st m tid tl (.mzero s d) 0#32 base)) ∧
  (∀ st s d b x z tr tid th th1 tl la base n v, Runs st tid th → TakesCommand st tid th tl → th.matCmd = none →
    st.launchOf tid.tile = some la → th.accGroup = some (base, n) → d.toNat < n → b.toNat < n → NotEarly th [x] → Reads th x v th1 →
    (1 ≤ v.toNat % 128 → v.toNat % 128 ≤ 64 → (st.planesOf tid).1.1.code ∈ [0, 1, 5, 6] → (st.planesOf tid).1.2 = none →
      ∃ m t, exec (.mmaFb s d b x z tr) st = .next t ∧ Completed m t tid th1 s 4 .fall ∧
        Accepted st m tid tl (.mmaFb s d b x z tr) v base) ∧
    (v.toNat % 128 = 0 ∨ 64 < v.toNat % 128 →
      ∃ t, exec (.mmaFb s d b x z tr) st = .next t ∧ TakesTrap st t tid th .bounds v false) ∧
    (1 ≤ v.toNat % 128 → v.toNat % 128 ≤ 64 → (st.planesOf tid).1.1.code ∉ [0, 1, 5, 6] →
      ∃ t, exec (.mmaFb s d b x z tr) st = .next t ∧
        TakesTrap st t tid th .access (BitVec.ofNat 32 (0x40000000 + (st.planesOf tid).1.1.code)) false)) ∧
  (∀ st s b tr d tid th, Runs st tid th →
    (th.member = false →
      (∃ t, exec (.mswap s) st = .next t ∧ TakesTrap st t tid th .lease 1#32 false) ∧
      (∃ t, exec (.mzero s d) st = .next t ∧ TakesTrap st t tid th .lease 1#32 false) ∧
      (∃ t, exec (.mloadsFb s b tr) st = .next t ∧ TakesTrap st t tid th .lease 1#32 false)) ∧
    (th.member = true → (∀ base n, th.accGroup = some (base, n) → n ≤ d.toNat) →
      ∃ t, exec (.mzero s d) st = .next t ∧ TakesTrap st t tid th .lease 2#32 false))

/-- R341, R342: an MLOADS from a layout entry whose descriptor is ready and whose checks pass is accepted when no acquire holds it (R97), with the places of its
elements, and the thread goes on. -/
def PlaneLoads : Prop :=
  ∀ st s x l p tid th tl la (ws : List Word) places st1, Runs st tid th → TakesCommand st1 tid th tl → st.tile? tid.tile = some tl →
    th.member = true → th.acqHold = [] → st.launchOf tid.tile = some la →
    let k := la.kernel
    let kidx := ((ws.getD 0 0#32).extractLsb' 0 6).toNat
    let w := 1 + coordCount k kidx
    let r := (k.entryOf kidx).rank
    let code := ((ws.getD 0 0#32).extractLsb' 6 2).toNat
    Ranges th [(x, w)] → NotEarly th (rangeFields x w) → ws.length = w → (∀ i < w, th.reg (x.toNat + i) = .ready (ws.getD i 0#32)) →
    let src : PlaneSrc :=
      { code := 1 + l.toNat + 2 * p.toNat, entry := kidx, origin := ((ws.drop 1).take r).map (·.toInt), num := (ws.getD (r + 1) 0#32).toNat
        width := if p then 8 * 2 ^ code else 0, scale := (th.scp.toNat / 2 ^ 26, th.scp.toNat % 2 ^ 26), acc := 0, thr := tid.thr
        priv := th.priv }
    planeCheck st tid th k (BitVec.ofNat 32 (encodeWord (.mloads s x l p))) src (p && code == 3) = .ok (places, st1) →
    st1.thread? tid = some th →
    ∃ m t tl' c, exec (.mloads s x l p) st = .next t ∧ Completed m t tid th s 4 .fall ∧ m.mem = st1.mem ∧ m.tile? tid.tile = some tl' ∧
      (tl'.core (tid.thr / 64)).mcmds.map (·.instr) = (tl.core (tid.thr / 64)).mcmds.map (·.instr) ++ [.mloads s x l p] ∧
      (tl'.core (tid.thr / 64)).mcmds.getLast? = some c ∧ c.src = some src ∧ c.places = places ∧ c.thr = tid.thr ∧ tl'.arr.accs = tl.arr.accs ∧ tl'.arr.cmds = tl.arr.cmds + 1

/-- A read stream of the thread that serves the array: bound, of an element code, with enough elements left (R346). -/
def Serves (st : State) (tid : ThreadId) (th : Thread) (k : Kernel) (m : Nat) (write : Bool) (elem need : Nat) : Prop :=
  ∃ b, th.stream? m = some b ∧ b.write = write ∧ (k.entryOf b.entry).elem = elem ∧ b.pos + st.claimAhead tid th m + need ≤ b.length

/-- R345, R346, R354, R333 (Table 12.2): an MMA of stream rows and an MDRAIN whose streams serve them are accepted, and their threads
are held at them, with the PC unchanged; the instruction completes on a turn at which the array has popped the last row, pushed
the last element, or ended the command. -/
def HeldCommands : Prop :=
  (∀ st s d x m l z c p tid th th1 tl la base n v, Runs st tid th → TakesCommand st tid th tl → th.matCmd = none → th.acqHold = [] →
    st.launchOf tid.tile = some la → th.accGroup = some (base, n) → d.toNat + c.toNat < n → NotEarly th [x] → Reads th x v th1 →
    let rec' := (st.planesOf tid).1
    let depth := planeDepth l (if p then rec'.1.width else 0)
    let rows := v.toNat % 128
    1 ≤ rows → rows ≤ 64 → (if p then rec'.1.code = (if l then 4 else 3) else rec'.1.code ∈ (if l then [0, 2] else [0, 1, 5, 6])) →
    rec'.2 = none → Serves st tid th1 la.kernel m.toNat false (if l then 5 else 3) (rows * depth) →
    (l = true → Serves st tid th1 la.kernel (m.toNat + 1) false 6 (rows * (depth / 32))) →
    ∃ t id, exec (.mma s d x m l z c p) st = .next t ∧ Accepted st t tid tl (.mma s d x m l z c p) v base ∧
      t.thread? tid = some { th1 with matCmd := some id }) ∧
  (∀ st s d x m z tr h u tid th th1 tl la base n v, Runs st tid th → TakesCommand st tid th tl → th.matCmd = none → th.acqHold = [] →
    st.launchOf tid.tile = some la → th.accGroup = some (base, n) → d.toNat + u.toNat < n → (u = true → d.toNat % 2 = 0) →
    NotEarly th [x] → Reads th x v th1 → 1 ≤ v.toNat % 128 → v.toNat % 128 ≤ 64 →
    Serves st tid th1 la.kernel m.toNat true (if h then 3 else 4) (64 * (v.toNat % 128)) →
    ∃ t id, exec (.mdrain s d x m z tr h u) st = .next t ∧ Accepted st t tid tl (.mdrain s d x m z tr h u) v base ∧
      t.thread? tid = some { th1 with matCmd := some id }) ∧
  (∀ st s d x m l z c p tid th id, Runs st tid th → th.matCmd = some id →
    ((st.cmdsOf tid).find? (·.id = id) = none ∨ ∃ cmd, (st.cmdsOf tid).find? (·.id = id) = some cmd ∧
      let depth := planeDepth l ((cmd.src.map (·.width)).getD 0)
      let rows := cmd.x.toNat % 128
      rows * depth ≤ cmd.data.length ∧ (l = true → rows * (depth / 32) ≤ cmd.scales.length)) →
    ∃ t, exec (.mma s d x m l z c p) st = .next t ∧ Completed st t tid th s 4 .fall) ∧
  (∀ st s d x m z tr h u tid th id, Runs st tid th → th.matCmd = some id →
    ((st.cmdsOf tid).find? (·.id = id) = none ∨ ∃ cmd, (st.cmdsOf tid).find? (·.id = id) = some cmd ∧ 64 * (cmd.x.toNat % 128) ≤ cmd.prog) →
    ∃ t, exec (.mdrain s d x m z tr h u) st = .next t ∧ Completed st t tid th s 4 .fall)

/-- The iterations, with the check of their operand (R349) and the accumulators beside a that they name. -/
def iterForms : List ((BitVec 2 → BitVec 3 → BitVec 3 → XField → Bool → Instr) × (Word → BitVec 3 → BitVec 3 → Prop) × (BitVec 3 → BitVec 3 → Nat)) := [
  (fun s d _ x n => .miterNs3 s d x n, fun v _ _ => 1 ≤ v.toNat / 65536 % 128 ∧ v.toNat / 65536 % 128 ≤ 64, fun d _ => d.toNat + 2),
  (fun s d _ x n => .miterNs5 s d x n, fun v _ _ => 1 ≤ v.toNat / 65536 % 128 ∧ v.toNat / 65536 % 128 ≤ 64, fun d _ => d.toNat + 2),
  (fun s d b x n => .miterInv s d b x n, fun _ d b => b.toNat < d.toNat ∨ d.toNat + 2 < b.toNat, fun d b => max (d.toNat + 2) b.toNat),
  (fun s d _ x n => .mpoly s d x n, fun _ _ _ => True, fun d _ => d.toNat + 2)]

/-- The command that the array of a tile executes, of a thread with its context, its core's only one with its number (R181). -/
def Executing (st : State) (tile : TileId) (tl : Tile) (h : Nat) (c : MatCmd) (th : Thread) : Prop :=
  st.running tile = some (tl, h, c) ∧ c.thr / 64 = h ∧ st.thread? ⟨tile, c.thr⟩ = some th ∧
  ∀ o ∈ (tl.core h).mcmds, o.id = c.id → o = c

/-- R185, R190, R191, R334, R342, R410: the load at the head of the holder's queue, of a dense BF16 plane whose registrations are
entered and whose sources can be read, starts, and 64 tile cycles later fills the shadow plane: column n holds at k the flushed element
(k, n), 0 where it is discarded; the record becomes the shadow record and the command ends. A reload of a feedback plane after a
lease change takes the loader for 64 tile cycles, reads its accumulator as it stands then, and the last one sets PLOST. -/
def PlanesFill : Prop :=
  (∀ st tile tl la h c cs p, st.tile? tile = some tl → st.launchOf tile = some la → tl.arr.holder = some h →
    (tl.core h).mcmds = c :: cs → (tl.core h).reload = [] → isEntryLoad c.instr = true → c.src = some p → p.code = 1 → st.entered c.regs = true →
    planeReady st tile (.plane tile c.id) c.places = true → c.places.elems.length = 4096 → (∀ o ∈ cs, o.id ≠ c.id) →
    poisonedElems st c.places = [] →
    (c.started = none → ∃ t tl', exec (.planeLoadComplete tile []) st = .next t ∧ t.tile? tile = some tl' ∧ t.mem = st.mem ∧
      (tl'.core h).mcmds = { c with started := some tl.cycle } :: cs ∧ tl'.arr = tl.arr) ∧
    ∀ s0, c.started = some s0 → s0 + 64 ≤ tl.cycle →
    ∃ t tl', exec (.planeLoadComplete tile []) st = .next t ∧ t.tile? tile = some tl' ∧ t.mem = st.mem ∧
      (tl'.core h).mcmds = cs ∧ (tl'.core h).shadow = p ∧ tl'.arr.active = tl.arr.active ∧ tl'.arr.accs = tl.arr.accs ∧
      ∀ k n, k < 64 → n < 64 → (tl'.arr.shadow.cols.getD n []).getD k 0 =
        match c.places.elems.getD (64 * k + n) none with
        | some (pl, code) => flushBf (readElem st.mem (la.kernel.entryOf p.entry) pl code).toNat
        | none => 0) ∧
  (∀ st tile tl la h shadow rest, st.tile? tile = some tl → st.launchOf tile = some la → tl.arr.holder = some h →
    (tl.core h).reload = shadow :: rest →
    let p := if shadow then (tl.core h).shadow else (tl.core h).active
    p.code = 5 ∨ p.code = 6 →
    ((tl.core h).reloadAt = none → ∃ t tl', exec (.planeReloadComplete tile shadow) st = .next t ∧ t.tile? tile = some tl' ∧
      t.mem = st.mem ∧ (tl'.core h).reload = shadow :: rest ∧ (tl'.core h).reloadAt = some tl.cycle ∧ tl'.arr = tl.arr) ∧
    ∀ s0, (tl.core h).reloadAt = some s0 → s0 + 64 ≤ tl.cycle →
    ∃ t tl', exec (.planeReloadComplete tile shadow) st = .next t ∧ t.tile? tile = some tl' ∧ t.mem = st.mem ∧
      (tl'.core h).reload = rest ∧ (tl'.core h).plost = ((tl.core h).plost || rest.isEmpty) ∧ tl'.arr.accs = tl.arr.accs ∧
      ∀ k n, k < 64 → n < 64 → ((if shadow then tl'.arr.shadow else tl'.arr.active).cols.getD n []).getD k 0 =
        feedbackBf ((tl.arr.acc p.acc).getD (if p.code = 6 then 64 * n + k else 64 * k + n) 0#32))

/-- R178, R191, R193, R205, R206: a spent lease passes to the next core that asks, in ascending order with wrapping, when no command
that must complete is running, with empty planes and a fresh budget, and restarts its budget when none asks; an MMA whose stream
meets a held fault that goes to TVEC is dropped with its accumulator restored and its stream rewound, and traps its thread with
the fault; at a boundary of its field's clock the Weir grants the two first arrays that asked before it; a ramp-down that has run its steps ends cold. -/
def ArraySharing : Prop :=
  (∀ st tile tl h, st.tile? tile = some tl → tl.arr.holder = some h → 32 ≤ tl.arr.cmds ∨ 16384 ≤ tl.arr.cyc →
    (tl.requestersFrom (h + 1) = [] → ∃ t tl', exec (.leaseBudgetSpent tile) st = .next t ∧ t.mem = st.mem ∧ t.tile? tile = some tl' ∧
      tl'.arr = { tl.arr with cmds := 0, cyc := 0 }) ∧
    (∀ c cs, tl.requestersFrom (h + 1) = c :: cs → (tl.core h).mcmds = [] →
      ∃ t tl', exec (.leaseBudgetSpent tile) st = .next t ∧ t.mem = st.mem ∧ t.tile? tile = some tl' ∧
        tl'.arr = { tl.arr with holder := some c, cmds := 0, cyc := 0, active := Plane.empty, shadow := Plane.empty } ∧
        (tl'.core c).reload = (if (tl.core c).active.code = 0 then [] else [false]) ++ (if (tl.core c).shadow.code = 0 then [] else [true]))) ∧
  (∀ st tile tl h c th s d x m z cause la q rest s0, Executing st tile tl h c th → c.instr = .mma s d x m false z false false →
    c.marks = [s0] → c.started.isSome = true → (c.src.map (·.width)).getD 0 = 0 → c.data.length < (c.x.toNat % 128) * 64 →
    th.stream? m.toNat = some q → q.queue = .fault cause :: rest → cause.toFirmware = false → st.launchOf tile = some la →
    la.kernel.tvec ≠ 0xFFFFFFFF#32 → th.tstat.getLsbD 0 = false →
    ∃ t tl' th', exec (.mmaOperandFault tile) st = .next t ∧ t.mem = st.mem ∧ t.tile? tile = some tl' ∧
      (∀ i, tl'.arr.acc i = if i = c.base + d.toNat then tl.arr.replay else tl.arr.acc i) ∧ (∀ o ∈ (tl'.core h).mcmds, o.id ≠ c.id) ∧
      t.thread? ⟨tile, c.thr⟩ = some th' ∧ th'.pc = la.kernel.tvec ∧ th'.tepc = th.pc ∧ th'.tcause = BitVec.ofNat 32 cause.code ∧
      th'.tval = BitVec.ofNat 32 (2 ^ 31 + m.toNat * 65536 + q.entry) ∧ th'.matCmd = none ∧
      th'.stream? m.toNat = some { q with pos := s0, fetched := s0, queue := [] }) ∧
  (∀ st f a b rest tl, (st.field f).weirLimit = 0 → (st.field f).weirQueue = a :: b :: rest → st.tile? a.2.2 = some tl →
    a.2.2 ≠ b.2.2 → (st.field f).weirStep < (st.field f).time * 9 / 16 → a.1 ≤ (st.field f).weirStep → b.1 ≤ (st.field f).weirStep →
    tl.arr.ramp = .requested → (st.tiles.map (·.1)).Nodup →
    ∃ t tl', exec (.weirStep f) st = .next t ∧ t.mem = st.mem ∧ (t.field f).weirStep = (st.field f).weirStep + 1 ∧
      (t.field f).weirQueue = rest ∧ t.tile? a.2.2 = some tl' ∧ tl'.arr = { tl.arr with ramp := .up tl.cycle }) ∧
  (∀ st tile tl j s, st.tile? tile = some tl → tl.arr.ramp = .down j s → s + 4 * (j + 1) ≤ tl.cycle →
    ∃ t tl', exec (.rampDownEnd tile) st = .next t ∧ t.mem = st.mem ∧ t.tile? tile = some tl' ∧ tl'.arr = { tl.arr with ramp := .cold })

/-! ## Events of threads and cores (01, 13) -/

/-- Only one thread differs, and its context is as given. -/
def OnlyThread (st t : State) (tid : ThreadId) (new : Thread) : Prop :=
  t = { st with tiles := t.tiles } ∧ t.thread? tid = some new ∧ ∀ u, u ≠ tid → t.thread? u = st.thread? u

/-- Only one tile differs, and its record is as given. -/
def OnlyTile (st t : State) (id : TileId) (new : Tile) : Prop :=
  t = { st with tiles := t.tiles } ∧ t.tile? id = some new ∧ ∀ u, u ≠ id → t.tile? u = st.tile? u

/-- R35, R36, R404, R409, R175, R403: a forgone turn counts down the stall count of a thread that stands on the wheel, or is its bubble,
and counts as an issue of it; a moved thread forgoes none before its time; a due result is written to its
register, the last one of a register in program order, and the flags of the due results are ORed into FFLAGS. -/
def Turns : Prop :=
  (∀ st tid th tl, st.thread? tid = some th → st.tile? tid.tile = some tl →
    (∀ p, th.status = .dealt p →
      (tl.cycle < th.notBefore → ∃ t, exec (.stallCountExpiry tid) st = .next t ∧ OnlyThread st t tid th) ∧
      (th.notBefore ≤ tl.cycle → 0 < th.stall → ∃ t, exec (.stallCountExpiry tid) st = .next t ∧
        OnlyThread st t tid { th with stall := th.stall - 1, lastIssue := tl.cycle }) ∧
      (th.notBefore ≤ tl.cycle → th.stall = 0 → th.bubble = true → ∃ t, exec (.stallCountExpiry tid) st = .next t ∧
        OnlyThread st t tid { th with bubble := false, lastIssue := tl.cycle }) ∧
      (th.stall = 0 → th.bubble = false → ∃ t, exec (.stallCountExpiry tid) st = .next t ∧ OnlyThread st t tid th)) ∧
    (∀ w n, th.status = .off w n → ∃ t, exec (.stallCountExpiry tid) st = .next t ∧ OnlyThread st t tid th)) ∧
  (∀ st tid th tl, st.thread? tid = some th → st.tile? tid.tile = some tl →
    let due := th.inflight.filter fun f => decide (f.due ≤ tl.cycle)
    ∃ t regs flags, exec (.fixedLatencyDelivery tid) st = .next t ∧
      OnlyThread st t tid { th with regs := regs, fflags := flags, inflight := th.inflight.filter fun f => decide (tl.cycle < f.due) } ∧
      (∀ n, n ≠ 0 → { th with regs := regs }.reg n =
        ((due.filter fun f => f.reg = n).getLast?.map fun f => RegState.ready f.value).getD (th.reg n)) ∧
      (∀ i, flags.getLsbD i = (th.fflags.getLsbD i || due.any fun f => f.flags.getLsbD i)))

/-- A core that R39 chooses for an allocation: it has a free slot and a free range, and no core that has both has more free slots, or
as many with a smaller number. -/
def Chooses (tl : Tile) (n core : Nat) : Prop :=
  core < 8 ∧ tl.canTake n core = true ∧
    ∀ c < 8, tl.canTake n c = true → tl.freeSlots c < tl.freeSlots core ∨ (tl.freeSlots c = tl.freeSlots core ∧ core ≤ c)

/-- A thread has just been created (R27, R29) in a free slot of a core of a tile: nothing is pending, held, bound or raised. -/
def Created (st t : State) (id : TileId) (core thr alloc : Nat) (new : Thread) : Prop :=
  thr / 64 = core ∧ thr < 511 ∧ st.thread? ⟨id, thr⟩ = none ∧ t.thread? ⟨id, thr⟩ = some new ∧
  (∀ u, u ≠ ⟨id, thr⟩ → t.thread? u = st.thread? u) ∧ (∀ u, u ≠ id → t.tile? u = st.tile? u) ∧ new.alloc = alloc ∧ new.base % 8 = 0 ∧ new.base + alloc ≤ 2048 ∧
  new.fflags = 0 ∧ new.tstat = 0 ∧ new.loops = [] ∧ new.inflight = [] ∧ new.claim = none ∧ new.accGroup = none ∧ new.member = false ∧
  new.follow = none ∧ new.step = false ∧ new.priv = false ∧ new.kill = false ∧ ∀ m, new.stream? m = none

/-- R39, R29: a dispatch takes the head packet of a tile's work list and creates its thread on the core that R39 chooses, at ENTRY,
with the stack extent in x1, the exit address in x2, the packet's arguments in x4 to x7 and zeros elsewhere, once the cores have
taken their turns of the tile cycle and no arrived thread that some core can take waits (R26); packets moored behind a full list (R374)
then join it. It creates no thread while as many program threads exist in the tile as `.threads` allows (Table 7.2). -/
def Dispatches : Prop :=
  ∀ st id tl la p rest core b, st.tile? id = some tl → st.launchOf id = some la → la.cancelled = false → tl.berth = some b →
    tl.stopped = false → st.cycleOver id = true → tl.work = p :: rest → p.length = 16 →
    let threads := (tl.threads.filter fun e => e.1 ≠ 511).length
    (la.kernel.threads ≤ threads → exec (.dispatch id) st = .next st) ∧ (threads < la.kernel.threads →
    (tl.migrants = [] ∨ ∀ c < 8, tl.canTake 16 c = false) →
    let n := (((p.getD 7 0#32).extractLsb' 24 4).toNat + 1) * 8
    Chooses tl n core →
    ∃ t thr new tl' more, exec (.dispatch id) st = .next t ∧ Created st t id core thr n new ∧
      t = { st with tiles := t.tiles, launches := t.launches } ∧ (la.moored = [] → t.launches = st.launches ∧ more = []) ∧
      t.tile? id = some tl' ∧ tl'.work = rest ++ more ∧ new.pc = p.getD 0 0#32 &&& 0xFFFFFFFC#32 ∧ new.preds = 0 ∧ new.mode = la.kernel.mode ∧
      (∀ i < n, new.reg i = .ready (if i = 1 then BitVec.ofNat 32 ((la.kernel.entryOf 0).ext.getD 0 0 + 1) else if i = 2 then la.kernel.exit
        else if 4 ≤ i ∧ i < 8 then p.getD (i - 3) 0#32 else 0#32)) ∧
      new.fmt = p.getD 5 0#32 ∧ new.scp = p.getD 6 0#32 ∧ new.migok = (p.getD 7 0#32).getLsbD 17 ∧ new.parent = none ∧
      new.task = some ⟨p.getD 9 0#32 ++ p.getD 8 0#32, p.getD 10 0#32⟩)

/-- R26, R46: an arrived thread is created with the state that it carries, FFLAGS clear and SCP zero, once the cores have taken their
turns of the tile cycle. -/
def MigrantsArrive : Prop :=
  ∀ st id tl la m rest core b, st.tile? id = some tl → st.launchOf id = some la → la.cancelled = false → tl.berth = some b →
    tl.stopped = false → st.cycleOver id = true → tl.migrants = m :: rest → m.regs.length = 16 → Chooses tl 16 core →
    ∃ t thr new tl', exec (.migrantCreate id) st = .next t ∧ Created st t id core thr 16 new ∧ t = { st with tiles := t.tiles } ∧
      t.tile? id = some tl' ∧ tl'.migrants = rest ∧ tl'.work = tl.work ∧ new.pc = m.pc ∧ new.preds = m.preds ∧ new.fmt = m.fmt ∧
      new.scp = 0 ∧ new.mode = m.mode ∧ new.task = m.task ∧ new.sbchk = m.sbchk ∧ new.fold = m.fold ∧ new.migok = m.migok ∧
      (∀ i < 16, i ≠ 0 → new.reg i = .ready (m.regs.getD i 0#32))

/-- R52, R53: a killed thread with no started command and no bound stream leaves its slot, and its task counts as cancelled. -/
def Kills : Prop :=
  ∀ st tid th la tl e, st.thread? tid = some th → th.kill = true → th.rerun = false → st.tile? tid.tile = some tl → st.launchOf tid.tile = some la →
    la.arrived = [] → st.cmdsOf tid = [] → (∀ b ∈ th.streams, b = none) → e ∈ tl.threads → e.1 ≠ tid.thr → th.task.isSome = true →
    th.parent = none →
    ∃ t la', exec (.threadKill tid) st = .next t ∧ KeepsMemory st t la ∧ t.thread? tid = none ∧
      (∀ u, u ≠ tid → (t.thread? u).map (·.regs) = (st.thread? u).map (·.regs)) ∧
      t.launchOf tid.tile = some la' ∧ la'.lost = la.lost + 1

/-- R42, R43: at a balancing interval a tile ships half its excess over its least loaded neighbour, of its unpinned packets those
nearest the tail, in list order; and the target appends an arriving shipment up to its free space, and returns the rest to the
sender's list. -/
def Balancing : Prop :=
  (∀ st id tl la b, st.tile? id = some tl → st.launchOf id = some la → tl.berth = some b →
    let now := (st.field (fieldOf b)).time / (1000 * max 1 la.kernel.balanceUs)
    let s := st.modTile id fun x => { x with sampled := x.sampled + 1, sampledLen := x.work.length }
    (now = tl.sampled → exec (.levellerSample id) st = .next st) ∧
    (la.cancelled = false → tl.stopped = false → st.gangState id = .resident → tl.sampled < now →
      (s.neighbours id la.kernel = [] → exec (.levellerSample id) st = .next s) ∧
      (∀ dst len, (dst, len) ∈ s.neighbours id la.kernel →
        (∀ o ∈ s.neighbours id la.kernel, len < o.2 ∨ (len = o.2 ∧ dst.num ≤ o.1.num)) →
        let pinned := fun p : Packet => (p.getD 7 0#32).getLsbD 16
        let n := min ((tl.work.length - len) / 2) (tl.work.filter fun p => !pinned p).length
        (n = 0 → exec (.levellerSample id) st = .next s) ∧
        (0 < n → ∃ t i kept shipped more, exec (.levellerSample id) st = .next t ∧
          t = { st with tiles := t.tiles, nextId := t.nextId, launches := t.launches } ∧
          (la.moored = [] → t.launches = st.launches ∧ more = []) ∧ (∀ u, u ≠ id → t.tile? u = st.tile? u) ∧
          t.tile? id = some { tl with
            sampled := tl.sampled + 1, sampledLen := tl.work.length, work := kept ++ more
            niq := tl.niq ++ [⟨i, id, dst, .shipment shipped, 0, 0, false⟩] } ∧
          shipped.length = n ∧ kept.Sublist tl.work ∧ kept.filter pinned = tl.work.filter pinned ∧
          tl.work.filter (fun p => !pinned p) = kept.filter (fun p => !pinned p) ++ shipped)))) ∧
  (∀ st it ps src tl, st.items.find? (·.id = it.id) = some it → it.back = false → st.inOrder it = true → it.payload = .shipment ps →
    it.src ≠ it.dst → st.tile? it.src = some src → st.tile? it.dst = some tl →
    let room := if tl.berth.isSome ∧ st.gangState it.dst = .resident then 1024 - tl.work.length else 0
    st.mooredPackets it.src = [] → src.work.length + (ps.drop room).length ≤ 1024 →
    ∃ t, exec (.levellerShipmentArrival it.id) st = .next t ∧
      t = { st with tiles := t.tiles, items := st.items.filter (·.id ≠ it.id), itemAcks := st.itemAcks ++ [(it.id, it.origin)] } ∧
      t.tile? it.dst = some { tl with work := tl.work ++ ps.take room } ∧
      t.tile? it.src = some { src with work := src.work ++ ps.drop room } ∧ ∀ u, u ≠ it.src → u ≠ it.dst → t.tile? u = st.tile? u)

/-- R208, R303, R503: once its field's offset of 4 ns for each step of the code has passed since the completion of the generation at
which it is parked, or since its gang's start, a thread of a field's tiles is on the wheel; every other thread is as it was. -/
def FieldReleases : Prop :=
  ∀ st part slot field la, st.launches.get? (part, slot) = some la → (st.tiles.map (·.1)).Nodup →
    (∀ e ∈ st.tiles, (e.2.threads.map (·.1)).Nodup) →
    ∃ t, exec (.fieldOffsetRelease part slot field) st = .next t ∧ t = { st with tiles := t.tiles } ∧
      ∀ u th tl, st.thread? u = some th → st.tile? u.tile = some tl →
        (∀ x, u.tile.part = part → u.tile.slot = slot → st.gangState u.tile = .resident → tl.berth.map fieldOf = some field →
          th.releaseFrom la = some x → x + 4 * ((st.field field).code : Int) ≤ st.now →
          u.thr < 512 → ∃ p, t.thread? u = some { th with status := .dealt p }) ∧
        (tl.berth.map fieldOf ≠ some field ∨ (∀ x, th.releaseFrom la = some x → st.now < x + 4 * ((st.field field).code : Int)) →
          t.thread? u = some th)

/-! ## The network (23, 02) -/

/-- An item has been sent from a berth to a berth for its tile (R445): it is on its way, it is unacknowledged at its interface, whose
cache holds the entry, and no other berth has changed. A cached entry that gives way counts as dropped (R447). -/
def Sent (st t : State) (b : Nat) (it : Item) (d gen : Nat) : Prop :=
  t.items = st.items ++ [{ it with origin := b, target := d, back := false }] ∧
  (let rest := (st.berth b).cache.filter fun e => e.tile ≠ it.dst;
    (rest.length < 256 → (t.berth b).unacked = (st.berth b).unacked ++ [⟨it.id, it.dst, false⟩]) ∧
    (∀ o more, rest = o :: more → 256 ≤ rest.length → (t.berth b).unacked =
      ((st.berth b).unacked.map fun u => if u.tile = o.tile then { u with dropped := true } else u) ++ [⟨it.id, it.dst, false⟩])) ∧
  (t.berth b).cache.getLast? = some ⟨it.dst, d, gen⟩ ∧ (t.berth b).cache.length ≤ max 256 (st.berth b).cache.length ∧
  (∀ g, g ≠ b → t.berth g = st.berth g)

/-- An item has been moored for its tile, which is not resident, and its gang is summoned with the source of the fault (R450, R459). -/
def MooredFor (st t : State) (it : Item) (source : Nat) (la : Launch) : Prop :=
  ∃ la', t.launchOf it.dst = some la' ∧ la'.moored = la.moored ++ [⟨it, st.now, source⟩] ∧
    ∀ g, la.gangs[la.kernel.gangOf it.dst.num]? = some g → ∃ g', la'.gangs[la.kernel.gangOf it.dst.num]? = some g' ∧
      (g.state ≠ .resident → g'.moorn = g.moorn + 1) ∧
      (g.fault = none → g.state = .absent → g'.fault = some (st.now, source) ∧ g'.state = .waiting)

/-- No launch's retirement or completion waits for an item (R30, R51): none retires with it, and every launch has a living thread. -/
def Unawaited (st : State) (id : Nat) : Prop :=
  ∀ l ∈ st.launches, (∀ r ∈ l.2.retiring, id ∉ r) ∧ ∃ e ∈ st.tilesOf l.1.1 l.1.2, e.2.threads ≠ []

/-- R445, R293, R447: a network interface sends its oldest item to the berth of the entry that it has cached or reads, once no item
for that tile under a dropped entry is unacknowledged; it moors an item whose tile is not moored anywhere, but for a shipment of the
leveller, which goes back to its sender's list (R43); and with nothing queued it takes the next message of the cores' outbound queues in round robin. -/
def Sending : Prop :=
  (∀ st b id tl it rest, (st.berth b).moored = some id → st.tile? id = some tl → tl.berth = some b → (∀ c ∈ tl.cores, c.outbound = []) →
    tl.niq = it :: rest → (∀ u ∈ (st.berth b).unacked, u.tile = it.dst → u.dropped = false) →
    (∀ e, (st.berth b).cache.find? (fun e => e.tile = it.dst) = some e →
      ∃ t, exec (.niSend b) st = .next t ∧ Sent st t b it e.berth e.gen ∧ t.mem = st.mem ∧ t.tile? id = some { tl with niq := rest } ∧
        ∀ u, u ≠ id → t.tile? u = st.tile? u) ∧
    (∀ la v d, (∀ e ∈ (st.berth b).cache, e.tile ≠ it.dst) → st.launchOf it.dst = some la → la.table.get? it.dst.num = some v →
      v.berth = some d → ∃ t, exec (.niSend b) st = .next t ∧ Sent st t b it d v.gen ∧ t.mem = st.mem ∧
        t.tile? id = some { tl with niq := rest } ∧ ∀ u, u ≠ id → t.tile? u = st.tile? u) ∧
    (∀ la v, (∀ e ∈ (st.berth b).cache, e.tile ≠ it.dst) → st.launchOf it.dst = some la → la.table.get? it.dst.num = some v →
      v.berth = none → (∀ ps, it.payload ≠ .shipment ps) → la.cancelled = false → st.moorRoom it.dst.part it.dst.slot = true →
      Unawaited st it.id →
      ∃ t, exec (.niSend b) st = .next t ∧ MooredFor st t it b la ∧ t.items = st.items ∧ t.mem = st.mem ∧
        t.tile? id = some { tl with niq := rest }) ∧
    (∀ la v ps, (∀ e ∈ (st.berth b).cache, e.tile ≠ it.dst) → st.launchOf it.dst = some la → la.table.get? it.dst.num = some v →
      v.berth = none → it.payload = .shipment ps → it.src = id → st.mooredPackets id = [] → tl.work.length + ps.length ≤ 1024 →
      ∃ t, exec (.niSend b) st = .next t ∧ t = { st with tiles := t.tiles } ∧
        t.tile? id = some { tl with niq := rest, work := tl.work ++ ps })) ∧
  (∀ st b id tl c m rest e, (st.berth b).moored = some id → st.tile? id = some tl → tl.berth = some b → tl.niq = [] → c < 8 →
    (∀ j < (c + 8 - tl.nextCore % 8) % 8, (tl.core ((tl.nextCore + j) % 8)).outbound = []) → (tl.core c).outbound = m :: rest →
    let dst : TileId := { id with num := m.dst.toNat }
    (∀ u ∈ (st.berth b).unacked, u.tile = dst → u.dropped = false) →
    (st.berth b).cache.find? (fun e => e.tile = dst) = some e →
    ∃ t tl', exec (.niSend b) st = .next t ∧ Sent st t b ⟨m.id, id, dst, .message m, 0, 0, false⟩ e.berth e.gen ∧ t.mem = st.mem ∧
      t.tile? id = some tl' ∧ tl'.niq = [] ∧ (tl'.core c).outbound = rest ∧ tl'.nextCore = (c + 1) % 8)

/-- An item leaves the network at its target, which acknowledges it (R447). -/
def TakenAt (st t : State) (it : Item) : Prop :=
  t.items = st.items.filter (·.id ≠ it.id) ∧ t.itemAcks = st.itemAcks ++ [(it.id, it.origin)] ∧ t.mem = st.mem

/-- R446, R462, R454, R459: an item that reaches the berth of its tile, of a resident gang, with none of its tile for that tile ahead of it
on the way (R447), enters it: a message the inbox, where a
posted RECV takes it at once, an access its visibility point, a packet the work list and a migrating thread the arrivals. A
gang that is not resident has it moored, a berth whose tile is not restored yet holds it, and any other berth forwards it or
sends it back. -/
def Arrivals : Prop :=
  ∀ st it, st.items.find? (·.id = it.id) = some it → it.back = false → st.inOrder it = true →
    let b := st.berth it.target
    (∀ tl, b.moored = some it.dst → b.state ≠ .restoring → st.gangState it.dst = .resident → st.tile? it.dst = some tl →
      (∀ m, it.payload = .message m → tl.heap = [] → tl.held = [] → tl.overflow = [] → slotsOf tl.inbox + m.slots ≤ 2048 → tl.recvs = [] →
        ∃ t, exec (.itemArrival it.id) st = .next t ∧ TakenAt st t it ∧ t.tile? it.dst = some { tl with inbox := tl.inbox ++ [m] }) ∧
      (∀ m, it.payload = .message m → (tl.heap ≠ [] ∨ tl.held ≠ [] ∨ tl.overflow ≠ [] ∨ 2048 < slotsOf tl.inbox + m.slots) →
        ∃ t, exec (.itemArrival it.id) st = .next t ∧ TakenAt st t it ∧ t.tile? it.dst = some { tl with overflow := tl.overflow ++ [m] }) ∧
      (∀ m n c e s, it.payload = .message m → tl.heap = [] → tl.held = [] → tl.overflow = [] → tl.inbox = [] → m.slots ≤ 2048 →
        tl.recvs = [⟨m.ch, n, c, e, none⟩] → (tl.core c).symbols.get? e = some s →
        ∃ t tl', exec (.itemArrival it.id) st = .next t ∧ TakenAt st t it ∧ t.tile? it.dst = some tl' ∧ tl'.inbox = [] ∧ tl'.recvs = [] ∧
          (tl'.core c).symbols.get? e = some { s with
            data := some ((List.range n).map fun j => m.words.getD j 0#32), flags := 0, bad := false }) ∧
      (∀ a, it.payload = .access a → ∃ t, exec (.itemArrival it.id) st = .next t ∧ TakenAt st t it ∧ t.tiles = st.tiles ∧
        t.accesses = st.accesses.map fun x => if x.id = a then { x with st := .arrived } else x) ∧
      (∀ p, it.payload = .packet p → tl.work.length < 1024 → st.mooredPackets it.dst = [] →
        ∃ t, exec (.itemArrival it.id) st = .next t ∧ TakenAt st t it ∧ t.tile? it.dst = some { tl with work := tl.work ++ [p] }) ∧
      (∀ m, it.payload = .migrant m →
        ∃ t, exec (.itemArrival it.id) st = .next t ∧ TakenAt st t it ∧ t.tile? it.dst = some { tl with migrants := tl.migrants ++ [m] })) ∧
    ((∀ ps, it.payload ≠ .shipment ps) →
      (b.moored = some it.dst → b.state = .restoring → st.gangState it.dst = .resident →
        ∃ t, exec (.itemArrival it.id) st = .next t ∧ TakenAt st t it ∧ t.tiles = st.tiles ∧ t.berth it.target = { b with held := b.held ++ [it] }) ∧
      (∀ la, b.moored = some it.dst → st.gangState it.dst ≠ .resident → st.launchOf it.dst = some la → la.cancelled = false →
        st.moorRoom it.dst.part it.dst.slot = true →
        ∃ t, exec (.itemArrival it.id) st = .next t ∧ TakenAt st t it ∧ t.tiles = st.tiles ∧ MooredFor st t it it.origin la) ∧
      (∀ to' num, b.moored ≠ some it.dst → b.fwdr = some (to', num) → num = it.dst.num →
        ∃ t, exec (.itemArrival it.id) st = .next t ∧
          t = { st with items := st.items.map fun i => if i.id = it.id then { i with target := to' } else i }) ∧
      (b.moored ≠ some it.dst → (∀ to' num, b.fwdr = some (to', num) → num ≠ it.dst.num) →
        ∃ t, exec (.itemArrival it.id) st = .next t ∧
          t = { st with items := st.items.map fun i => if i.id = it.id then { i with back := true } else i }))

/-- R446, R447: an item that comes back is sent again, ahead of those sent behind it, under the entry as it now stands, its interface's
cached one dropped; an
acknowledgement takes its item off the unacknowledged ones; and a write of NIINV, or an invalidation, drops one interface's
entry of a tile, so that what it has sent under it counts as sent under a dropped entry. -/
def Entries : Prop :=
  (∀ st it la v d, st.items.find? (·.id = it.id) = some it → it.back = true → st.inOrder it = true → st.launchOf it.dst = some la →
    la.table.get? it.dst.num = some v → v.berth = some d →
    ∃ t, exec (.itemReturn it.id) st = .next t ∧ t.tiles = st.tiles ∧ t.mem = st.mem ∧
      t.items = { it with target := d, back := false } :: st.items.filter (·.id ≠ it.id) ∧
      (t.berth it.origin).cache.filter (fun e => e.tile = it.dst) = [⟨it.dst, d, v.gen⟩]) ∧
  (∀ st n b, st.itemAcks.find? (·.1 = n) = some (n, b) → Unawaited st n →
    ∃ t, exec (.itemAcknowledgement n) st = .next t ∧ t = { st with itemAcks := t.itemAcks, berths := t.berths } ∧
      t.itemAcks = st.itemAcks.filter (·.1 ≠ n) ∧
      t.berth b = { st.berth b with unacked := (st.berth b).unacked.filter (·.item ≠ n) } ∧ ∀ g, g ≠ b → t.berth g = st.berth g) ∧
  (∀ st b slot num, let id : TileId := ⟨(st.berth b).part, slot, num⟩
    ∃ t, exec (.niinv b slot num) st = .next t ∧ t = { st with berths := t.berths } ∧
      t.berth b = { st.berth b with
        cache := (st.berth b).cache.filter (·.tile ≠ id)
        unacked := (st.berth b).unacked.map fun u => if u.tile = id then { u with dropped := true } else u } ∧
      ∀ g, g ≠ b → t.berth g = st.berth g) ∧
  (∀ st b id tl r, st.tile? id = some tl → tl.reloc = some r →
    ∃ t, exec (.invalidation b id) st = .next t ∧ t = { st with berths := t.berths, tiles := t.tiles } ∧
      t.tile? id = some { tl with reloc := some { r with acks := r.acks.filter (· ≠ b) } } ∧
      t.berth b = { st.berth b with
        cache := (st.berth b).cache.filter (·.tile ≠ id)
        unacked := (st.berth b).unacked.map fun u => if u.tile = id then { u with dropped := true } else u } ∧
      (∀ g, g ≠ b → t.berth g = st.berth g) ∧ ∀ u, u ≠ id → t.tile? u = st.tile? u)

/-- A tile's record has changed as given, and a message has joined its heap, whose bytes in the scratchpad hold the message's words; the
bytes of no other subject have changed. -/
def HeapJoined (st t : State) (id : TileId) (tl new : Tile) (k : Kernel) (m : Message) : Prop :=
  t = { st with tiles := t.tiles, mem := t.mem } ∧
  (∃ p, t.tile? id = some { new with heap := tl.heap ++ [m], poison := p }) ∧ (∀ u, u ≠ id → t.tile? u = st.tile? u) ∧
  (∀ i < m.words.length, memRead t.mem (Place.scratch id (k.heapWord (tl.heapAt + slotsOf tl.heap) i)).key 4 = (m.words.getD i 0#32).toNat) ∧
  ∀ a, (∀ off, off < 0x300000 → (Place.scratch id off).key ≠ a) → memGet t.mem a = memGet st.mem a

/-- R83: the oldest message that waits behind a full inbox goes to the spillway heap, or is held when the heap has no room; a heap
message goes into the inbox, as the heap's bytes hold it, as slots become free, and a held one into the heap, or with a heap of size
0 into the inbox. The place of a message in the heap's bytes is the model's (log entry 47). -/
def Spillway : Prop :=
  ∀ st id tl la m rest, MemoryOk st → st.tile? id = some tl → st.launchOf id = some la → la.kernel.spill ≤ 0x300000 →
    let heapRoom := (slotsOf tl.heap + m.slots) * 32 ≤ la.kernel.spill
    let inboxRoom := slotsOf tl.inbox + m.slots ≤ 2048
    let word (i : Nat) := BitVec.ofNat 32 (memRead st.mem (Place.scratch id (la.kernel.heapWord tl.heapAt i)).key 4)
    (tl.overflow = m :: rest →
      (tl.held = [] → heapRoom → ∃ t, exec (.spillwayAppend id) st = .next t ∧
        HeapJoined st t id tl { tl with overflow := rest } la.kernel m) ∧
      (tl.held ≠ [] ∨ ¬ heapRoom → st.moorRoom id.part id.slot = true →
        ∃ t, exec (.spillwayAppend id) st = .next t ∧ OnlyTile st t id { tl with overflow := rest, held := tl.held ++ [m] })) ∧
    (tl.recvs = [] →
      (tl.heap = m :: rest → inboxRoom → ∃ t, exec (.spillwayReplay id) st = .next t ∧
        OnlyTile st t id { tl with
          heap := rest, heapAt := (tl.heapAt + m.slots) % (la.kernel.spill / 32)
          inbox := tl.inbox ++ [{ m with words := (List.range m.words.length).map word }] }) ∧
      (tl.held = m :: rest → la.kernel.spill = 0 → inboxRoom → ∃ t, exec (.heldMessageMove id) st = .next t ∧
        OnlyTile st t id { tl with held := rest, inbox := tl.inbox ++ [m] })) ∧
    (tl.held = m :: rest → la.kernel.spill ≠ 0 → heapRoom → ∃ t, exec (.heldMessageMove id) st = .next t ∧
      HeapJoined st t id tl { tl with held := rest } la.kernel m)

/-! ## Results and engines (02, 03, 05, 09, 10) -/

/-- A thread's context after an entry has resolved to some words (R149, R160): each clean pending register of the entry is ready with
its value, and the flags of the entry and of the resolutions are in FFLAGS. -/
def Resolved (th new : Thread) (entry : Nat) (data : List Word) (flags : FFlags) : Prop :=
  new = { th with regs := new.regs, fflags := new.fflags, acqHold := th.acqHold.erase entry } ∧
  (∀ n, n ≠ 0 → new.reg n = match th.reg n with
    | .pending e w k false => if e = entry then .ready (k.resolve (data.getD w 0#32)).bits else .pending e w k false
    | r => r) ∧
  (∀ i, new.fflags.getLsbD i = (th.fflags.getLsbD i || flags.getLsbD i || th.regs.any fun r => match r with
    | .pending e w k false => e == entry && (k.resolve (data.getD w 0#32)).flags.getLsbD i
    | _ => false))

/-- R160, R167, R168: a result that reaches its core, in its turn among the RECVs of a channel (R160), frees its entry and resolves every register
that holds one of its symbols; uncorrectable data poison those registers instead, and an abandoned entry changes no register. R276: the special function unit
starts its oldest request unless one started less than 2 tile cycles ago, and 16 tile cycles later the request's symbol
resolves to its function value. -/
def Deliveries : Prop :=
  (∀ st id c e s data tl th, st.tile? id = some tl → (tl.core c).symbols.get? e = some s → s.data = some data →
    st.thread? ⟨id, s.thr⟩ = some th →
    (∀ ch n, s.source = .recv ch n → ∀ o ∈ tl.cores, ∀ k x m, (k, x) ∈ o.symbols → x.source = .recv ch m → x.discard = false → n ≤ m) →
    st.resultEcc id c e = .clean →
    ∃ t tl', exec (.resultDelivery id c e) st = .next t ∧ t = { st with tiles := t.tiles } ∧ t.tile? id = some tl' ∧
      (tl'.core c).symbols = (tl.core c).symbols.erase e ∧ (∀ u, u ≠ ⟨id, s.thr⟩ → t.thread? u = st.thread? u) ∧
      (s.discard = true → t.thread? ⟨id, s.thr⟩ = some th) ∧
      (s.discard = false → s.bad = false → ∃ new, t.thread? ⟨id, s.thr⟩ = some new ∧ Resolved th new e data s.flags) ∧
      (s.discard = false → s.bad = true → ∃ new, t.thread? ⟨id, s.thr⟩ = some new ∧ new.fflags = th.fflags ∧
        ∀ n, n ≠ 0 → new.reg n = match th.reg n with
          | .pending e' w k p => .pending e' w k (p || e' == e)
          | r => r)) ∧
  (∀ st id tl r rest, st.tile? id = some tl → tl.sfuFifo = r :: rest → tl.stopped = false →
    ((∀ b ∈ tl.sfuBusy, b.2 + 2 ≤ tl.cycle + 16) → ∃ t, exec (.sfuStart id) st = .next t ∧
      OnlyTile st t id { tl with sfuFifo := rest, sfuBusy := tl.sfuBusy ++ [(r, tl.cycle + 16)] }) ∧
    ((∃ b ∈ tl.sfuBusy, tl.cycle + 16 < b.2 + 2) → ∃ t, exec (.sfuStart id) st = .next t ∧ OnlyTile st t id tl)) ∧
  (∀ st id tl r due rest s th, st.tile? id = some tl → tl.sfuBusy = (r, due) :: rest → due ≤ tl.cycle →
    (tl.core (r.thr / 64)).symbols.get? r.entry = some s → s.thr = r.thr → s.discard = false → st.thread? ⟨id, r.thr⟩ = some th →
    ∃ t tl' new, exec (.sfuResult id) st = .next t ∧ t = { st with tiles := t.tiles } ∧ t.tile? id = some tl' ∧ tl'.sfuBusy = rest ∧
      t.thread? ⟨id, r.thr⟩ = some new ∧ Resolved th new r.entry [(sfun r.fn r.arg).bits] (sfun r.fn r.arg).flags ∧
      ∀ u, u ≠ ⟨id, r.thr⟩ → t.thread? u = st.thread? u)

/-- R102: an acknowledgement of a peer write lowers the counter of the thread that issued it. R88: 512 tile cycles after the last store into a line the
combining buffer drains, and a drained store stands at its visibility point. R103: a bank group echoes a probe when no write of
the thread's tile to it that is ahead of the probe is unperformed. -/
def Completions : Prop :=
  (∀ st n tid th, st.acks.find? (·.1 = n) = some (n, tid) → st.thread? tid = some th →
    ∃ t, exec (.peerWriteAck n) st = .next t ∧ t.mem = st.mem ∧ t.acks = st.acks.filter (·.1 ≠ n) ∧
      t.thread? tid = some { th with peerOut := th.peerOut.filter (· ≠ n) } ∧ ∀ u, u ≠ tid → t.thread? u = st.thread? u) ∧
  (∀ st tid th tl line id last a va pa, st.thread? tid = some th → st.tile? tid.tile = some tl → th.lines = [⟨line, [id], last⟩] →
    last + 512 ≤ tl.cycle → st.accesses.find? (·.id = id) = some a → a.place = .rim va pa →
    ∃ t, exec (.combiningBufferTimeout tid) st = .next t ∧
      t = { st with tiles := t.tiles, nextId := t.nextId, accesses := t.accesses } ∧
      t.thread? tid = some { th with lines := [] } ∧ (∀ u, u ≠ tid → t.thread? u = st.thread? u) ∧
      ∃ n, t.accesses = st.accesses.filter (·.id ≠ id) ++ [{ a with id := n, st := .arrived }]) ∧
  (∀ st tid th r ps group, st.thread? tid = some th → th.fence = some r → r.probes = some ps →
    let ahead := fun mark : Nat => ∃ a ∈ st.accesses, ∃ va pa, a.place = .rim va pa ∧ a.kind ≠ .load ∧ a.data.isSome = true ∧ a.agent.tile = tid.tile ∧
      pa / 256 % 15360 / 240 = group ∧ a.st = .arrived ∧ a.id < mark
    ∃ t left, exec (.probeEcho tid group) st = .next t ∧
      OnlyThread st t tid { th with fence := some { r with probes := some left } } ∧
      ∀ p, p ∈ left ↔ p ∈ ps ∧ (p.1 ≠ group ∨ ahead p.2))

/-- R110, R113: a waiting registration enters the lowest free entry of its table when it conflicts with no entered one, and otherwise
waits. -/
def Registrations : Prop :=
  ∀ st id tl r i, st.tile? id = some tl → tl.regWait = [r] → tl.rlt.idxOf? none = some i →
    ((∀ x, some x ∈ tl.rlt → r.conflicts x = false) → ∃ t, exec (.registrationEnter id r.id) st = .next t ∧
      OnlyTile st t id { tl with rlt := tl.rlt.set i (some r), regWait := [] }) ∧
    ((∃ x, some x ∈ tl.rlt ∧ r.conflicts x = true) → ∃ t, exec (.registrationEnter id r.id) st = .next t ∧ OnlyTile st t id tl)

/-- R94, R172, R173: the access half of a read stream fetches its next element into its queue, as its word, as zero for a discarded
one, or as the fault that its location raises; that of a write stream performs its oldest pushed element, which changes the bytes
of that element and no others. -/
def StreamElements : Prop :=
  (∀ st tid th la m b, st.thread? tid = some th → st.launchOf tid.tile = some la → th.stream? m = some b → b.mayFetch = true →
    st.entered b.regs = true →
    let gets := fun (e : Elem) => ∃ t new, exec (.streamFetch tid m .clean) st = .next t ∧ t.mem = st.mem ∧
      t.thread? tid = some new ∧ new.regs = th.regs ∧ new.stream? m = some { b with queue := b.queue ++ [e], fetched := b.fetched + 1 } ∧
      ∀ n, n ≠ m → new.stream? n = th.stream? n
    (∀ c, streamTarget st tid th.priv b b.fetched = .error c → gets (.fault c)) ∧
    (streamTarget st tid th.priv b b.fetched = .ok (none, st) → gets (.word 0#32)) ∧
    (∀ p code, streamTarget st tid th.priv b b.fetched = .ok (some (p, code), st) →
      let e := la.kernel.entryOf b.entry
      engineReady st tid.tile (.stream tid m) p e.size false = true → threadOverlaps st tid p e.size false = false →
      st.poisoned p e.size = false → gets (.word (readElem st.mem e p code)))) ∧
  (∀ st tid th la m b w p code rest, MemoryOk st → st.thread? tid = some th → st.launchOf tid.tile = some la → th.stream? m = some b → b.write = true →
    b.queue = .store w (some (p, code)) :: rest → st.entered b.regs = true →
    let e := la.kernel.entryOf b.entry
    engineReady st tid.tile (.stream tid m) p e.size true = true → threadOverlaps st tid p e.size true = false →
    ∃ t new, exec (.streamDrain tid m .clean) st = .next t ∧ t.thread? tid = some new ∧ new.regs = th.regs ∧
      (∃ regs, new.stream? m = some { b with queue := rest, regs := regs }) ∧ (∀ n, n ≠ m → new.stream? n = th.stream? n) ∧
      (∀ a, a < p.key ∨ p.key + e.size ≤ a → memGet t.mem a = memGet st.mem a) ∧
      (e.packed = false → memRead t.mem p.key e.size = (storeBits e.elem w).toNat % 256 ^ e.size) ∧
      (e.packed = true → code < 4 → ∀ c < 4, memRead t.mem p.key 3 / 64 ^ c % 64 =
        if c = code then w.toNat % 64 else memRead st.mem p.key 3 / 64 ^ c % 64))

/-- The word of a copy's completion token (Table 5.5): the status above the count of its elements. -/
def tokenWord (status count : Nat) : Word := BitVec.ofNat 4 status ++ 0#4 ++ BitVec.ofNat 24 count

/-- R113, R297, R298, R115: a copy queue accepts its next command when the one before it has registered and no other queue may accept one of
a lesser THRID, and ends it when a check fails;
the running copy reads its next element and then writes it, changing the bytes of that element and no others; and a copy whose box
is done, or that met an error, ends: its ranges are released and its token's symbol has its status and count. -/
def Copies : Prop :=
  (∀ st id tl la q c, st.tile? id = some tl → st.launchOf id = some la → (tl.copyQ.getD q []).find? (fun c => !c.accepted) = some c →
    (∀ p ∈ tl.copyQ.getD q [], p.accepted = true → st.entered p.regs = true) →
    (∀ j d, j ≠ q → (tl.copyQ.getD j []).find? (fun d => !d.accepted) = some d →
      (∀ p ∈ (tl.copyQ.getD j []).takeWhile (·.accepted), st.entered p.regs = true) → c.thr < d.thr ∨ (c.thr = d.thr ∧ q < j)) →
    (∀ s, copyCheck st id la.kernel c.thr c.desc = .error s → ∃ t, exec (.copyAccept id q) st = .next t ∧
      OnlyTile st t id { tl with copyQ := tl.copyQ.map fun cs => cs.map fun x =>
        if x.id = c.id then { x with accepted := true, ended := some s } else x }) ∧
    (∀ rs, copyCheck st id la.kernel c.thr c.desc = .ok rs → ∃ t tl' ids, exec (.copyAccept id q) st = .next t ∧ t.mem = st.mem ∧
      t.tile? id = some tl' ∧ tl'.threads = tl.threads ∧ tl'.copyQ = tl.copyQ.map fun cs => cs.map fun x =>
        if x.id = c.id then { x with accepted := true, regs := ids } else x)) ∧
  (∀ st id tl la c n, MemoryOk st → st.tile? id = some tl → st.launchOf id = some la → (∀ a ∈ st.accesses, a.id ≠ n) → c.id = n →
    st.findCopy n = some (id, c) → c.doneBox la.kernel = false →
    let k := la.kernel
    let b := copyBox c.desc
    let r := (k.entryOf b.src).rank
    let set := fun (t : State) (f : CopyCmd → CopyCmd) => ∃ tl', t.tile? id = some tl' ∧
      tl'.copyQ = tl.copyQ.map fun cs => cs.map fun x => if x.id = n then f x else x
    (∀ num space off code p, c.held = none →
      resolveLoc k id.num c.thr false b.src .read (boxCoords (b.so.take r) (b.n.take r) c.pos) b.num 0 = .ok (.byte num space off code) →
      enginePlace st id (k.entryOf b.src) num space off true false = .ok (p, st) →
      engineReady st id (.copy id n) p (k.entryOf b.src).size false = true → st.poisoned p (k.entryOf b.src).size = false →
      ∃ t, exec (.accessPerformed n .clean) st = .next t ∧ t.mem = st.mem ∧
        set t fun x => { x with held := some (readElem st.mem (k.entryOf b.src) p code) }) ∧
    (∀ v num space off code p, c.held = some v →
      resolveLoc k id.num c.thr false b.dst .write (boxCoords (b.d0.take r) (b.n.take r) c.pos) b.num 0 = .ok (.byte num space off code) →
      enginePlace st id (k.entryOf b.dst) num space off false true = .ok (p, st) →
      let e := k.entryOf b.dst
      engineReady st id (.copy id n) p e.size true = true →
      ∃ t, exec (.accessPerformed n .clean) st = .next t ∧ (set t fun x => { x with held := none, pos := x.pos + 1 }) ∧
        (∀ a, a < p.key ∨ p.key + e.size ≤ a → memGet t.mem a = memGet st.mem a) ∧
        (e.packed = false → memRead t.mem p.key e.size = (storeBits e.elem v).toNat % 256 ^ e.size))) ∧
  (∀ st id tl la q c rest s x, st.tile? id = some tl → st.launchOf id = some la → Unawaited st c.id → q < 4 → tl.copyQ.getD q [] = c :: rest →
    c.accepted = true → st.entered c.regs = true → c.cancelled = false → (tl.core (c.thr / 64)).symbols.get? c.entry = some x →
    (c.ended = some s ∨ (c.ended = none ∧ s = 0 ∧ c.doneBox la.kernel = true)) → c.pos < 2 ^ 24 → s < 16 →
    ∃ t tl', exec (.copyComplete id q) st = .next t ∧ t.mem = st.mem ∧ t.tile? id = some tl' ∧
      tl'.copyQ.getD q [] = rest.filter (·.id ≠ c.id) ∧
      (tl'.core (c.thr / 64)).symbols.get? c.entry = some { x with data := some [tokenWord s c.pos], flags := 0, bad := false })

/-- R160, R276: a clean result of a load, an atomic, a copy or a special function completes the registers that wait on it and frees its
entry; an idle special function unit starts its oldest request, and a finished one resolves its symbol. -/
def ResultsArrive : Prop :=
  (∀ st id c e s data tl th, st.tile? id = some tl → (tl.core c).symbols.get? e = some s → s.data = some data → s.bad = false →
    s.discard = false → (∀ ch n, s.source ≠ .recv ch n) → st.thread? ⟨id, s.thr⟩ = some th →
    ∃ t tl' new, exec (.resultDelivery id c e) st = .next t ∧ t.tile? id = some tl' ∧
      (tl'.core c).symbols = (tl.core c).symbols.erase e ∧ t.thread? ⟨id, s.thr⟩ = some new ∧ Resolved th new e data s.flags) ∧
  (∀ st id tl r rest, st.tile? id = some tl → tl.sfuFifo = r :: rest → tl.stopped = false → tl.sfuBusy = [] →
    ∃ t, exec (.sfuStart id) st = .next t ∧ OnlyTile st t id { tl with sfuFifo := rest, sfuBusy := [(r, tl.cycle + 16)] }) ∧
  (∀ st id tl r due s th, st.tile? id = some tl → tl.sfuBusy = [(r, due)] → due ≤ tl.cycle →
    (tl.core (r.thr / 64)).symbols.get? r.entry = some s → s.thr = r.thr → s.discard = false → st.thread? ⟨id, r.thr⟩ = some th →
    ∃ t tl' new, exec (.sfuResult id) st = .next t ∧ t.tile? id = some tl' ∧ tl'.sfuBusy = [] ∧ t.thread? ⟨id, r.thr⟩ = some new ∧
      Resolved th new r.entry [(sfun r.fn r.arg).bits] (sfun r.fn r.arg).flags)

/-- R102, R88, R103: an acknowledgement takes a peer write off its thread's counter; a combining buffer whose line has stood for 512
tile cycles drains; and a bank group with nothing before a probe echoes it. -/
def AcksArrive : Prop :=
  (∀ st n tid th, st.acks = [(n, tid)] → st.thread? tid = some th →
    ∃ t, exec (.peerWriteAck n) st = .next t ∧ t.acks = [] ∧ t.thread? tid = some { th with peerOut := th.peerOut.filter (· ≠ n) }) ∧
  (∀ st tid th tl line id last a va pa, st.thread? tid = some th → st.tile? tid.tile = some tl → th.lines = [⟨line, [id], last⟩] →
    last + 512 ≤ tl.cycle → st.accesses = [a] → a.id = id → a.place = .rim va pa →
    ∃ t n, exec (.combiningBufferTimeout tid) st = .next t ∧ t.thread? tid = some { th with lines := [] } ∧
      t.accesses = [{ a with id := n, st := .arrived }]) ∧
  (∀ st tid th r ps group, st.thread? tid = some th → th.fence = some r → r.probes = some ps → st.accesses = [] →
    ∃ t, exec (.probeEcho tid group) st = .next t ∧
      OnlyThread st t tid { th with fence := some { r with probes := some (ps.filter fun p => p.1 ≠ group) } })

/-- R110, R173, R298: an empty range-lock table takes a waiting registration; an access half whose next element is discarded puts zero into
its queue, or drops the oldest pushed word; and a copy that a check refuses is accepted with its status and then ends, its token's
symbol with the status and no element. -/
def EnginesStart : Prop :=
  (∀ st id tl r, st.tile? id = some tl → tl.regWait = [r] → tl.rlt = List.replicate 32 none →
    ∃ t, exec (.registrationEnter id r.id) st = .next t ∧ OnlyTile st t id { tl with rlt := tl.rlt.set 0 (some r), regWait := [] }) ∧
  (∀ st tid th m b, st.thread? tid = some th → (st.launchOf tid.tile).isSome = true → th.stream? m = some b → b.mayFetch = true →
    st.entered b.regs = true → streamTarget st tid th.priv b b.fetched = .ok (none, st) →
    ∃ t new, exec (.streamFetch tid m .clean) st = .next t ∧ t.mem = st.mem ∧ t.thread? tid = some new ∧ new.regs = th.regs ∧
      new.stream? m = some { b with queue := b.queue ++ [.word 0#32], fetched := b.fetched + 1 }) ∧
  (∀ st tid th m b w rest, st.thread? tid = some th → (st.launchOf tid.tile).isSome = true → th.stream? m = some b → b.write = true →
    st.entered b.regs = true → b.queue = .store w none :: rest →
    ∃ t new regs, exec (.streamDrain tid m .clean) st = .next t ∧ t.mem = st.mem ∧ t.thread? tid = some new ∧ new.regs = th.regs ∧
      new.stream? m = some { b with queue := rest, regs := regs }) ∧
  (∀ st id tl la c s, st.tile? id = some tl → st.launchOf id = some la → tl.copyQ = [[c], [], [], []] → c.accepted = false →
    copyCheck st id la.kernel c.thr c.desc = .error s →
    ∃ t, exec (.copyAccept id 0) st = .next t ∧ OnlyTile st t id { tl with copyQ := [[{ c with accepted := true, ended := some s }], [], [], []] }) ∧
  (∀ st id tl la c s x, st.tile? id = some tl → st.launchOf id = some la → tl.copyQ = [[c], [], [], []] → c.accepted = true →
    c.cancelled = false → c.ended = some s → c.pos = 0 → c.regs = [] → s < 16 → Unawaited st c.id →
    (tl.core (c.thr / 64)).symbols.get? c.entry = some x →
    ∃ t tl', exec (.copyComplete id 0) st = .next t ∧ t.mem = st.mem ∧ t.tile? id = some tl' ∧ tl'.copyQ = [[], [], [], []] ∧
      (tl'.core (c.thr / 64)).symbols.get? c.entry = some { x with data := some [tokenWord s 0], flags := 0, bad := false })

/-! ## The host (22) -/

/-- Only one work queue differs. -/
def OnlyQueue (st t : State) (q : Nat) (x : HostQueue) : Prop := t.queue q = x ∧ ∀ o, o ≠ q → t.queue o = st.queue o

/-- The queue that the dispatcher of a partition serves (R432): of its queues with a command to take, one of the highest effective
priority, and among equals the next after the last one served, wrapping. -/
def Serving (st : State) (part q : Nat) (x : HostQueue) : Prop :=
  (st.queues.map (·.1)).Nodup ∧ (q, x) ∈ st.queues ∧ x.available = true ∧ st.queuePart q = some part ∧ (st.part part).lastQueue < 262144 ∧
  ∀ e ∈ st.queues, e.1 < 262144 ∧ (e.2.available = true → st.queuePart e.1 = some part →
    effective e.2 (st.partTime part) < effective x (st.partTime part) ∨
    (effective e.2 (st.partTime part) = effective x (st.partTime part) ∧
      (q + 262143 - (st.part part).lastQueue) % 262144 ≤ (e.1 + 262143 - (st.part part).lastQueue) % 262144))

/-- R430: a TAIL write of an enabled queue makes its commands available, one beyond the ring sets ERR 1 and QERR, and a queue with EN
clear ignores it. R431 to R433: the dispatcher takes the head command of the queue that it serves, which its 16 words in host
memory are; a failed read sets ERR 2, and an unknown opcode or a reserved bit, or a LAUNCH of a node beyond 4,095 or of more than 8
predecessors (log entry 39), ERR 3, with HEAD unchanged. R441, R426: a NOP with IRQ sets INTSTAT.DONE of its function, and sends one
message when that is new and not masked and the function exists and has the queue's vector. -/
def Queues : Prop :=
  (∀ st port func n tail q, st.localQueue port func n = some q →
    let x := st.queue q
    let size := if 6 ≤ x.qctl.toNat % 16 ∧ x.qctl.toNat % 16 ≤ 16 then x.qctl.toNat % 16 else 6
    (x.qctl.getLsbD 31 = false → exec (.doorbell port func n tail) st = .next st) ∧
    (x.qctl.getLsbD 31 = true → tail ≠ x.head →
      ((tail - x.head).toNat ≤ 2 ^ size → ∃ t since, exec (.doorbell port func n tail) st = .next t ∧ t = { st with queues := t.queues } ∧
        OnlyQueue st t q { x with tail := tail, since := since }) ∧
      (2 ^ size < (tail - x.head).toNat → ∃ t, exec (.doorbell port func n tail) st = .next t ∧ t.mem = st.mem ∧
        OnlyQueue st t q { x with err := 1 } ∧
        ∀ f p, qmapGiven (st.qmapOf (q / 131072) (q / 1024 % 128)) = some (f, p) → (t.func (q / 131072) f).intstat.getLsbD 2 = true))) ∧
  (∀ st part q x, Serving st part q x → st.boot.stage = 7 →
    let size := if 6 ≤ x.qctl.toNat % 16 ∧ x.qctl.toNat % 16 ≤ 16 then x.qctl.toNat % 16 else 6
    let ws := (List.range 16).map fun i =>
      BitVec.ofNat 32 (memRead st.mem (memKey 3 (q / 131072) (x.base + 64 * (x.head.toNat % 2 ^ size)) + 4 * i) 4)
    let w := fun i => (ws.getD i 0#32).toNat
    let known := 1 ≤ w 0 % 256 ∧ w 0 % 256 ≤ 5 ∧ w 0 / 2048 = 0 ∧ w 7 = 0 ∧ (∀ i < 4, w (12 + i) = 0) ∧
      (w 0 % 256 = 1 → w 5 / 65536 ≤ 8 ∧ w 5 % 65536 ≤ 4095)
    (∃ t, exec (.dispatcherTake part true) st = .next t ∧ t.taken = st.taken ∧ OnlyQueue st t q { x with err := 2 }) ∧
    (¬ known → ∃ t, exec (.dispatcherTake part false) st = .next t ∧ t.taken = st.taken ∧ OnlyQueue st t q { x with err := 3 }) ∧
    (known → w 0 % 256 ≠ 1 → ∃ t since, exec (.dispatcherTake part false) st = .next t ∧ t.taken = st.taken ++ [⟨q, ws⟩] ∧ t.mem = st.mem ∧
      OnlyQueue st t q { x with head := x.head + 1, since := since } ∧ (t.part part).lastQueue = q) ∧
    (known → w 0 % 256 = 1 → (st.part part).parked.length < 4096 → ∃ t c since, exec (.dispatcherTake part false) st = .next t ∧
      t.taken = st.taken ++ [c] ∧ c.queue = q ∧ (∀ i < 16, i ≠ 2 → i ≠ 3 → c.words.getD i 0#32 = ws.getD i 0#32) ∧
      OnlyQueue st t q { x with head := x.head + 1, since := since })) ∧
  (∀ st c, (∃ t, exec (.nop c) st = .next t ∧ t.mem = st.mem ∧ t.tiles = st.tiles) ∧
    ((c.words.getD 0 0#32).toNat / 256 % 2 = 0 → exec (.nop c) st = .next st) ∧
    ((c.words.getD 0 0#32).toNat / 256 % 2 = 1 → ∀ f p, qmapGiven (st.qmapOf (c.queue / 131072) (c.queue / 1024 % 128)) = some (f, p) →
      let r := st.func (c.queue / 131072) f
      ∃ t, exec (.nop c) st = .next t ∧ t.func (c.queue / 131072) f = { r with intstat := r.intstat ||| 1#3 } ∧
        t.msix = if r.intstat.getLsbD 0 = false ∧ r.intmask.getLsbD 0 = false ∧ st.hasFunc (c.queue / 131072) f = true ∧
            (st.queue c.queue).qctl.toNat / 65536 % 2048 < (if f = 0 then 2048 else 64) then
          st.msix ++ [(c.queue / 131072, f, (st.queue c.queue).qctl.toNat / 65536 % 2048)] else st.msix))

/-- A command's job, graph, node and phase (Table 22.5), and its predecessor nodes. -/
def word (c : HostCmd) (i : Nat) : Nat := (c.words.getD i 0#32).toNat

/-- A command of a job of a partition that takes commands: it has not ended, and nothing of it is cancelled (R438, R439). -/
def Takes (st : State) (c : HostCmd) (part : Nat) : Prop := st.queuePart c.queue = some part ∧ st.jobGone part (word c 1) = false

/-- R433, R438: a LAUNCH whose predecessors have completed DONE is ready for admission, one with a predecessor that has not completed
is parked, one with a predecessor that ended otherwise, of a graph that a cancel has acted on, or of a cancelled job, completes CANCELLED;
R439: one of an ended job changes no level. -/
def Launches : Prop :=
  ∀ st c part, st.queuePart c.queue = some part → (st.part part).parked = [] →
    let node := word c 5 % 65536
    let stands := fun n : Nat => (st.part part).nodeState (word c 1) (word c 4) n
    (st.jobEnded part (word c 1) = true → ∃ t, exec (.launch c) st = .next t ∧ t.parts = st.parts ∧ t.launches = st.launches ∧ t.tiles = st.tiles) ∧
    (st.jobEnded part (word c 1) = false → st.jobGone part (word c 1) = true → ∃ t, exec (.launch c) st = .next t ∧
      (t.part part).ready = (st.part part).ready.erase c ∧ (t.part part).nodeState (word c 1) (word c 4) node = .cancelled) ∧
    (∀ g, st.jobEnded part (word c 1) = false → (st.part part).graphs.get? (word c 1, word c 4) = some g → g.acted = true → ∃ t, exec (.launch c) st = .next t ∧
      (t.part part).nodeState (word c 1) (word c 4) node = .cancelled) ∧
    (st.jobGone part (word c 1) = false → (st.part part).phaseGone (word c 1) = false →
      (∀ g, (st.part part).graphs.get? (word c 1, word c 4) = some g → g.acted = false) →
      ((∀ n ∈ cmdPreds c, stands n = .done) → ∃ t, exec (.launch c) st = .next t ∧ (t.part part).ready = (st.part part).ready ++ [c] ∧
        (t.part part).parked = [] ∧ (t.part part).nodeState (word c 1) (word c 4) node = .pending) ∧
      ((∃ n ∈ cmdPreds c, (stands n).ended = false) → (∀ n ∈ cmdPreds c, stands n = .done ∨ (stands n).ended = false) →
        ∃ t, exec (.launch c) st = .next t ∧ (t.part part).ready = (st.part part).ready ∧ (t.part part).parked = [(c, (cmdPreds c).filter fun n => !(stands n).ended)] ∧
          (t.part part).nodeState (word c 1) (word c 4) node = .pending) ∧
      ((∃ n ∈ cmdPreds c, (stands n).ended = true ∧ stands n ≠ .done) →
        ∃ t, exec (.launch c) st = .next t ∧ (t.part part).parked = [] ∧
          (t.part part).nodeState (word c 1) (word c 4) node = .cancelled))

/-- R439: a PHASE of a job with no open phase opens its phase, and one behind an open phase that is not complete waits with its queue;
ENDJOB ends its job, which completes DONE at once when no phase of it is open. -/
def PhasesAndJobs : Prop :=
  (∀ st c part, Takes st c part → (st.part part).waiting = [] → (st.part part).openPhase (word c 1) = none →
    (st.part part).ckHolds (word c 1) = false →
    ∃ t v, exec (.phase c) st = .next t ∧ (t.part part).openPhase (word c 1) = some (word c 6) ∧ (t.part part).waiting = [] ∧
      (t.part part).phases.get? (word c 1, word c 6) = some v ∧ v.state = .running ∧ v.members = 0 ∧ v.lost = 0 ∧
      (t.queue c.queue).blocked = false) ∧
  (∀ st c part ph v g n, Takes st c part → (st.part part).waiting = [] → (st.part part).openPhase (word c 1) = some ph →
    (st.part part).phases.get? (word c 1, ph) = some v → v.state ≠ .cancelled → g ∈ (st.part part).graphsOf (word c 1) ph →
    n ∈ g.nodes → n.2.ended = false →
    ∃ t, exec (.phase c) st = .next t ∧ t.mem = st.mem ∧ (t.part part).openPhase (word c 1) = some ph ∧ (t.part part).waiting = [c] ∧
      (t.queue c.queue).blocked = true) ∧
  (∀ st c part, Takes st c part → (st.part part).waiting = [] → (st.part part).openPhase (word c 1) = none →
    ∃ t j, exec (.endjob c) st = .next t ∧ (t.part part).jobs.get? (word c 1) = some j ∧ j.ended = true ∧ j.level.closed = true ∧
      j.level.state = .done) ∧
  (∀ st c part ph v g n, Takes st c part → (st.part part).waiting = [] → (st.part part).openPhase (word c 1) = some ph →
    (st.part part).phases.get? (word c 1, ph) = some v → v.state ≠ .cancelled → g ∈ (st.part part).graphsOf (word c 1) ph →
    n ∈ g.nodes → n.2.ended = false →
    ∃ t j, exec (.endjob c) st = .next t ∧ (t.part part).jobs.get? (word c 1) = some j ∧ j.ended = true ∧ j.level.closed = false)

/-- R438, R52: a CANCEL from the host marks its launch, graph, phase or job cancelled; a launch with a living thread goes on until that
is gone, without its moored traffic and queued packets. -/
def HostCancels : Prop :=
  (∀ st c part slot la id tl b, Takes st c part → st.slotsOf part (word c 1) (word c 4) (word c 5 % 65536) = [slot] →
    st.launches.get? (part, slot) = some la → la.cancelled = false → id.part = part → id.slot = slot → st.tile? id = some tl →
    tl.berth = some b → tl.threads ≠ [] → (st.tiles.map (·.1)).Nodup →
    ∃ t la' tl', exec (.hostCancelLaunch c) st = .next t ∧ t.launches.get? (part, slot) = some la' ∧ la'.cancelled = true ∧
      la'.moored = [] ∧ t.tile? id = some tl' ∧ tl'.work = []) ∧
  (∀ st c part g, Takes st c part → (st.part part).graphs.get? (word c 1, word c 4) = some g → g.level.closed = false →
    g.acted = false →
    ∃ t g', exec (.hostCancelGraph c) st = .next t ∧ (t.part part).graphs.get? (word c 1, word c 4) = some g' ∧ g'.level.state = .cancelled) ∧
  (∀ st c part v, Takes st c part → (st.part part).phases.get? (word c 1, word c 6) = some v → v.closed = false →
    v.state ≠ .cancelled → (st.part part).waiting = [] →
    ∃ t v', exec (.hostCancelPhase c) st = .next t ∧ (t.part part).phases.get? (word c 1, word c 6) = some v' ∧ v'.state = .cancelled) ∧
  (∀ st c part j, Takes st c part → (st.part part).jobs.get? (word c 1) = some j →
    ∃ t j', exec (.hostCancelJob c) st = .next t ∧ (t.part part).jobs.get? (word c 1) = some j' ∧ j'.level.state = .cancelled)

/-- R435, R436, R442: the first ready launch that passes the checks takes the lowest free slot, with its kernel as its record binds it,
every gang waiting for its first placement and its node running; one that fails a check completes REFUSED. -/
def Admissions : Prop :=
  ∀ st part fit c rest slot, (st.part part).ready = c :: rest → st.freeSlot part = some slot →
    (∀ g, (st.part part).graphs.get? (word c 1, word c 4) = some g →
    (st.admissionCheck part (word c 2 + word c 3 * 2 ^ 32) (word c 1) fit = none →
      ∃ t la, exec (.admission part fit) st = .next t ∧ (t.part part).ready = rest ∧ t.launches.get? (part, slot) = some la ∧
        la.kernel = st.recKernel (word c 2 + word c 3 * 2 ^ 32) ∧ la.state = .running ∧ la.cancelled = false ∧ la.members = 0 ∧
        la.moored = [] ∧ (∀ x ∈ la.gangs, x.state = .waiting ∧ x.created = false) ∧ (∀ v ∈ la.table, v.2.berth = none) ∧
        (∀ k, k ≠ (part, slot) → t.launches.get? k = st.launches.get? k) ∧
        (t.part part).nodeState (word c 1) (word c 4) (word c 5 % 65536) = .running) ∧
    (∀ d, st.admissionCheck part (word c 2 + word c 3 * 2 ^ 32) (word c 1) fit = some d → (st.part part).parked = [] →
      ∃ t, exec (.admission part fit) st = .next t ∧ (t.part part).ready = rest.erase c ∧ t.launches = st.launches ∧
        (t.part part).nodeState (word c 1) (word c 4) (word c 5 % 65536) = .refused))

/-- A counter query's answer (Table 26.2): the offset of the level's block, or all ones for a level that is not known. -/
def Answers (st t : State) (part : Nat) (v : Option Level) : Prop :=
  t = { st with parts := t.parts } ∧
  t.part part = { st.part part with pqres := match v with | some v => BitVec.ofNat 32 v.offset | none => 0xFFFFFFFF#32 } ∧
  ∀ p, p ≠ part → t.part p = st.part p

/-- R495, R436: a counter query answers with the place of the counter block of the job, phase or graph that PQJOB and PQID name. -/
def CounterQueries : Prop :=
  ∀ st part, let p := st.part part
    (∃ t, exec (.counterQueryJob part) st = .next t ∧ Answers st t part ((p.jobs.get? p.pqjob).map (·.level))) ∧
    (∃ t, exec (.counterQueryPhase part) st = .next t ∧ Answers st t part (p.phases.get? (p.pqjob, p.pqid))) ∧
    (∃ t, exec (.counterQueryGraph part) st = .next t ∧ Answers st t part ((p.graphs.get? (p.pqjob, p.pqid)).map (·.level)))

/-! ## Registers of the host ports and the mesh (22, 23, 26) -/

/-- Only one partition differs. -/
def OnlyPart (st t : State) (part : Nat) (p : Part) : Prop :=
  t = { st with parts := t.parts } ∧ t.part part = p ∧ ∀ o, o ≠ part → t.part o = st.part o

/-- Only one berth differs. -/
def OnlyBerth (st t : State) (b : Nat) (x : Berth) : Prop :=
  t = { st with berths := t.berths } ∧ t.berth b = x ∧ ∀ o, o ≠ b → t.berth o = st.berth o

/-- Only one field differs. -/
def OnlyField (st t : State) (f : Nat) (x : Field) : Prop :=
  t = { st with fields := t.fields } ∧ t.field f = x ∧ ∀ o, o ≠ f → t.field o = st.field o

/-- A register takes a write, in the secure world or not, and goes to a state. -/
def writes (st : State) (reg : RegName) (v : BitVec 64) (secure : Bool) (P : State → Prop) : Prop :=
  ∃ t, exec (.registerWrite reg v secure) st = .next t ∧ P t

/-- R426 to R429, Tables 22.2 to 22.4: the registers of a function and of a queue take their writes, by name and at the offset where they
stand in BAR0; BASE and SIZE stay while EN is 1, the bits of INTSTAT and QSTAT.ERR clear where 1 is written, and a group that is given to
no function has no queues. An offset of a descriptor that holds no register ignores a write, as does the BAR0 of a function that does
not exist. -/
def QueueRegisters : Prop :=
  ∀ st p f q (v : BitVec 64) secure, let w : Word := v.setWidth 32
    let x := st.queue q
    writes st (.intstat p f) v secure (fun t => t = { st with funcs := t.funcs } ∧
      t.func p f = { st.func p f with intstat := (st.func p f).intstat &&& ~~~(v.setWidth 3) } ∧
      ∀ a b, (a, b) ≠ (p, f) → t.func a b = st.func a b) ∧
    writes st (.intmask p f) v secure (fun t => t = { st with funcs := t.funcs } ∧
      t.func p f = { st.func p f with intmask := v.setWidth 3 } ∧ ∀ a b, (a, b) ≠ (p, f) → t.func a b = st.func a b) ∧
    ((st.queuePart q).isSome = true →
      writes st (.base q) v secure (fun t => OnlyQueue st t q (if x.qctl.getLsbD 31 then x else { x with base := v.toNat })) ∧
      writes st (.qctl q) v secure (fun t => OnlyQueue st t q { x with qctl := (
        if x.qctl.getLsbD 31 then (w &&& 0x87FF0700#32) ||| (x.qctl &&& 0xF#32) else w &&& 0x87FF070F#32) }) ∧
      writes st (.qstat q) v secure (fun t => ∃ err, OnlyQueue st t q { x with err := err } ∧
        (x.err < 16 → ∀ i < 4, err.testBit i = (x.err.testBit i && !w.getLsbD (4 + i))))) ∧
    (st.queuePart q = none → writes st (.base q) v secure (fun t => t = st) ∧ writes st (.qctl q) v secure (fun t => t = st) ∧
      writes st (.qstat q) v secure (fun t => t = st)) ∧
    (∀ n, st.hasFunc p f = true → n < st.qcount p f → st.localQueue p f n = some q →
      let at' := fun o => exec (.registerWrite (.bar0 p f (0x100000 + 32 * n + o)) v secure) st
      at' 0 = exec (.registerWrite (.base q) v secure) st ∧ at' 8 = exec (.registerWrite (.qctl q) v secure) st ∧
      at' 12 = exec (.registerWrite (.qstat q) v secure) st ∧ ∀ o < 32, o ≠ 0 → o ≠ 8 → o ≠ 12 → at' o = .next st) ∧
    (∀ off, st.hasFunc p f = false → writes st (.bar0 p f off) v secure (fun t => t = st)) ∧
    (p < 2 → v.toNat ≤ 64 → writes st (.numvfs p) v secure (fun t => t = { st with numVfs := st.numVfs.set p v.toNat }))

/-- R494, R499, R503, Table 26.1: the module's registers take their writes; TOWKEY and TOWDOM only the secure world's, and PHASETBL only
while no launch runs. -/
def ModuleRegisters : Prop :=
  ∀ st (v : BitVec 64) secure, let w : Word := v.setWidth 32
    writes st .triplim v secure (fun t => t = { st with modRegs := { st.modRegs with
      ttrip := (w.extractLsb' 16 8).toNat, itrip := (w.extractLsb' 0 16).toNat } }) ∧
    writes st .ttripset v secure (fun t => t.modRegs = { st.modRegs with ttripset := v.setWidth 16 } ∧ t.tiles = st.tiles ∧ t.mem = st.mem) ∧
    writes st .itripset v secure (fun t => t.modRegs = { st.modRegs with itripset := v.setWidth 16 } ∧ t.tiles = st.tiles ∧ t.mem = st.mem) ∧
    writes st .modid v secure (fun t => t = { st with modRegs := { st.modRegs with modid := w.toNat % 256 } }) ∧
    writes st .cwsel v secure (fun t => t = { st with modRegs := { st.modRegs with cwsel := w.toNat % 32 } }) ∧
    writes st .towdom v true (fun t => t = { st with modRegs := { st.modRegs with towdom := w } }) ∧
    writes st .towdom v false (fun t => t = st) ∧
    (∀ n < 4, writes st (.towkey n) v true (fun t => ∃ key, t = { st with modRegs := { st.modRegs with towkey := key } } ∧
        ∀ i < 4, key.extractLsb' (32 * i) 32 = if i = n then w else st.modRegs.towkey.extractLsb' (32 * i) 32) ∧
      writes st (.towkey n) v false (fun t => t = st)) ∧
    (∀ n < 5, (st.launches ≠ [] → writes st (.phasetbl n) v secure (fun t => t = st)) ∧
      (st.launches = [] → writes st (.phasetbl n) v secure (fun t => t = { st with fields := t.fields } ∧
        (∀ i < 6, t.field (6 * n + i) = { st.field (6 * n + i) with code := w.toNat / 2 ^ (5 * i) % 32 }) ∧
        ∀ o, o < 6 * n ∨ 6 * n + 6 ≤ o → t.field o = st.field o)))

/-- The control registers of a partition that hold what is written (Tables 26.2 and 26.6), each with what its write changes. -/
def partRegs : List ((Nat → RegName) × (Part → BitVec 64 → Part)) := [
  (.pqjob, fun p v => { p with pqjob := (v.setWidth 32).toNat }),
  (.pqid, fun p v => { p with pqid := (v.setWidth 32).toNat }),
  (fun n => .ckslot n 0, fun p v => { p with ckslots := p.ckslots.set 0 v.toNat }),
  (fun n => .ckslot n 1, fun p v => { p with ckslots := p.ckslots.set 1 v.toNat })]

/-- R493, R495, R507: a partition's registers take the writes of the secure world, and of the other one only when the partition is
NS; PCTL's NS bit is the secure world's, and its fields stay while a launch of the partition runs, and never include a dark field
or another partition's; setting CKCTL.EN restarts the timer. -/
def PartitionRegisters : Prop :=
  (∀ e ∈ partRegs, ∀ st n v secure, n < 30 →
    (secure = true ∨ (st.part n).ns = true → writes st (e.1 n) v secure fun t => OnlyPart st t n (e.2 (st.part n) v)) ∧
    ((st.part n).ns = false → writes st (e.1 n) v false fun t => t = st)) ∧
  (∀ st n (v : BitVec 64) secure, n < 30 → secure = true ∨ (st.part n).ns = true → let w : Word := v.setWidth 32
    let p := st.part n
    writes st (.pctl n) v secure (fun t => ∃ fields, OnlyPart st t n { p with
        en := w.getLsbD 31, ns := if secure then w.getLsbD 30 else p.ns, fields := fields } ∧
      ((∃ k la, st.launches.get? k = some la ∧ k.1 = n) → fields = p.fields) ∧
      ((∀ e ∈ st.launches, e.1.1 ≠ n) → ∀ f, fields.getLsbD f = (w.getLsbD f && decide (f < 30) && !st.boot.dark.getLsbD f &&
        !st.parts.any fun o => o.1 != n && o.2.fields.getLsbD f))) ∧
    writes st (.ckctl n) v secure (fun t => OnlyPart st t n
      (if w.getLsbD 31 && !p.ckctl.getLsbD 31 then { p with ckctl := w, cktimer := st.now, ckcount := 0 } else { p with ckctl := w })) ∧
    writes st (.pfloor n) v secure (fun t => t = { st with parts := t.parts } ∧ (t.part n).pfloor = w.setWidth 16) ∧
    writes st (.prank n) v secure (fun t => t = { st with parts := t.parts } ∧ ((∀ e ∈ st.launches, e.1.1 ≠ n) → (t.part n).rank = w.toNat % 16)) ∧
    (∀ i < 8, p.capt.length = 16 → writes st (.capt n i) v secure (fun t => t = { st with parts := t.parts } ∧
      (t.part n).capt.getD (2 * i + 1) 0 = w.extractLsb' 16 16 ∧
      (t.part n).capt.getD (2 * i) 0 = if i = 0 then p.capt.getD 0 0 else w.setWidth 16)) ∧
    (∀ i < 16, p.ckrgn.length = 8 → writes st (.ckrgn n i) v secure (fun t => ∃ rgn, OnlyPart st t n { p with ckrgn := rgn } ∧
      rgn.getD (i / 2) (0, 0) = if i % 2 = 0 then (v.toNat % 2 ^ 48, (p.ckrgn.getD (i / 2) (0, 0)).2)
        else ((p.ckrgn.getD (i / 2) (0, 0)).1, v.toNat))))

/-- The control registers of a berth (Tables 23.3 to 23.5), each with what its write changes. -/
def berthRegs : List ((Nat → RegName) × (Berth → BitVec 64 → Berth)) := [
  (.bstat, fun b v => { b with retire := v.getLsbD 31, marginal := v.getLsbD 30 }),
  (.savebase, fun b v => { b with saveBase := v.toNat }),
  (.ckpts, fun b v => { b with ckpt := v.getLsbD 31 }),
  (.fwdr, fun b v => let to' := ((v.extractLsb' 32 13).toNat, (v.setWidth 32).toNat)
    { b with fwdrKept := to', fwdr := if v.getLsbD 63 then some to' else none }),
  (.moored, fun b v => let slot := (v.extractLsb' 32 8).toNat
    { b with mooredSlot := slot, moored := if v.setWidth 32 = 0xFFFFFFFF#32 then none else some ⟨b.part, slot, (v.setWidth 32).toNat⟩ })]

/-- R448: a berth's control registers take writes of the secure world only. -/
def BerthRegisters : Prop :=
  ∀ e ∈ berthRegs, ∀ st b v, b < 5040 →
    writes st (e.1 b) v true (fun t => OnlyBerth st t b (e.2 (st.berth b) v)) ∧ writes st (e.1 b) v false (fun t => t = st)

/-! ## Power (26, 06, 13) -/

/-- R498: of the settings in force POSM1 and BUDGET are the least, WEIR the greatest (with 5 to 7 acting as 4), and ESHIFT is set when
one of them sets it. -/
def SettingsCombine : Prop :=
  ∀ ss : List (BitVec 16), let s := combineSettings ss
    (s.toNat % 8 = ss.foldl (fun m x => min m (x.toNat % 8)) 7) ∧
    (s.toNat / 8 % 8 = ss.foldl (fun m x => max m (min 4 (x.toNat / 8 % 8))) 0) ∧
    (s.toNat / 128 = ss.foldl (fun m x => min m (x.toNat / 128)) 511) ∧
    (s.getLsbD 6 = ss.any fun x => x.getLsbD 6)

/-- R365: a cause has acted in a partition at this time. -/
def Acted (st t : State) (part cause : Nat) : Prop :=
  (t.part part).sticky.getLsbD (cause - 1) = true ∧ (t.part part).last = cause ∧ (t.part part).lastTime = st.now

/-- R498, R365: a write of MODCAP changes the module's cap and acts, as MODULE_CAP, in every partition in one of whose fields the
setting in force is now stricter; PCAUSE clears the sticky bits where 1 is written; and when a field takes up the setting in force
its cores keep wheel positions 0 to POSM1 and its Weir the grant limit of WEIR. -/
def Settings : Prop :=
  (∀ st v, (st.parts.map (·.1)).Nodup →
    let new := { st with modRegs := { st.modRegs with modcap := v.setWidth 16 } }
    ∃ t, exec (.modcapWrite v) st = .next t ∧ t = { new with parts := t.parts } ∧
      ∀ e ∈ st.parts, ((∃ f < 30, e.2.fields.getLsbD f = true ∧ stricter (new.inForce e.1 f) (st.inForce e.1 f) = true) → Acted st t e.1 2) ∧
        ((∀ f < 30, e.2.fields.getLsbD f = true → stricter (new.inForce e.1 f) (st.inForce e.1 f) = false) → t.part e.1 = e.2)) ∧
  (∀ st part v, ∃ t, exec (.pcauseClear part v) st = .next t ∧
    OnlyPart st t part { st.part part with sticky := (st.part part).sticky &&& ~~~(v.setWidth 6) }) ∧
  (∀ st part field, (st.part part).fields.getLsbD field = true → (st.tiles.map (·.1)).Nodup →
    let s := st.inForce part field
    let weir := min 4 (s.toNat / 8 % 8)
    ∃ t, exec (.settingChange part field) st = .next t ∧
      t.field field = { st.field field with applied := s, weirLimit := if weir = 0 then 0 else 2 ^ (weir - 1) } ∧
      (∀ o, o ≠ field → t.field o = st.field o) ∧ t.mem = st.mem ∧
      ∀ e ∈ st.tiles, (e.2.berth.map fieldOf ≠ some field → t.tile? e.1 = some e.2) ∧
        (e.2.berth.map fieldOf = some field → ∃ tl, t.tile? e.1 = some tl ∧ ∀ c < 8, ∀ i q, (tl.core c).positions[i]? = some q →
          q.enabled = decide (i ≤ s.toNat % 8)))

/-- R497: with the power above BUDGET firmware takes one more step, of positions while one can go or of WEIR, and below 90 % of it one
step is undone. -/
def Budgets : Prop :=
  ∀ st part power, let p := st.part part
    let s := st.inForce part p.firstField
    (s.toNat / 128 < 511 → s.toNat / 128 * 64 < power → 0 < s.toNat % 8 ∨ s.toNat / 8 % 8 < 4 →
      ∃ t, exec (.budgetCheck part power) st = .next t ∧ t = { st with parts := t.parts } ∧
        (((t.part part).budgetPos = p.budgetPos + 1 ∧ (t.part part).budgetWeir = p.budgetWeir ∧ 0 < s.toNat % 8) ∨
         ((t.part part).budgetPos = p.budgetPos ∧ (t.part part).budgetWeir = p.budgetWeir + 1 ∧ s.toNat / 8 % 8 < 4))) ∧
    (s.toNat / 128 < 511 → power * 10 < s.toNat / 128 * 64 * 9 → ∃ t, exec (.budgetCheck part power) st = .next t ∧
      ∃ pos weir, OnlyPart st t part { p with budgetPos := pos, budgetWeir := weir } ∧
        (0 < p.budgetPos ∨ 0 < p.budgetWeir → pos + weir + 1 = p.budgetPos + p.budgetWeir)) ∧
    (s.toNat / 128 < 511 → power ≤ s.toNat / 128 * 64 → s.toNat / 128 * 64 * 9 ≤ power * 10 →
      exec (.budgetCheck part power) st = .next st)

/-- R501: a feed of a field's watchdog ends its timeout; a watchdog that has gone unfed for 50 ms brings its partition's floor
setting into force and sets FW_FALLBACK. -/
def Watchdogs : Prop :=
  (∀ st field p, st.parts.find? (fun e => e.2.fields.getLsbD field) = some p → p.2 = st.part p.1 →
    ∃ t, exec (.watchdogFeed field) st = .next t ∧ t = { st with fields := t.fields, parts := t.parts } ∧
      t.field field = { st.field field with fed := st.now, wdog := false } ∧ (∀ o, o ≠ field → t.field o = st.field o) ∧
      t.part p.1 = { p.2 with fallback := (List.range 30).any fun f => p.2.fields.getLsbD f && (f != field && (st.field f).wdog) }) ∧
  (∀ st field p, st.parts.find? (fun e => e.2.fields.getLsbD field) = some p → p.2 = st.part p.1 → field < 30 →
    (st.field field).wdog = false → (st.field field).fed + 50000000 ≤ st.now →
    ∃ t, exec (.watchdogTimeout field) st = .next t ∧ t = { st with fields := t.fields, parts := t.parts } ∧
      t.field field = { st.field field with wdog := true } ∧ (∀ o, o ≠ field → t.field o = st.field o) ∧
      (t.part p.1).fallback = true ∧ (t.part p.1).sticky.getLsbD 5 = true) ∧
  (∀ st field, (st.field field).wdog = false → st.now < (st.field field).fed + 50000000 → exec (.watchdogTimeout field) st = .next st)

/-- The sensors of a field read well (Table 26.5a): each is in its range, none is stuck, and each thermal one is within 15 degrees of
a neighbour. -/
def ReadsWell (st : State) (field : Nat) (rs : List Int) : Prop :=
  rs.length = 16 ∧ (st.field field).sensors.length = 16 ∧
  (∀ i < 12, -40000 ≤ rs.getD i 0 ∧ rs.getD i 0 ≤ 150000 ∧ ∃ j ∈ sensorNeighbours i, (rs.getD i 0 - rs.getD j 0).natAbs ≤ 15000) ∧
  (∀ i < 4, 0 ≤ rs.getD (12 + i) 0 ∧ rs.getD (12 + i) 0 * 4 ≤ 2 * st.modRegs.itrip * 1000) ∧
  ∀ i (r : SensorRef), (st.field field).sensors[i]? = some r → (r.check i (rs.getD i 0) (currentSum rs) st.now).stuck = false

/-- R502: a field whose sensors read well uses the readings, and trips for heat exactly when one reaches TTRIP; a reading out of its
range is replaced, and SENSOR_FALLBACK acts; the sum of the currents at ITRIP trips the field for current; and a trip ends once
its readings have been low for 1 ms. -/
def Trips : Prop :=
  (∀ st field rs, ReadsWell st field rs → st.partOf field = none →
    ∃ t, exec (.sensorCheck field rs) st = .next t ∧ t = { st with fields := t.fields } ∧ (t.field field).readings = rs ∧
      (t.field field).current = (st.field field).current ∧
      ((t.field field).thermal = true ↔ (st.field field).thermal = true ∨ ∃ i < 12, (st.modRegs.ttrip : Int) * 1000 ≤ rs.getD i 0) ∧
      ∀ o, o ≠ field → t.field o = st.field o) ∧
  (∀ st field rs i p, i < 12 → rs.length = 16 → (st.field field).sensors.length = 16 → rs.getD i 0 < -40000 ∨ 150000 < rs.getD i 0 →
    st.partOf field = some p → field < 30 →
    ∃ t, exec (.sensorCheck field rs) st = .next t ∧ (t.part p).sticky.getLsbD 4 = true ∧ (t.field field).readings.length = 16) ∧
  (∀ st field p, (st.field field).current = false → (st.modRegs.itrip : Int) * 1000 ≤ ((st.field field).readings.drop 12).foldl (· + ·) 0 →
    st.partOf field = some p → field < 30 →
    ∃ t, exec (.currentTrip field) st = .next t ∧ t = { st with fields := t.fields, parts := t.parts } ∧
      t.field field = { st.field field with current := true } ∧ (∀ o, o ≠ field → t.field o = st.field o) ∧
      (t.part p).sticky.getLsbD 3 = true) ∧
  (∀ st field, let f := st.field field
    let past := fun (x : Option Int) => ∃ s, x = some s ∧ s + 1000000 ≤ st.now
    ∃ t thermal current, exec (.tripEnd field) st = .next t ∧ OnlyField st t field { f with thermal := thermal, current := current } ∧
      (thermal = true ↔ f.thermal = true ∧ ¬ past f.cool) ∧ (current = true ↔ f.current = true ∧ ¬ past f.low))

/-- R499, R500: a towpath frame of the domain with a good MAC and a sequence number ahead sets the level, any other is counted as
dropped; and the level then gives every partition the setting of its depth and sets HALL_CAP where the depth is not 0. -/
def Towpath : Prop :=
  (∀ st bs, st.modRegs.accepts bs = true → ∃ t, exec (.towpathFrame bs) st = .next t ∧ t = { st with modRegs := { st.modRegs with
      towlevel := (bs.getD 2 0).toNat % 16, towseq := bs.getD 11 0 ++ bs.getD 10 0 ++ bs.getD 9 0 ++ bs.getD 8 0, towpend := true } }) ∧
  (∀ st bs, st.modRegs.accepts bs = false → ∃ t, exec (.towpathFrame bs) st = .next t ∧
    t = { st with modRegs := { st.modRegs with towdrop := min 65535 (st.modRegs.towdrop + 1) } }) ∧
  (∀ st, st.modRegs.towpend = true → (st.parts.map (·.1)).Nodup →
    ∃ t, exec .hallSettingApply st = .next t ∧ t = { st with parts := t.parts, modRegs := { st.modRegs with towpend := false } } ∧
      ∀ e ∈ st.parts, let depth := st.modRegs.towlevel - e.2.rank
        (t.part e.1).hall = e.2.capt.getD depth 0xFF87#16 ∧ (0 < depth → (t.part e.1).sticky.getLsbD 0 = true))

/-- R504, R78: a wake request takes one of its field's 4 inrush tokens, in the order of time and source; after 2,000 nanoseconds the
segment is powered; a segment out of use powers down; and an eDRAM refresh window of a berth opens for 400 of every 25,600
nanoseconds, and closes after it. -/
def Segments : Prop :=
  (∀ st field w, w ∈ (st.field field).wakes → (st.field field).waking.length < 4 → (st.field field).wakes.Nodup →
    (∀ o ∈ (st.field field).wakes, o ≠ w → w.1 < o.1 ∨ (w.1 = o.1 ∧ w.2.1 < o.2.1)) →
    ∃ t, exec (.wakeTokenTake field) st = .next t ∧ OnlyField st t field { st.field field with
      wakes := (st.field field).wakes.erase w, waking := (st.field field).waking ++ [(w.2.2, ((st.field field).time : Int))] }) ∧
  (∀ st field seg start, (st.field field).waking.find? (·.1 = seg) = some (seg, start) → start + 2000 ≤ ((st.field field).time : Int) →
    ∃ t, exec (.wakeComplete field seg) st = .next t ∧ t = { st with fields := t.fields, berths := t.berths } ∧
      t.field field = { st.field field with waking := (st.field field).waking.filter (·.1 ≠ seg) } ∧
      (∀ i, (t.berth (seg / 3)).dark.testBit i = ((st.berth (seg / 3)).dark.testBit i && i != seg % 3)) ∧
      ∀ b, b ≠ seg / 3 → t.berth b = st.berth b) ∧
  (∀ st seg, st.unused seg = true → (st.berth (seg / 3)).dark.testBit (seg % 3) = false →
    ∃ t, exec (.segmentPowerDown seg) st = .next t ∧ OnlyBerth st t (seg / 3) { st.berth (seg / 3) with dark := (st.berth (seg / 3)).dark + 2 ^ (seg % 3) }) ∧
  (∀ st b, let time := (st.field (fieldOf b)).time + 25600 - (st.berth b).edPhase % 25600
    (time % 25600 < 400 → (st.berth b).window = false → ∃ t, exec (.refreshWindowOpen b []) st = .next t ∧
      OnlyBerth st t b { st.berth b with window := true, scrub := ((st.berth b).scrub + 1) % 4096, poison := [] }) ∧
    (400 ≤ time % 25600 → ∃ t, exec (.refreshWindowClose b) st = .next t ∧ OnlyBerth st t b { st.berth b with window := false }))

/-! ## The Harbourmaster (23) -/

/-- The tiles of a gang of a launch. -/
def TilesOf (part slot gang : Nat) (la : Launch) (id : TileId) : Prop :=
  id.part = part ∧ id.slot = slot ∧ id.num ∈ la.kernel.tilesOfGang gang

/-- A gang of a launch goes from one record to another. -/
def GangGoes (t : State) (part slot gang : Nat) (g' : Gang) : Prop :=
  ∃ la', t.launches.get? (part, slot) = some la' ∧ la'.gangs[gang]? = some g'

/-- R18, R454: at the end of its slice a resident gang stops and is saved when another gang of the partition waits, and otherwise
keeps its berths for another slice; R440: the tile cycle at the expiry comes first, and a gang whose last retirement fell in it is not saved. R449, R450: the first summons of a partition is served: free berths that hold its gang, and that
are awake, take its tiles, whose entries then name them. -/
def Placements : Prop :=
  (∀ st part slot gang la g, st.launches.get? (part, slot) = some la → la.gangs[gang]? = some g → g.state = .resident →
    g.slice + (la.kernel.sliceMs : Int) * 1000000 ≤ st.now → la.cancelled = false →
    ((gangTiles part slot la.kernel gang).all st.cycleOver = false → exec (.sliceEnd part slot gang) st = .next st) ∧
    ((gangTiles part slot la.kernel gang).all st.cycleOver = true →
      st.someWaits part = false ∨ (g.created = true ∧ st.gangDone part slot la gang = true) →
      ∃ t, exec (.sliceEnd part slot gang) st = .next t ∧ t = { st with launches := t.launches } ∧ GangGoes t part slot gang { g with slice := st.now }) ∧
    ((gangTiles part slot la.kernel gang).all st.cycleOver = true → st.someWaits part = true →
      g.created = false ∨ st.gangDone part slot la gang = false → st.gangFree (gangTiles part slot la.kernel gang) = true →
      ∃ t, exec (.sliceEnd part slot gang) st = .next t ∧ t.mem = st.mem ∧ GangGoes t part slot gang { g with state := .saving } ∧
        ∀ id tl, TilesOf part slot gang la id → st.tile? id = some tl → ∃ tl', t.tile? id = some tl' ∧ tl'.stopped = true)) ∧
  (∀ st part slot gang la g f bs, st.launches.get? (part, slot) = some la → la.gangs[gang]? = some g → g.fault = some f →
    firstSummons (st.summoned part) = some (f.1, f.2, slot, gang) →
    st.chooseBerths (st.freeBerths part la.kernel.pairs) (la.kernel.tilesOfGang gang).length g.cls = some bs →
    (∀ b ∈ bs, st.isDark b 0 = false) → la.kernel.vx ≤ 4096 →
    ∃ t, exec (.summons part) st = .next t ∧ t.mem = st.mem ∧
      GangGoes t part slot gang { g with state := .restoring, gen := g.gen + 1, summon := st.now, slice := st.now } ∧
      ∀ p ∈ (la.kernel.tilesOfGang gang).zip bs, let id : TileId := ⟨part, slot, p.1⟩
        (t.berth p.2).moored = some id ∧ (t.berth p.2).state = .restoring ∧
        (∀ tl, st.tile? id = some tl → t.tile? id = some { tl with berth := some p.2 }) ∧
        ∀ v, la.table.get? p.1 = some v → ∃ la', t.launches.get? (part, slot) = some la' ∧
          la'.table.get? p.1 = some { v with berth := some p.2, fwd := false, gen := (v.gen + 1) % 65536 })

/-- A tile without plane records, or whose lease holder has reloaded its planes. -/
def PlanesStand (tl : Tile) : Prop :=
  (∀ c, (tl.core c).active.code = 0 ∧ (tl.core c).shadow.code = 0 ∧ (tl.core c).reload = []) ∨
  ∃ h, tl.arr.holder = some h ∧ tl.hasMember h = true ∧ (tl.core h).reload = []

/-- R454 to R457: a saving gang whose tiles have drained leaves its berths, with every register of its threads as it was, and is absent,
or waits again when traffic or work is there for it; a save that fails resumes the gang and marks the berth RETIRE, or gives the tile
there another image; a restored gang whose
planes are reloaded is resident, and one that is placed for the first time has a root thread on each tile, at ENTRY with the launch's arguments. -/
def SavesAndRestores : Prop :=
  (∀ st part slot gang la g, st.launches.get? (part, slot) = some la → la.gangs[gang]? = some g → g.state = .saving →
    (∀ id tl, TilesOf part slot gang la id → st.tile? id = some tl → st.drained id tl = true) →
    (∃ t g', exec (.saveComplete part slot gang) st = .next t ∧ t.mem = st.mem ∧ GangGoes t part slot gang g' ∧ g'.crec = some g.gen ∧
      ((g'.state = .absent ∧ g'.fault = none) ∨ (g'.state = .waiting ∧ g'.fault ≠ none)) ∧ (g.fault ≠ none → g'.fault = g.fault) ∧
      (∀ id tl, TilesOf part slot gang la id → st.tile? id = some tl → ∃ tl', t.tile? id = some tl' ∧ tl'.berth = none) ∧
      ∀ u, (t.thread? u).map (·.regs) = (st.thread? u).map (·.regs)) ∧
    (∀ b id tl, TilesOf part slot gang la id → st.tile? id = some tl → tl.berth = some b → tl.threads ≠ [] → la.moored = [] →
      (∀ id' tl', TilesOf part slot gang la id' → st.tile? id' = some tl' → tl'.berth = some b → id' = id) →
      ∃ t g', exec (.saveAbort part slot gang b) st = .next t ∧ GangGoes t part slot gang g' ∧ g'.state = .resident ∧ g'.fault = none ∧
        (st.locationBad id = false → (t.berth b).retire = true) ∧ ∃ tl', t.tile? id = some tl' ∧ tl'.stopped = false ∧
          (st.locationBad id = true → tl'.image = [] ∧
            ∃ n, (t.berth b).saveBase = Config.imageAddress part slot (la.kernel.tileIndex id.num) n))) ∧
  (∀ st part slot gang la g, st.launches.get? (part, slot) = some la → la.gangs[gang]? = some g → g.state = .restoring → la.moored = [] →
    (∀ id tl, TilesOf part slot gang la id → st.tile? id = some tl → PlanesStand tl) →
    st.imageError part slot gang = .clean →
    (∀ id tl, g.created = true → TilesOf part slot gang la id → st.tile? id = some tl → tl.threads ≠ [] →
      ∃ t g', exec (.restoreComplete part slot gang) st = .next t ∧ GangGoes t part slot gang g' ∧ g'.state = .resident ∧ g'.fault = none ∧
        ∃ tl', t.tile? id = some tl' ∧ tl'.stopped = false) ∧
    (∀ id tl, g.created = false → TilesOf part slot gang la id → st.tile? id = some tl → tl.threads = [] →
      (∀ c ∈ tl.cores, ∀ q ∈ c.positions, q.list = []) → 8 ≤ la.kernel.regs → la.kernel.regs ≤ 128 →
      ∃ t g' th, exec (.restoreComplete part slot gang) st = .next t ∧ GangGoes t part slot gang g' ∧ g'.state = .resident ∧
        g'.created = true ∧ t.thread? ⟨id, 0⟩ = some th ∧ th.pc = la.kernel.entry ∧ th.alloc = la.kernel.regs ∧
        (∀ i < 4, th.reg (4 + i) = .ready (la.kernel.args.getD i 0#32)) ∧ (∃ n, th.status = .off (.start st.now) n)))

/-- R461 to R463: a tile of a resident gang that is to move begins to stream to a free berth that is awake; it stops, and once it has
drained its entry names the new berth, to which the old one forwards; once its planes are reloaded it is restored there, with the items that reached it placed;
and when every interface has acknowledged, the old berth is free and FWD is clear. -/
def Relocations : Prop :=
  (∀ st id tl la g old b, st.tile? id = some tl → st.launchOf id = some la → tl.berth = some old → tl.reloc = none →
    la.gangs[la.kernel.gangOf id.num]? = some g → g.state = .resident → la.cancelled = false → la.kernel.pairs = false →
    st.placeable id.part b = true → (st.berth old).marginal = true ∨ (st.berth old).retire = true → st.isDark b 0 = false →
    ∃ t, exec (.relocationStart id b) st = .next t ∧ t = { st with tiles := t.tiles, berths := t.berths } ∧
      t.tile? id = some { tl with reloc := some ⟨old, b, .streaming, []⟩ } ∧ (t.berth b).moored = some id ∧ (t.berth b).state = .restoring ∧
      ∀ o, o ≠ b → t.berth o = st.berth o) ∧
  (∀ st id tl la r, st.tile? id = some tl → st.launchOf id = some la → tl.reloc = some r →
    (r.stage = .streaming → st.gangState id = .resident → tl.stopped = false → ∃ t tl', exec (.relocationCutover id) st = .next t ∧
      t.mem = st.mem ∧ t.tile? id = some tl' ∧ tl'.stopped = true ∧ tl'.reloc = some r) ∧
    (∀ v, r.stage = .streaming → st.gangState id = .resident → tl.stopped = true → st.drained id tl = true → r.old ≠ r.new →
      la.kernel.pairs = false → la.table.get? id.num = some v →
      ∃ t tl' la', exec (.relocationCutover id) st = .next t ∧ t.mem = st.mem ∧ t.tile? id = some tl' ∧ tl'.berth = some r.new ∧
        tl'.reloc.map (·.stage) = some .cut ∧ (t.berth r.old).moored = none ∧ (t.berth r.old).fwdr = some (r.new, id.num) ∧
        (t.berth r.old).state = .forwarding ∧ t.launchOf id = some la' ∧
        la'.table.get? id.num = some { v with berth := some r.new, fwd := true, gen := (v.gen + 1) % 65536 }) ∧
    (r.stage = .cut → PlanesStand tl → la.kernel.pairs = false → ∃ t tl', exec (.relocationRestore id) st = .next t ∧ t.tile? id = some tl' ∧
      tl'.stopped = false ∧ tl'.reloc = some { r with stage := .restored } ∧ (t.berth r.new).state = .moored ∧ (t.berth r.new).held = []) ∧
    (∀ v, r.stage = .restored → r.acks = [] → la.table.get? id.num = some v → ∃ t la', exec (.relocationEnd id) st = .next t ∧
      t.mem = st.mem ∧ t.tile? id = some { tl with reloc := none } ∧ (t.berth r.old).moored = none ∧ (t.berth r.old).fwdr = none ∧
      t.launchOf id = some la' ∧ la'.table.get? id.num = some { v with fwd := false }))

/-- R458: an acknowledged checkpoint write leaves the tile's image with the scratchpad line, or the registers of the group, as they are. -/
def ImageWrites : Prop :=
  ∀ st b id tl n, (st.berth b).moored = some id → (st.berth b).ckpt = true → st.gangState id = .resident → st.tile? id = some tl →
    (n < 24576 → ∃ t, exec (.checkpointWriteAck b n) st = .next t ∧
      OnlyTile st t id { tl with image := tl.image.set n (memRead st.mem (memKey 0 (tileCode id) (128 * n)) 128) }) ∧
    (24576 ≤ n → ∃ t, exec (.checkpointWriteAck b n) st = .next t ∧
      OnlyTile st t id { tl with imageRegs := tl.imageRegs.set (n - 24576) (match tl.threads.get? ((n - 24576) / 16) with
        | some th => (th.regs.drop ((n - 24576) % 16 * 8)).take 8
        | none => []) })

/-! ## Parked traps and translation (24) -/

/-- R468, R469: the end of a walk fills the field's TLB and the berth's µTLB with the leaf that it found, or leaves its thread the fault,
and in either case the thread no longer waits for it. -/
def Walks : Prop :=
  ∀ st field n r th tl la b root, ((st.field field).walks.take 16).find? (·.id = n) = some r → st.thread? r.t = some th →
    th.walking = some n → st.tile? r.t.tile = some tl → tl.berth = some b → st.launchOf r.t.tile = some la →
    st.roots.get? (r.t.tile.part, la.job) = some root →
    (∀ e, walk st r.t.tile.part root r.va r.read r.write = .ok e → ∃ t, exec (.walkComplete field n) st = .next t ∧ t.mem = st.mem ∧
      t.thread? r.t = some { th with walking := none } ∧ e ∈ (t.berth b).utlb ∧ e ∈ (t.field (fieldOf b)).tlb ∧
      (∀ w ∈ (t.field field).walks, w.id ≠ n) ∧ ∀ u, u ≠ r.t → t.thread? u = st.thread? u) ∧
    (∀ f, walk st r.t.tile.part root r.va r.read r.write = .error f → ∃ t, exec (.walkComplete field n) st = .next t ∧ t.mem = st.mem ∧
      t.thread? r.t = some { th with
        walking := none, walkFault := some ⟨r.va / 65536, r.write, f.cause, if f.malformed then 3 else 0, f.level⟩ } ∧
      (∀ w ∈ (t.field field).walks, w.id ≠ n) ∧ ∀ u, u ≠ r.t → t.thread? u = st.thread? u)

/-- R473, R477: a parked thread whose fault firmware resolves resumes at its PC with no trap recorded, a poisoned symbol with the words of
a clean read; a trap that firmware does not resolve goes to TVEC with FWD set and its own TVAL. -/
def ParkedTraps : Prop :=
  (∀ st tid th th' f clean u, st.thread? tid = some th → th.fwTrap = some f → st.resolveTrap tid th f clean = some u →
    u.thread? tid = some th' → ∃ t p, exec (.fwResume tid clean) st = .next t ∧ t.mem = u.mem ∧
      t.thread? tid = some { th' with fwTrap := none, fva := 0, finfo := 0, status := .dealt p } ∧
      ∀ o, o ≠ tid → t.thread? o = u.thread? o) ∧
  (∀ st tid th f e data, st.thread? tid = some th → th.fwTrap = some f → f.cause = .soft → f.tval.toNat < 2048 → e = f.tval.toNat % 256 →
    th.poisons.get? e = some data → ∃ t new, exec (.fwResume tid true) st = .next t ∧ t.mem = st.mem ∧ t.thread? tid = some new ∧
      new.fwTrap = none ∧ new.pc = th.pc ∧ new.tcause = th.tcause ∧ new.tepc = th.tepc ∧ new.tval = th.tval ∧ new.tstat = th.tstat ∧
      ∀ n, n ≠ 0 → new.reg n = match th.reg n with
        | .pending e' w k p => if e' = e ∧ p = true then .ready (k.resolve (data.getD w 0#32)).bits else .pending e' w k p
        | r => r) ∧
  (∀ st tid th la f, st.thread? tid = some th → th.fwTrap = some f → f.cause ≠ .mismatch → st.resolveTrap tid th f false = none →
    st.launchOf tid.tile = some la → la.kernel.tvec ≠ 0xFFFFFFFF#32 → th.tstat.getLsbD 0 = false → th.kill = false →
    ∃ t p, exec (.fwForward tid) st = .next t ∧ t.mem = st.mem ∧ t.thread? tid = some { th with
      fwTrap := none, fva := 0, finfo := 0, pc := la.kernel.tvec, tcause := BitVec.ofNat 32 (256 + f.cause.code), tval := f.tval
      tepc := f.epc, tstat := BitVec.ofNat 32 (f.fol.toNat * 8 + th.step.toNat * 4 + f.pair.toNat * 2 + 1)
      step := false, follow := none, bubble := th.bubble || th.follow.any (·.joined)
      fence := none, w1Done := false, symSince := none, status := .dealt p })

/-- R480, R481: a pair one of whose members has waited 65,536 tile cycles for the other's item parks its thread with MISMATCH and the count
of items compared equal, and one whose members have waited less goes on; firmware kills
the thread of a first mismatch and puts its packet at the head of the work list, and the third fails the launch. -/
def CheckedPairs : Prop :=
  (∀ st tid th tl, st.thread? tid = some th → st.tile? tid.tile = some tl →
    (∀ w, (tl.twin tid.thr).waits = some w → tl.cycle < w.2 + 65536) → exec (.pairTimeout tid) st = .next st) ∧
  (∀ st tid th tl p k w, st.thread? tid = some th → th.paired = some p → th.task = some k → th.fwTrap = none → th.symSince = none →
    st.tile? tid.tile = some tl → (tl.twin tid.thr).waits = some w → w.2 + 65536 ≤ tl.cycle →
    (∀ f, th.follow = some f → f.leader ≠ tid.thr) →
    ∃ t, exec (.pairTimeout tid) st = .next t ∧ t.mem = st.mem ∧ t.thread? tid = some { th with
        fva := 0, finfo := 0, follow := none, bubble := th.bubble || th.follow.any (·.joined), status := .off .firmware st.clock
        fwTrap := some ⟨.mismatch, BitVec.ofNat 32 ((tl.pairs.get? k.id).getD (0, 0)).1, th.pc, false, th.follow.isSome⟩ }) ∧
  (∀ st tid th tl la p k f o, st.thread? tid = some th → st.tile? tid.tile = some tl → st.launchOf tid.tile = some la → th.kill = false →
    th.paired = some p → th.task = some k → th.fwTrap = some f → f.cause = .mismatch → tl.pairs.get? k.id = some (o, 0) →
    st.cmdsOf tid = [] → (∀ b ∈ th.streams, b = none) → (∃ e ∈ tl.threads, e.1 ≠ tid.thr) →
    ∃ t tl', exec (.fwKill tid) st = .next t ∧ KeepsMemory st t la ∧ t.thread? tid = none ∧ t.tile? tid.tile = some tl' ∧
      tl'.work = p :: tl.work ∧ tl'.pairs.get? k.id = some (0, 1)) ∧
  (∀ st tid th tl la p k f o, st.thread? tid = some th → st.tile? tid.tile = some tl → st.launchOf tid.tile = some la → th.kill = false →
    th.paired = some p → th.task = some k → th.fwTrap = some f → f.cause = .mismatch → tl.pairs.get? k.id = some (o, 2) →
    la.cancelled = false → la.detail = 0 →
    ∃ t la', exec (.fwKill tid) st = .next t ∧ t.launchOf tid.tile = some la' ∧ la'.cancelled = true ∧ la'.detail = 1 ∧
      la'.fault = some ⟨.mismatch, f.epc, f.tval, tid.thr, tid.tile.num, st.now⟩)

/-! ## Links and routers (02, 25) -/

/-- Only one link differs. -/
def OnlyLink (st t : State) (n : Nat) (x : Link) : Prop := t.link n = x ∧ ∀ o, o ≠ n → t.link o = st.link o

/-- A link has failed, and what it has not seen acknowledged goes over the next working one, in ascending number and wrapping
(R119, R505). -/
def MovedOn (st t : State) (link : Nat) : Prop :=
  (t.link link).failed = true ∧ ∀ n < 96, n ≠ link → (st.link n).failed = false →
    (∀ i < (n + 95 - link) % 96, (st.link ((link + 1 + i) % 96)).failed = true) →
    t.remotes = st.remotes.map fun r => if r.link = link then { r with link := n } else r

/-- A launch is still there because a thread of a moored tile lives, and it has not failed or been cancelled. -/
def Living (st : State) (id : TileId) (la : Launch) : Prop :=
  st.launchOf id = some la ∧ la.cancelled = false ∧ la.detail = 0 ∧ (st.tiles.map (·.1)).Nodup ∧
  ∃ tl b, st.tile? id = some tl ∧ tl.berth = some b ∧ tl.threads ≠ []

/-- R118: what a link delivers in order takes effect once: a write at its bytes, a message in its tile's inbox; one whose number is not
ahead of the last of its source is dropped and counted; and an acknowledged remote write is no longer outstanding. -/
def RemoteTraffic : Prop :=
  (∀ st n i rest, (st.link n).rx = i :: rest → (st.link n).failed = false →
    let ahead := ∀ last, st.seqIn.get? i.source = some last → i.seq ≠ last ∧ (i.seq - last).toNat < 2 ^ 31
    (∀ pa bytes, i.data = .write pa bytes → ahead → MemoryOk st → ∃ t, exec (.linkItemArrival n) st = .next t ∧ t.tiles = st.tiles ∧
      OnlyLink st t n { st.link n with rx := rest, retries := 0 } ∧ t.seqIn.get? i.source = some i.seq ∧
      (∀ j < bytes.length, memGet t.mem (memKey 2 0 pa + j) = bytes.getD j 0#8) ∧
      ∀ a, a < memKey 2 0 pa ∨ memKey 2 0 pa + bytes.length ≤ a → memGet t.mem a = memGet st.mem a) ∧
    (∀ id m tl, i.data = .message id m → ahead → st.gangState id = .resident → st.tile? id = some tl → tl.heap = [] → tl.held = [] →
      tl.overflow = [] → slotsOf tl.inbox + m.slots ≤ 2048 → tl.recvs = [] →
      ∃ t, exec (.linkItemArrival n) st = .next t ∧ t.mem = st.mem ∧ OnlyLink st t n { st.link n with rx := rest, retries := 0 } ∧
        t.tile? id = some { tl with inbox := tl.inbox ++ [m] } ∧ ∀ u, u ≠ id → t.tile? u = st.tile? u) ∧
    (¬ ahead → ∃ t, exec (.linkItemArrival n) st = .next t ∧ t = { st with links := t.links } ∧
      OnlyLink st t n { st.link n with rx := rest, retries := 0, dups := (st.link n).dups + 1 })) ∧
  (∀ st r, st.remotes.find? (·.id = r.id) = some r → r.lost = false →
    ∃ t, exec (.remoteWriteAck r.link r.id) st = .next t ∧ t.remotes = st.remotes.filter (·.id ≠ r.id) ∧ t.tiles = st.tiles)

/-- R482, R119, R505, R483, R488: a flit that fails its CRC is sent again, up to 8 times; after that its link retrains with the lanes that
work, at half rate with 4 to 7 of them, and fails with fewer; what a failed link has not seen acknowledged moves to the next working
plane; a remote write without a path for 100 ms fails its launch with detail 4; and a router's failure fails every launch with a tile
there and is entered at the next boot. -/
def LinkErrors : Prop :=
  (∀ st n, (st.link n).failed = false →
    (∃ t, exec (.flitCrcFail n) st = .next t ∧ t = { st with links := t.links } ∧
      OnlyLink st t n { st.link n with retries := min 9 ((st.link n).retries + 1) }) ∧
    (∀ lanes, 9 ≤ (st.link n).retries → 4 ≤ lanes → ∃ t, exec (.linkRetrain n lanes) st = .next t ∧ t = { st with links := t.links } ∧
      OnlyLink st t n { st.link n with retries := 0, narrow := decide (lanes < 8) }) ∧
    (∀ lanes, n < 96 → 9 ≤ (st.link n).retries → lanes < 4 → ∃ t, exec (.linkRetrain n lanes) st = .next t ∧
      t = { st with links := t.links, remotes := t.remotes } ∧ MovedOn st t n) ∧
    (n < 96 → ∃ t, exec (.linkFailure n) st = .next t ∧ t = { st with links := t.links, remotes := t.remotes } ∧ MovedOn st t n)) ∧
  (∀ st r la, st.remotes.find? (·.id = r.id) = some r → r.lost = false → (st.link r.link).failed = true → r.time + 100000000 ≤ st.now →
    Living st r.thread.tile la →
    ∃ t la', exec (.remoteWriteAbandon r.id) st = .next t ∧ t.launchOf r.thread.tile = some la' ∧ la'.cancelled = true ∧ la'.detail = 4 ∧
      ∀ x ∈ t.remotes, x.id = r.id → x.lost = true) ∧
  (∀ st b id la tl, Living st id la → st.tile? id = some tl → tl.berth = some b →
    ∃ t la', exec (.routerFailure b) st = .next t ∧ t.launchOf id = some la' ∧ la'.cancelled = true ∧ la'.detail ≠ 0 ∧
      t.boot.failed = st.boot.failed ++ [(2, b)]) ∧
  (∀ st n regs, st.quay.find? (·.1 = n) = some (n, regs) → ∃ t, exec (.quayTileQueueCompletion n) st = .next t ∧
    t = { st with tiles := t.tiles, quay := st.quay.filter (·.1 ≠ n) } ∧
    ∀ r ∈ regs, ∀ tl, t.tile? r.1 = some tl → ∀ e, some e ∈ tl.rlt → e.id ≠ r.2)

/-! ## Boot, clocks and security (25) -/

/-- A field completes a stage of boot (R484): the stage is complete once every field that boots has. -/
def Passes (st t : State) (stage field : Nat) : Prop :=
  ((∀ f < 30, st.boot.dark.getLsbD f = true ∨ f = field ∨ st.boot.passed.getLsbD f = true) → t.boot.stage = stage ∧ t.boot.passed = 0) ∧
  ((∃ f < 30, st.boot.dark.getLsbD f = false ∧ f ≠ field ∧ st.boot.passed.getLsbD f = false) →
    t.boot.stage = st.boot.stage ∧ ∀ f < 30, t.boot.passed.getLsbD f = (st.boot.passed.getLsbD f || f == field))

/-- A field may do the work of a stage (R484): it boots, every booting field has completed the stage before, and it has not done it. -/
def AtStage (st : State) (stage field : Nat) : Prop :=
  field < 30 ∧ st.boot.stage + 1 = stage ∧ st.boot.dark.getLsbD field = false ∧ st.boot.passed.getLsbD field = false

/-- R484 to R488: a module reset leaves nothing running, the rim store only after a reset with power, and counts the boot; each field
tests its units, of which those that fail enter the defect map once; it enters the channels of a removed rim link and withdraws
their granules; and it finds the berths that no route crosses. -/
def BootStages : Prop :=
  (∀ st power verified, ∃ t, exec (.moduleReset power verified) st = .next t ∧ t.powered = true ∧ t.tiles = [] ∧ t.launches = [] ∧
    t.boot.count = st.boot.count + 1 ∧ t.boot.stage = 1 ∧ t.boot.passed = 0 ∧ t.boot.dark = ~~~verified ∧
    (∀ b x, (b, x) ∈ st.berths → x.retire = true → ∃ d ∈ t.defects, d.kind = 0 ∧ d.unit = b) ∧ (∀ d ∈ st.defects, d ∈ t.defects) ∧
    ∀ a, memGet t.mem a = if a / 2 ^ 96 = 3 ∨ (power = false ∧ a / 2 ^ 96 = 2) then memGet st.mem a else 0#8) ∧
  (∀ st field failed, AtStage st 2 field → ∃ t, exec (.selfTest field failed) st = .next t ∧ Passes st t 2 field ∧ t.mem = st.mem ∧
    (∀ u ∈ failed, ∃ d ∈ t.defects, d.kind = u.1 ∧ d.unit = u.2) ∧ (∀ d ∈ st.defects, d ∈ t.defects) ∧
    ∀ b, (∃ d ∈ t.defects, d.kind = 0 ∧ d.unit = b) → (t.berth b).state = .retired) ∧
  (∀ st field channels granules, AtStage st 3 field → ∃ t, exec (.laneRepair field channels granules) st = .next t ∧ Passes st t 3 field ∧
    t.mem = st.mem ∧ (∀ c ∈ channels, ∃ d ∈ t.defects, d.kind = 4 ∧ d.unit = c) ∧
    ∀ g, ∃ e, (g ∈ granules → t.granules.get? g = some e ∧ e.getLsbD 13 = true ∧ e.getLsbD 14 = false) ∧
      (g ∉ granules → t.granules.get? g = st.granules.get? g)) ∧
  (∀ st field, AtStage st 4 field → ∃ t, exec (.routeTableBuild field) st = .next t ∧ Passes st t 4 field ∧ t.mem = st.mem ∧
    (∀ b < 5040, (∃ d ∈ st.defects, d.kind = 2 ∧ d.unit = b) ∨ st.boot.dark.getLsbD (fieldOf b) = true → b ∈ t.holes) ∧
    ((∀ d ∈ st.defects, d.kind ≠ 2 ∧ d.kind ≠ 3) → st.boot.dark = 0 → t.holes = [] ∧ t.cuts = []))

/-- R484, R491 to R493, R509: the booting fields start their counters at 0 together; a seam's least, median and greatest latencies are
recorded, saturated at 255, and a removed seam reads all ones; then partitions open, with FREEB the compute berths that are left.
A loss of power stops everything and changes nothing else. -/
def BootEnds : Prop :=
  (∀ st, st.boot.stage = 4 → ∃ t, exec .timeCounterStart st = .next t ∧ t.boot.stage = 5 ∧ t.now = 0 ∧ t.mem = st.mem ∧
    (∀ f < 30, st.boot.dark.getLsbD f = false → (t.field f).time = 0 ∧ (t.field f).counting = true) ∧ ∀ f < 30, t.toff.getD f 0 = 0) ∧
  (∀ st lat, st.boot.stage = 5 → ∃ t, exec (.seamMeasurement lat) st = .next t ∧ t.boot.stage = 6 ∧ t.mem = st.mem ∧ t.seamlat.length = 49 ∧
    ∀ s < 49, (s ∈ st.cuts → t.seamlat.getD s 0 = 0xFFFFFFFF#32) ∧
      (s ∉ st.cuts → ∀ lo mid hi, lat.getD s (0, 0, 0) = (lo, mid, hi) → let w := (t.seamlat.getD s 0#32).toNat
        w % 256 = min lo 255 ∧ w / 256 % 256 = min mid 255 ∧ w / 65536 % 256 = min hi 255 ∧ w / 2 ^ 24 = min hi 255 / 16)) ∧
  (∀ st, st.boot.stage = 6 → ∃ t, exec .worldAssignment st = .next t ∧ t.boot.stage = 7 ∧ t.mem = st.mem ∧
    (∀ p < 30, (t.part p).minor = (st.modRegs.version.extractLsb' 16 8).toNat) ∧
    t.modRegs.freeb = ((List.range 5040).filter fun b => !isQuay b && !(st.defects.any fun d => d.kind == 0 && d.unit == b) &&
      !st.boot.dark.getLsbD (fieldOf b)).length) ∧
  (∀ st, exec .powerLoss st = .next { st with powered := false })

/-- R491: a field's probe carries the times of its sending, arrival and reply, and its end gives the offset from its neighbour on the
measuring tree; the offsets of all fields are then published together. -/
def Offsets : Prop :=
  (∀ st f, 0 < f → f < 30 → let near := if f < 6 then f - 1 else f - 6
    (st.field near).counting = true → (st.field f).counting = true → (st.field f).probe = none →
    (st.field f).probed < (st.field near).time / 1000000 →
    ∃ t, exec (.timeProbe f) st = .next t ∧ OnlyField st t f { st.field f with
      probe := some ⟨(st.field near).time, 0, 0, false⟩, probed := (st.field near).time / 1000000 }) ∧
  (∀ st f p, (st.field f).probe = some p → p.arrived = false → ∃ t, exec (.timeProbeArrival f) st = .next t ∧
    OnlyField st t f { st.field f with probe := some { p with t2 := (st.field f).time, t3 := (st.field f).time, arrived := true } }) ∧
  (∀ st f p, 0 < f → f < 30 → (st.field f).probe = some p → p.arrived = true → let near := if f < 6 then f - 1 else f - 6
    ∃ t, exec (.timeReplyArrival f) st = .next t ∧ t = { st with fields := t.fields, toff := t.toff } ∧
      t.field f = { st.field f with
        off := (((p.t2 : Int) - p.t1) - (((st.field near).time : Int) - p.t3)) / 2, probe := none } ∧
      (∀ g, g ≠ f → t.field g = st.field g) ∧ t.toff.length = 30 ∧ t.toff.getD 0 1 = 0 ∧
      ∀ g, 0 < g → g < 30 → t.toff.getD g 0 = (t.field g).off + t.toff.getD (if g < 6 then g - 1 else g - 6) 0)

/-- R485, R489, R490, R493, R422: an operator's command that verifies and carries the boot count removes its entry of the defect map, and
any other changes nothing; a report carries its nonce and what it attests; a granule changes hands zeroed, with every TLB empty,
while no launch of its partitions runs; and an accepted image's MINOR takes effect while no launch of the partition runs. -/
def Identity : Prop :=
  (∀ st n c v, (v = true → c = st.boot.count → exec (.defectReinstate n c v) st = .next { st with defects := st.defects.eraseIdx n }) ∧
    (v = false ∨ c ≠ st.boot.count → exec (.defectReinstate n c v) st = .next st)) ∧
  (∀ st nonce, ∃ t r, exec (.attestationReport nonce) st = .next t ∧ t = { st with reports := st.reports ++ [r] } ∧ r.nonce = nonce ∧
    r.version = st.modRegs.version ∧ r.freeb = st.modRegs.freeb ∧ r.firmware.length = 30) ∧
  (∀ st g e, g < 2560 → (∀ la ∈ st.launches, ∀ o ∈ [(st.granules.get? g).getD 0, e], o.getLsbD 14 = true → la.1.1 ≠ o.toNat / 256 % 32) →
    ∃ t new, exec (.granuleReassign g e) st = .next t ∧ t.granules.get? g = some new ∧ (∀ o, o ≠ g → t.granules.get? o = st.granules.get? o) ∧
      (((st.granules.get? g).getD 0).getLsbD 13 = false → new = e &&& 0xDF00#16) ∧
      (((st.granules.get? g).getD 0).getLsbD 13 = true → new.getLsbD 14 = false ∧ new.getLsbD 13 = true) ∧
      (∀ i < 2 ^ 30, memGet t.mem (memKey 2 0 (g * 2 ^ 30) + i) = 0#8) ∧
      (∀ a, a < memKey 2 0 (g * 2 ^ 30) ∨ memKey 2 0 (g * 2 ^ 30) + 2 ^ 30 ≤ a → memGet t.mem a = memGet st.mem a) ∧
      (∀ b, (t.berth b).utlb = []) ∧ ∀ f, (t.field f).tlb = []) ∧
  (∀ st p v, (∀ la ∈ st.launches, la.1.1 ≠ p) → ∃ t, exec (.firmwareUpdate p v true) st = .next t ∧ t.mem = st.mem ∧
      (t.part p).minor = (v.extractLsb' 16 8).toNat ∧ t.modRegs.version = st.modRegs.version.extractLsb' 24 8 ++ v.extractLsb' 0 24) ∧
  (∀ st p v verified, verified = false ∨ (∃ la ∈ st.launches, la.1.1 = p) → exec (.firmwareUpdate p v verified) st = .next st)

/-! ## The machine as a whole -/

/-- The bytes of a launch's code section from an offset on. -/
def codeBytes (st : State) (tile : TileId) (pc n : Nat) : List Byte :=
  (List.range n).map fun j => memGet st.mem (codeKey tile.part tile.slot pc + j)

/-- A step is an input that waits, an event that is due, a command that a dispatcher has taken, an event that the state enables, or a
turn of a core, each at a time that R5 gives its source; the order of the last two is the model's (log entry 1). -/
def StepsChoose : Prop :=
  (∀ s i rest, s.agenda = i :: rest → s.powered = true ∨ wakesModule i = true →
    step s = happen (inputSource i) (exec i) { s.advance with agenda := rest }) ∧
  (∀ s, s.agenda = [] → s.powered = true → s.advance.dueEvents ≠ [] → ∃ e ∈ s.advance.dueEvents, step s = happen e.1 e.2 s.advance) ∧
  (∀ s c rest, s.agenda = [] → s.powered = true → s.advance.dueEvents = [] → s.taken = c :: rest →
    step s = happen (portSource (c.queue / 131072)) (carryOut c) { s.advance with ticked := false, taken := rest }) ∧
  (∀ s, s.agenda = [] → s.powered = true → s.advance.dueEvents = [] → s.taken = [] →
    let st := { s.advance with ticked := false }
    (step s = happen st.turnSource turn st ∨ ∃ e ∈ st.enabledEvents, step s = happen e.1 e.2 st) ∧
    (st.enabledEvents = [] → step s = happen st.turnSource turn st)) ∧
  ∀ source e s, let st := if s.lastNow = s.now ∧ source < s.lastSource then s.later else s
    (∀ t, e st = .next t → ∃ n now, happen source e s = .next { t with lastSource := n, lastNow := now }) ∧
    (∀ f, e st = .fault f → happen source e s = .fault f)

/-- R31, R34, R220, R221, R227, R236: in a turn the first eligible thread of its position takes the instruction that the bytes at its
PC decode to (a thread of no checked pair: R41 has another statement), an IMX word with the word behind it, and the turn is that instruction's effect; bytes that decode to nothing, or
that its decode mode rejects, execute as the illegal word; a thread that the instruction holds leaves the turn to the next one; and a
PC outside the code section executes nothing and traps BOUNDS with it. -/
def TurnsRun : Prop :=
  ∀ st tile core st1 e es th la, st.nextCore = some (tile, core, st1) → st.held = false →
    let st2 := (st1.openTurn tile core).forgoTurn tile core
    (st1.openTurn tile core).candidates tile core = e :: es →
    let m := st2.offer tile e
    m.thread? ⟨tile, e.1⟩ = some th → th.kill = false → th.paired = none → m.launchOf tile = some la →
    let pc := (th.pc &&& 0xFFFFFFFC#32).toNat
    let w := memRead m.mem (codeKey tile.part tile.slot pc) 4
    let runs := fun i => ∀ t, exec i m = .next t → (t.held = false → turn st = .next t) ∧ (t.held = true → turn st = tryTurn tile es st2)
    (pc < la.kernel.codeSize →
      let bytes := codeBytes m tile pc (if pc + 8 ≤ la.kernel.codeSize then 8 else 4)
      (∀ i rest, decodeBytes bytes = .ok (i, rest) → modeRejects th.mode w = false → runs i) ∧
      (modeRejects th.mode w = true ∨ (∃ err, decodeBytes bytes = .error err) → runs (.illegal (BitVec.ofNat 32 w)))) ∧
    (la.kernel.codeSize ≤ pc → ∀ t, m.takeTrap ⟨tile, e.1⟩ .bounds (th.pc &&& 0xFFFFFFFC#32) (th.pc &&& 0xFFFFFFFC#32) false = t →
      t.held = false → turn st = .next t)

/-- Words written out in the manual's tables of encodings (Tables 7.10, 8.12, 10.6, 11.11, 12.6, 13.9 and 20.1), with their
instructions. -/
def sampleWords : List (Nat × Instr) := [
  (0x05140005, .addi 0 10 0 5), (0xC31A3054, .div 3 13 12 10), (0x101A03FA, .beq 0 13 0 0x3FA), (0x1F0E2400, .hintFallback 0 7 9 0 0 true),
  (0x200A2835, .ld 0 5 10 3 false true .ord), (0x25103049, .amoAr 0 8 12 4 .cas), (0x26000012, .fenceRel 0 .grid),
  (0x27103031, .sendRel 0 8 12 3 .w1), (0x2A044040, .sbindR 0 2 16 4), (0x3E001600, .rlwait 0 5), (0x300A1000, .vclaim 0 5 4),
  (0x35184408, .vrfsum 0 3 1 2 0), (0x3B204AC0, .mma 0 1 9 2 true true false false), (0x3C0C5002, .miterInv 0 0 3 10 false),
  (0x3E180058, .csrr 0 12 0 24), (0x3E000020, .eret 0), (0x9A102455, .fdiv 2 8 9 10)]

end Sys2Proof

/-! ## The statements -/

open Sys2Proof Sys2Proof.Machine Sys2Proof.Safety

/-- R258: a division completes with its result on the way (R175): to be delivered, with no flag, 8 × (3 + 1) tile cycles after
the issue; a quotient by zero is all ones, a remainder by zero is A, and the one overflow wraps. -/
def Obligations.Divisions : Prop :=
  ∀ e ∈ divOps, ∀ st s d a b tid th th1 th2 th3 x y, Runs st tid th → NotEarly th [a, b] → Reads th a x th1 → Reads th1 b y th2 →
    PutsLate st tid th2 d (e.2 x y) 0 3 th3 →
    ∃ t, exec (e.1 s d a b) st = .next t ∧ Completed st t tid th3 s 4 .fall

/-- The integer register forms, the bit forms and the field forms that are ready at once (R257 to R259). -/
def Obligations.IntegerForms : Prop := IntegerRegisterForms ∧ BitForms ∧ FieldForms

/-- The immediate forms and LI, the comparisons into predicates and SEL (R260 to R263). -/
def Obligations.ImmediateAndPredicateForms : Prop := ImmediateForms ∧ PredicateForms

/-- Branches, jumps and the start of a loop (R264 to R267, R269). -/
def Obligations.ControlTransfers : Prop := Branches ∧ Jumps ∧ LoopStarts

/-- The loop levels (R269 to R271). -/
def Obligations.Loops : Prop := LoopPushes ∧ LoopEnd ∧ LoopLeave

/-- R227, R228: an IMX pair is one instruction of 8 bytes whose immediate, offset or word count is {IMX.imm22, i10}, for the
immediate forms, LI, PCMPI, the compare branches, whose offset counts from the IMX word, and JALR, which links behind the pair. -/
def Obligations.ImmediatePairs : Prop :=
  (∀ e ∈ pairOps, ∀ st hi s d a lo tid th th1 th2 x, Runs st tid th → NotEarly th [a] → Reads th a x th1 →
    Puts st tid th1 d (e.2 x (pairImm hi lo)) th2 →
    ∃ t, exec (.imx hi (BitVec.ofNat 32 (encodeWord (e.1 s d a lo)))) st = .next t ∧ Completed st t tid th2 s 8 .fall) ∧
  (∀ st hi s d lo tid th th1, Runs st tid th → Puts st tid th d (pairImm hi lo) th1 →
    ∃ t, exec (.imx hi (BitVec.ofNat 32 (encodeWord (.li s d (0#7 ++ lo))))) st = .next t ∧ Completed st t tid th1 s 8 .fall) ∧
  (∀ e ∈ branchOps, ∀ st hi s a b lo tid th th1 th2 x y, Runs st tid th → NotEarly th [a, b] → Reads th a x th1 → Reads th1 b y th2 →
    ∃ t, exec (.imx hi (BitVec.ofNat 32 (encodeWord (e.1 s a b lo)))) st = .next t ∧
      Completed st t tid th2 s 8 (if compares e.2 x y then .jump (th.pc + 4 * pairImm hi lo) else .fall)) ∧
  (∀ st hi s d a lo tid th th1 th2 x, Runs st tid th → NotEarly th [a] → Reads th a x th1 → Puts st tid th1 d (th.pc + 8) th2 →
    ∃ t, exec (.imx hi (BitVec.ofNat 32 (encodeWord (.jalr s d a lo)))) st = .next t ∧
      Completed st t tid th2 s 8 (.jump ((x + pairImm hi lo) &&& 0xFFFFFFFC)))

/-- R272 to R274: the floating-point forms complete with the results and flags of their helpers, the flags ORed into FFLAGS (R135);
FDIV and FSQRT deliver 8 × (2 + 1) tile cycles after the issue (R256); FFMA and FFMS read d as their addend. -/
def Obligations.FloatForms : Prop :=
  (∀ e ∈ fpOps2, ∀ st s d a b tid th th1 th2 th3 x y, Runs st tid th → NotEarly th [a, b] → Reads th a x th1 → Reads th1 b y th2 →
    Puts st tid th2 d (e.2 x y).bits th3 →
    ∃ t, exec (e.1 s d a b) st = .next t ∧ Completed st t tid { th3 with fflags := th3.fflags ||| (e.2 x y).flags } s 4 .fall) ∧
  (∀ e ∈ fpOps1, ∀ st s d a tid th th1 th2 x, Runs st tid th → NotEarly th [a] → Reads th a x th1 →
    Puts st tid th1 d (e.2 x).bits th2 →
    ∃ t, exec (e.1 s d a) st = .next t ∧ Completed st t tid { th2 with fflags := th2.fflags ||| (e.2 x).flags } s 4 .fall) ∧
  (∀ st s d a b tid th th1 th2 th3 x y, Runs st tid th → NotEarly th [a, b] → Reads th a x th1 → Reads th1 b y th2 →
    PutsLate st tid th2 d (fDiv x y).bits (fDiv x y).flags 2 th3 →
    ∃ t, exec (.fdiv s d a b) st = .next t ∧ Completed st t tid th3 s 4 .fall) ∧
  (∀ st s d a tid th th1 th2 x, Runs st tid th → NotEarly th [a] → Reads th a x th1 →
    PutsLate st tid th1 d (fSqrt x).bits (fSqrt x).flags 2 th2 →
    ∃ t, exec (.fsqrt s d a) st = .next t ∧ Completed st t tid th2 s 4 .fall) ∧
  (∀ st s d a b tid th th1 th2 x y z, Runs st tid th → NotEarly th [a, b, d] → Reads th a x th1 → Reads th1 b y th2 →
    d.toNat < th.alloc → th.reg d.toNat = .ready z →
    (∃ t, exec (.ffma s d a b) st = .next t ∧
      Completed st t tid { th2.setX d.toNat (fFma x y z).bits with fflags := th2.fflags ||| (fFma x y z).flags } s 4 .fall) ∧
    (∃ t, exec (.ffms s d a b) st = .next t ∧
      Completed st t tid { th2.setX d.toNat (fFms x y z).bits with fflags := th2.fflags ||| (fFms x y z).flags } s 4 .fall))

/-- Pending registers: what transforms them, what they resolve to and what they block (R157 to R162). -/
def Obligations.PendingValues : Prop := PendingTransforms ∧ PendingResolves ∧ PendingBlocks

/-- R276: an SFUN that finds a symbol and room in the FIFO allocates the symbol, leaves d pending on it in the neutral state, and
appends its request to the tile's FIFO; d = x0 discards the pending state. -/
def Obligations.SpecialFunctions : Prop :=
  ∀ e ∈ sfunOps, ∀ st s d a tid th th1 x tl n, Runs st tid th → NotEarly th [a] → Reads th a x th1 → d.toNat < th.alloc →
    st.tile? tid.tile = some tl → symbolSlot st tid = .ok n → tl.sfuFifo.length < 16 →
    ∃ m t, exec (e.1 s d a) st = .next t ∧ Completed m t tid (th1.setReg d.toNat (.pending n 0 .neutral false)) s 4 .fall ∧
      m = { st with tiles := m.tiles } ∧
      (∀ id, id ≠ tid.tile → m.tile? id = st.tile? id) ∧
      ∃ tl', m.tile? tid.tile = some tl' ∧ tl'.sfuFifo = tl.sfuFifo ++ [⟨e.2, x, tid.thr, n⟩] ∧
        (tl'.core (tid.thr / 64)).symbols.get? n = some ⟨tid.thr, .sfun, none, 0, false, false⟩

/-- R247: a hint word never traps or blocks: it copies the whole state of a, pending or ready, to d, and does nothing when either lies
beyond the allocation; an early read is held in W1 mode only. -/
def Obligations.HintsCopy : Prop :=
  ∀ i ∈ hintOps, ∀ st s d a b tid th, Runs st tid th →
    (th.mode = .w1 → th.isEarly a.toNat = false ∧ (i.2 = true → th.isEarly b.toNat = false)) →
    ∃ m t, exec (i.1 s d a b) st = .next t ∧ m.mem = st.mem ∧
      Completed m t tid (if a.toNat < th.alloc ∧ d.toNat < th.alloc then th.setReg d.toNat (th.reg a.toNat) else th) s 4 .fall

/-- The issue of loads, stores and atomics (R280 to R288). -/
def Obligations.MemoryIssue : Prop := LoadsIssue ∧ StoresIssue ∧ AtomicsIssue

/-- R87, R287, R289: an access that may be performed is performed at one instant. A store leaves its low bytes at its place, an atomic
the 32 bits of its operation, a load, a failed CAS and an access that the host refuses nothing; every byte of memory outside the access
and the launch's counter block keeps its value; and the access leaves the order. (Said while a thread of its launch lives and no tile
waits at the grid barrier.) -/
def Obligations.AccessesPerform : Prop :=
  ∀ st id ecc a, Memory.wf st.mem = true → st.accesses.find? (·.id = id) = some a → st.mayPerform a = true →
    (match a.kind with | .amo _ _ => a.size = 4 | _ => True) →
    let block := fun x => ∃ la pa, st.launchOf a.agent.tile = some la ∧ la.counter = some pa ∧ memKey 2 0 pa ≤ x ∧ x < memKey 2 0 pa + 64
    (∀ la, st.launchOf a.agent.tile = some la → la.arrived = [] ∧ la.cancelled = false ∧
      ∃ e ∈ st.tilesOf a.agent.tile.part a.agent.tile.slot, e.2.threads ≠ []) →
    (∀ x, a.place.key ≤ x → x < a.place.key + a.size → ¬ block x) →
    ∃ t, exec (.accessPerformed id ecc) st = .next t ∧ (∀ x ∈ t.accesses, x.id ≠ id) ∧
      (∀ x, x < a.place.key ∨ a.place.key + a.size ≤ x → ¬ block x → memGet t.mem x = memGet st.mem x) ∧
      memRead t.mem a.place.key a.size = if a.place.refused ecc = true then memRead st.mem a.place.key a.size else (match a.kind with
        | .load => memRead st.mem a.place.key a.size
        | .store => (a.data.getD 0#32).toNat % 256 ^ a.size
        | .amo op cas => match amoLeaves op (BitVec.ofNat 32 (memRead st.mem a.place.key 4)) (a.data.getD 0#32) cas with
          | some w => w.toNat
          | none => memRead st.mem a.place.key 4)

/-- R290, R103: a fence with nothing to wait for completes at once and accesses no memory; one whose thread has an unresolved load
parks, whatever its kind, with its effect on memory and on every register none. -/
def Obligations.Fences : Prop :=
  (∀ e ∈ fenceOps, ∀ st s q tid th, Runs st tid th → Quiet st tid th →
    ∃ t, exec (e.1 s q) st = .next t ∧ Completed st t tid th s 4 .fall) ∧
  (∀ e ∈ fenceOps, ∀ st s q tid th, Runs st tid th → th.fence = none → loadsResolved st tid = false →
    ∃ t, exec (e.1 s q) st = .next t ∧ t.mem = st.mem ∧ t.accesses = st.accesses ∧
      t.thread? tid = some { th with fence := some ⟨e.2, q, none⟩, status := .off .fence st.clock })

/-- R278: GADDR writes the owner's tile number to d and the element index to d + 1, as Distribute and the bounds mode give them, with
no access, no symbol and no TOUCH bit; with d = x0 the owner is discarded. -/
def Obligations.TensorAddresses : Prop :=
  ∀ st s d c l tid th la (ws : List Word) o x, Runs st tid th → st.launchOf tid.tile = some la →
    let k := la.kernel
    Ranges th [(c, coordCount k l.toNat), (d, 2)] → NotEarly th (rangeFields c (coordCount k l.toNat)) →
    ws.length = coordCount k l.toNat → (∀ i < ws.length, th.reg (c.toNat + i) = .ready (ws.getD i 0#32)) →
    gaddrValue k tid.tile.num l.toNat 0 ((ws.take (k.entryOf l.toNat).rank).map (·.toInt))
      (ws.getD (k.entryOf l.toNat).rank 0#32).toNat = .ok (o, x) →
    ∃ t, exec (.gaddr s d c l) st = .next t ∧ Completed st t tid ((th.setX d.toNat o).setX (d.toNat + 1) x) s 4 .fall

/-- Messages: sends, receives and the words that a receive takes (R292 to R295). -/
def Obligations.Messages : Prop := Sends ∧ Receives ∧ ReceivedWords

/-- R302: the first of several participants at an idle barrier instance fixes the count, is counted and parks; a count of 1
completes at once. R303: an arrival at the grid barrier is recorded for its tile and parks while another tile has not arrived.
R304: RLWAIT on a free entry has no effect, and on a held one parks until that registration is released. -/
def Obligations.Barriers : Prop :=
  (∀ st s a tid th tl n, Runs st tid th → NotEarly th [a] → a.toNat < th.alloc → th.reg a.toNat = .ready n → Quiet st tid th →
    st.tile? tid.tile = some tl → (tl.core (tid.thr / 64)).bar = none → 1 < n.toNat → n.toNat ≤ 64 →
    ∃ m t, exec (.barCore s a) st = .next t ∧ m.mem = st.mem ∧
      Completed m t tid { th with status := .off .barCore st.clock } s 4 .fall ∧
      ∃ tl', m.tile? tid.tile = some tl' ∧ (tl'.core (tid.thr / 64)).bar = some ⟨n.toNat, [tid.thr]⟩) ∧
  (∀ st s a tid th tl n, Runs st tid th → NotEarly th [a] → a.toNat < th.alloc → th.reg a.toNat = .ready n → Quiet st tid th →
    st.tile? tid.tile = some tl → tl.barTile = none → 1 < n.toNat → n.toNat ≤ 511 →
    ∃ m t, exec (.barTile s a) st = .next t ∧ m.mem = st.mem ∧
      Completed m t tid { th with status := .off .barTile st.clock } s 4 .fall ∧
      ∃ tl', m.tile? tid.tile = some tl' ∧ tl'.barTile = some ⟨n.toNat, [tid.thr]⟩) ∧
  (∀ st s a tid th tl, Runs st tid th → NotEarly th [a] → a.toNat < th.alloc → th.reg a.toNat = .ready 1 → Quiet st tid th →
    st.tile? tid.tile = some tl → (tl.core (tid.thr / 64)).bar = none → tl.barTile = none →
    (∃ m t, exec (.barCore s a) st = .next t ∧ Completed m t tid th s 4 .fall ∧ m.mem = st.mem) ∧
    (∃ m t, exec (.barTile s a) st = .next t ∧ Completed m t tid th s 4 .fall ∧ m.mem = st.mem)) ∧
  (∀ st s tid th la, Runs st tid th → Quiet st tid th → st.launchOf tid.tile = some la → la.arrived.contains tid.tile.num = false →
    (∃ n ∈ la.kernel.tiles, n ≠ tid.tile.num ∧ st.countsArrived tid.tile.part tid.tile.slot la n = false) →
    ∃ m t, exec (.barGrid s) st = .next t ∧ Completed m t tid { th with status := .off (.barGrid la.gen) st.clock } s 4 .fall ∧
      ∃ la', m.launchOf tid.tile = some la' ∧ la'.arrived = la.arrived ++ [tid.tile.num] ∧ la'.gen = la.gen) ∧
  (∀ st s a tid th th1 tl n, Runs st tid th → NotEarly th [a] → Reads th a n th1 → st.tile? tid.tile = some tl →
    (tl.rlt.getD (n.toNat % 32) none = none →
      ∃ t, exec (.rlwait s a) st = .next t ∧ Completed st t tid th1 s 4 .fall) ∧
    (∀ r, tl.rlt.getD (n.toNat % 32) none = some r → ∃ m t, exec (.rlwait s a) st = .next t ∧ m.mem = st.mem ∧
      Completed m t tid { th1 with status := .off (.rlwait r.id) st.clock } s 4 .fall))

/-- R362, R359, R363: TRAP completes and then raises BREAK with X[a], with the address of the next instruction in TEPC and PAIR
set when a pair lies there; a single step
raises BREAK with all ones after the instruction that completed; ERET goes on at TEPC with STEP restored and INH clear, and
outside a handler it traps ILLEGAL with its word. -/
def Obligations.TrapInstructions : Prop :=
  (∀ st s a tid th th1 x, Runs st tid th → NotEarly th [a] → Reads th a x th1 →
    ∃ u t new, exec (.trap s a) st = .next t ∧ Completed st u tid th1 s 4 .fall ∧ u.thread? tid = some new ∧
      TakesTrap u t tid new .brk x (pairLies st tid (new.pc))) ∧
  (∀ e ∈ wordOps2, ∀ st s d a b tid th th1 th2 th3 x y, st.cur = some tid → st.thread? tid = some th → th.step = true →
    NotEarly th [a, b] → Reads th a x th1 → Reads th1 b y th2 → Puts st tid th2 d (e.2 x y) th3 →
    ∃ u t new, exec (e.1 s d a b) st = .next t ∧ Completed st u tid th3 s 4 .fall ∧ u.thread? tid = some new ∧
      TakesTrap u t tid new .brk 0xFFFFFFFF#32 (pairLies st tid (new.pc))) ∧
  (∀ st s tid th, Runs st tid th → th.tstat.getLsbD 0 = true →
    ∃ t, exec (.eret s) st = .next t ∧
      Completed st t tid { th with step := th.tstat.getLsbD 2, tstat := th.tstat &&& 0xFFFFFFFE#32 } s 4 (.set th.tepc)) ∧
  (∀ st s tid th, Runs st tid th → th.tstat.getLsbD 0 = false →
    ∃ t, exec (.eret s) st = .next t ∧ TakesTrap st t tid th .illegal (BitVec.ofNat 32 (encodeWord (.eret s))) false)

/-- R236, R229, R28, R230, R360: a word that is no instruction, and an IMX word whose next word takes no prefix, trap ILLEGAL with the
word that failed; an operand beyond the allocation traps REGLIMIT with the first such code; and in a launch without a TVEC, or in
a handler, the trap fails the launch. -/
def Obligations.IllegalWords : Prop :=
  (∀ st w tid th, Runs st tid th →
    ∃ t, exec (.illegal w) st = .next t ∧ TakesTrap st t tid th .illegal w false ∧ FailsLaunch st t tid th .illegal w) ∧
  (∀ st hi w tid th, Runs st tid th → acceptsImx w.toNat = false →
    ∃ t, exec (.imx hi w) st = .next t ∧ TakesTrap st t tid th .illegal (BitVec.ofNat 32 (encodeWord (.imx hi w))) false) ∧
  (∀ e ∈ wordOps2, ∀ st s d a b bad tid th, Runs st tid th →
    (bad = a ∧ ¬ Named th a) ∨ (bad = b ∧ Named th a ∧ ¬ Named th b) ∨ (bad = d ∧ Named th a ∧ Named th b ∧ ¬ Named th d) →
    ∃ t, exec (e.1 s d a b) st = .next t ∧ TakesTrap st t tid th .regLimit (bad.setWidth 32) false)

/-- R364, R472: CSRR writes the CSR that {a, sub} numbers to d, FFLAGS when nothing that R135 waits for is outstanding, and the time counter
of the tile's field and the global-time and latency tables; CSRW writes the writable ones and clears PLOST where 1 is written, and a write to a
read-only one has no effect; a number of 0x800 or above traps PRIV in user code, and an unassigned one below traps ILLEGAL, both with the word. -/
def Obligations.SpecialRegisters : Prop :=
  (∀ e ∈ csrReads, ∀ st s d h g tid th th1 la tl, Runs st tid th → st.launchOf tid.tile = some la → st.tile? tid.tile = some tl →
    h.toNat * 32 + g.toNat = e.1 → e.1 < 0x800 ∨ th.priv = true → Puts st tid th d (e.2 tid.thr tid.tile.num th la.kernel) th1 →
    ∃ t, exec (.csrr s d h g) st = .next t ∧ Completed st t tid th1 s 4 .fall) ∧
  (∀ st s d h g tid th th1 la tl b, Runs st tid th → st.launchOf tid.tile = some la → st.tile? tid.tile = some tl →
    tl.berth = some b → ∀ e ∈ csrPlaces st tid tl b, h.toNat * 32 + g.toNat = e.1 → Puts st tid th d e.2 th1 →
    ∃ t, exec (.csrr s d h g) st = .next t ∧ Completed st t tid th1 s 4 .fall) ∧
  (∀ st s d h g tid th th1 la tl, Runs st tid th → st.launchOf tid.tile = some la → st.tile? tid.tile = some tl →
    st.flagsPending tid th = false → h.toNat * 32 + g.toNat = 0x006 → Puts st tid th d (th.fflags.setWidth 32) th1 →
    ∃ t, exec (.csrr s d h g) st = .next t ∧ Completed st t tid th1 s 4 .fall) ∧
  (∀ st s d h g tid th th1 la tl n, Runs st tid th → st.launchOf tid.tile = some la → st.tile? tid.tile = some tl →
    n < 30 → h.toNat * 32 + g.toNat = 0x040 + n → Puts st tid th d (BitVec.ofInt 32 (st.toff.getD n 0)) th1 →
    ∃ t, exec (.csrr s d h g) st = .next t ∧ Completed st t tid th1 s 4 .fall) ∧
  (∀ st s d h g tid th th1 la tl n, Runs st tid th → st.launchOf tid.tile = some la → st.tile? tid.tile = some tl →
    n < 49 → h.toNat * 32 + g.toNat = 0x060 + n → Puts st tid th d (st.seamlat.getD n 0#32) th1 →
    ∃ t, exec (.csrr s d h g) st = .next t ∧ Completed st t tid th1 s 4 .fall) ∧
  (∀ e ∈ csrWrites, ∀ st s h g a tid th th1 x, Runs st tid th → NotEarly th [a] → Reads th a x th1 → h.toNat * 32 + g.toNat = e.1 →
    ∃ t, exec (.csrw s h a g) st = .next t ∧ Completed st t tid (e.2 th1 x) s 4 .fall) ∧
  (∀ st s h g a tid th th1 x tl, Runs st tid th → NotEarly th [a] → Reads th a x th1 → h.toNat * 32 + g.toNat = 0x00B →
    st.tile? tid.tile = some tl → ∃ m t tl', exec (.csrw s h a g) st = .next t ∧ Completed m t tid th1 s 4 .fall ∧
      m = { st with tiles := m.tiles } ∧ m.tile? tid.tile = some tl' ∧ tl'.arr = tl.arr ∧
      (tl'.core (tid.thr / 64)).plost = ((tl.core (tid.thr / 64)).plost && !x.getLsbD 24)) ∧
  (∀ n ∈ csrReadOnly, ∀ st s h g a tid th th1 x, Runs st tid th → NotEarly th [a] → Reads th a x th1 → h.toNat * 32 + g.toNat = n →
    ∃ t, exec (.csrw s h a g) st = .next t ∧ Completed st t tid th1 s 4 .fall) ∧
  (∀ st s h g r tid th, Runs st tid th → th.priv = false → 0x800 ≤ h.toNat * 32 + g.toNat →
    (∃ t, exec (.csrr s r h g) st = .next t ∧ TakesTrap st t tid th .priv (BitVec.ofNat 32 (encodeWord (.csrr s r h g))) false) ∧
    (∃ t, exec (.csrw s h r g) st = .next t ∧ TakesTrap st t tid th .priv (BitVec.ofNat 32 (encodeWord (.csrw s h r g))) false)) ∧
  (∀ st s h g r tid th, Runs st tid th → h.toNat * 32 + g.toNat ∈ [0x007, 0x013, 0x01D, 0x03F, 0x05E, 0x05F, 0x091, 0x7FF] →
    (∃ t, exec (.csrr s r h g) st = .next t ∧ TakesTrap st t tid th .illegal (BitVec.ofNat 32 (encodeWord (.csrr s r h g))) false) ∧
    (∃ t, exec (.csrw s h r g) st = .next t ∧ TakesTrap st t tid th .illegal (BitVec.ofNat 32 (encodeWord (.csrw s h r g))) false))

/-- R368, R369: TIME writes the time counter of the tile's field to d and d + 1, less the field's offset with .g; SETFMT writes the
old format word to d and takes the new one from a. -/
def Obligations.TimeAndFormat : Prop :=
  (∀ st s d g tid th tl b, Runs st tid th → st.tile? tid.tile = some tl → tl.berth = some b → Ranges th [(d, 2)] →
    let f := b / 72 / 14 * 6 + b % 72 / 12
    let v : Int := (st.field f).time - (if g then st.toff.getD f 0 else 0)
    ∃ t, exec (.time s d g) st = .next t ∧
      Completed st t tid ((th.setX d.toNat (BitVec.ofInt 32 v)).setX (d.toNat + 1) (BitVec.ofInt 32 (v / 2 ^ 32))) s 4 .fall) ∧
  (∀ st s d a tid th th1 th2 x, Runs st tid th → NotEarly th [a] → Reads th a x th1 → Puts st tid th1 d th.fmt th2 →
    ∃ t, exec (.setfmt s d a) st = .next t ∧ Completed st t tid { th2 with fmt := x } s 4 .fall)

/-- Threads begin, end and are dealt (R370 to R372). -/
def Obligations.ThreadLife : Prop := ThreadsSpawn ∧ ThreadsEnd

/-- Tasks taken and put (R373, R374). -/
def Obligations.Tasks : Prop := TasksTaken ∧ TasksPut

/-- Migration and following (R375, R376). -/
def Obligations.MigrateAndFollow : Prop := Migrations ∧ Following

/-- R377, R378: SYMWAIT.any completes with the number of entries that the thread holds while that is below 8, SYMWAIT x0 with 0 when
it holds none, and SYMWAIT with a ready register's value; it parks on a pending one that is not poisoned. SYMQ never waits, and
reports the pending and poison bits, the count and the symbol name. -/
def Obligations.SymbolWaits : Prop :=
  (∀ st s d a tid th th1 th2 x, Runs st tid th → st.symCount tid < 8 → Reads th a x th1 →
    Puts st tid th1 d (BitVec.ofNat 32 (st.symCount tid)) th2 →
    ∃ t, exec (.symwait s d a true) st = .next t ∧ Completed st t tid th2 s 4 .fall) ∧
  (∀ st s d a tid th th2 e w k p, Runs st tid th → st.symCount tid < 8 → a.toNat < th.alloc → th.reg a.toNat = .pending e w k p →
    Puts st tid th d (BitVec.ofNat 32 (st.symCount tid)) th2 →
    ∃ t, exec (.symwait s d a true) st = .next t ∧ Completed st t tid th2 s 4 .fall) ∧
  (∀ st s d tid th th1, Runs st tid th → 0 < th.alloc → st.symCount tid = 0 → Puts st tid th d 0#32 th1 →
    ∃ t, exec (.symwait s d 0 false) st = .next t ∧ Completed st t tid th1 s 4 .fall) ∧
  (∀ st s d a tid th th1 th2 x, Runs st tid th → a ≠ 0 → NotEarly th [a] → Reads th a x th1 → Puts st tid th1 d x th2 →
    ∃ t, exec (.symwait s d a false) st = .next t ∧ Completed st t tid th2 s 4 .fall) ∧
  (∀ st s d a tid th e w k, Runs st tid th → NotEarly th [a] → Named th d → a.toNat < th.alloc → th.reg a.toNat = .pending e w k false →
    ∃ t, exec (.symwait s d a false) st = .next t ∧ t = { st with tiles := t.tiles } ∧
      t.thread? tid = some { th with status := .off (.symReg a.toNat) st.clock } ∧ ∀ u, u ≠ tid → t.thread? u = st.thread? u) ∧
  (∀ st s d a tid th th1 th2 x, Runs st tid th → NotEarly th [a] → Reads th a x th1 →
    Puts st tid th1 d (BitVec.ofNat 32 (st.symCount tid % 16 * 256)) th2 →
    ∃ t, exec (.symq s d a) st = .next t ∧ Completed st t tid th2 s 4 .fall) ∧
  (∀ st s d a tid th th1 e w k p, Runs st tid th → NotEarly th [a] → a.toNat < th.alloc → th.reg a.toNat = .pending e w k p →
    Puts st tid th d (BitVec.ofNat 32 (1 + p.toNat * 2 + st.symCount tid % 16 * 256 + (w * 256 + e) % 2048 * 65536)) th1 →
    ∃ t, exec (.symq s d a) st = .next t ∧ Completed st t tid th1 s 4 .fall)

/-- R379, R380: a user thread that issues TLBINV, HALT or a CANCEL of a phase or a job traps PRIV with its word. In privileged code
TLBINV empties the berth's µTLB, or drops what it holds for a page, and with sub[1] the field's TLB, and completes when no
access to the rim is outstanding; HALT stops its core, and the field controller's restart lets it issue again. -/
def Obligations.PrivilegedFunctions : Prop :=
  (∀ i ∈ privileged, ∀ st s tid th, Runs st tid th → th.priv = false →
    ∃ t, exec (i s) st = .next t ∧ TakesTrap st t tid th .priv (BitVec.ofNat 32 (encodeWord (i s))) false) ∧
  (∀ st s a f u tid th, Runs st tid th → th.priv = false →
    ∃ t, exec (.tlbinv s a f u) st = .next t ∧ TakesTrap st t tid th .priv (BitVec.ofNat 32 (encodeWord (.tlbinv s a f u))) false) ∧
  (∀ st s a f u tid th th1 x tl b, Runs st tid th → th.priv = true → NotEarly th [a] → Reads th a x th1 →
    st.tile? tid.tile = some tl → tl.berth = some b → (∀ c ∈ st.accesses, ∀ va pa, c.place ≠ .rim va pa) →
    ∃ m t, exec (.tlbinv s a f u) st = .next t ∧ Completed m t tid th1 s 4 .fall ∧ m.mem = st.mem ∧
      (∀ e, e ∈ (m.berth b).utlb ↔ e ∈ (st.berth b).utlb ∧ u = false ∧ ¬ (e.base ≤ x.toNat * 65536 ∧ x.toNat * 65536 < e.base + e.size)) ∧
      (∀ g, g ≠ b → m.berth g = st.berth g) ∧
      (m.field (b / 72 / 14 * 6 + b % 72 / 12)).tlb = (if f then [] else (st.field (b / 72 / 14 * 6 + b % 72 / 12)).tlb)) ∧
  (∀ st s tid th, Runs st tid th → th.priv = true →
    ∃ m t, exec (.halt s) st = .next t ∧ Completed m t tid th s 4 .fall ∧ m = { st with tiles := m.tiles } ∧
      ∃ tl', m.tile? tid.tile = some tl' ∧ (tl'.core (tid.thr / 64)).halted = true) ∧
  (∀ st tile core tl, st.tile? tile = some tl →
    ∃ t tl', exec (.coreRestart tile core) st = .next t ∧ t = { st with tiles := t.tiles } ∧ t.tile? tile = some tl' ∧
      (tl'.core core).halted = false ∧ tl'.threads = tl.threads ∧ ∀ c, c ≠ core → tl'.core c = tl.core c)

/-- R380, R52, R438: a CANCEL of its launch marks the launch cancelled, drops its queued packets and moored traffic, and has its
thread killed; the CANCEL of a graph, and in privileged code of a phase or a job, marks that level cancelled. -/
def Obligations.Cancels : Prop :=
  (∀ st s tid th la tl b, Runs st tid th → st.launchOf tid.tile = some la → OnlyLaunch st tid la → la.cancelled = false →
    st.tile? tid.tile = some tl → tl.berth = some b →
    ∃ t la' tl', exec (.cancelLaunch s) st = .next t ∧ t.launchOf tid.tile = some la' ∧ la'.cancelled = true ∧ la'.moored = [] ∧
      t.tile? tid.tile = some tl' ∧ tl'.work = [] ∧ t.thread? tid = some { th with kill := true }) ∧
  (∀ st s tid th la g, Runs st tid th → st.launchOf tid.tile = some la →
    (st.part tid.tile.part).graphs.get? (la.job, la.graph) = some g → g.level.closed = false → g.acted = false →
    ∃ t g', exec (.cancelGraph s) st = .next t ∧ (t.part tid.tile.part).graphs.get? (la.job, la.graph) = some g' ∧
      g'.level.state = .cancelled) ∧
  (∀ st s tid th la v, Runs st tid th → th.priv = true → st.launchOf tid.tile = some la →
    (st.part tid.tile.part).phases.get? (la.job, la.phase) = some v → v.closed = false → v.state ≠ .cancelled →
    (st.part tid.tile.part).waiting = [] → ∃ t v', exec (.cancelPhase s) st = .next t ∧ (t.part tid.tile.part).phases.get? (la.job, la.phase) = some v' ∧
      v'.state = .cancelled) ∧
  (∀ st s tid th la j, Runs st tid th → th.priv = true → st.launchOf tid.tile = some la →
    (st.part tid.tile.part).jobs.get? la.job = some j → j.level.closed = false → j.level.state ≠ .cancelled →
    ∃ t j', exec (.cancelJob s) st = .next t ∧ (t.part tid.tile.part).jobs.get? la.job = some j' ∧ j'.level.state = .cancelled)

/-- R307 to R309: VCLAIM takes the lowest free context, zeroed, with G = 16 × min(GRQ, healthy lane groups) and VL = min(VLREQ, 256,
G), and writes G; without a free context it writes 0, and to a claimant it traps VCLAIM 1. VRENEG with KEEP sets VL and does not
wait, but for a claim word that it pops; without KEEP, it records W and GRQ, recomputes G and sets VL once the queue is empty; without a
claim it traps VCLAIM 3. VYIELD ends the claim once the queue is empty, and has no effect without one; what waits for the queue leaves the wheel. -/
def Obligations.VectorClaims : Prop :=
  (∀ st s d a tid th th1 th2 tl b n w, Runs st tid th → NotEarly th [a] → Reads th a w th1 → th.claim = none →
    st.tile? tid.tile = some tl → tl.berth = some b → tl.vecs.idxOf? none = some n →
    let g := 16 * min (groupsAsked w) (st.berth b).lanes
    Puts st tid th1 d (BitVec.ofNat 32 g) th2 →
    ∃ m t c, exec (.vclaim s d a) st = .next t ∧ Completed m t tid { th2 with claim := some n } s 4 .fall ∧
      OnlyVec st m tid n (some c) ∧ c.owner = tid.thr ∧
      c.weight = (w.extractLsb' 0 4).toNat + 1 ∧ c.grq = groupsAsked w ∧ c.g = g ∧
      c.vl = min (min (w.extractLsb' 16 9).toNat 256) g ∧ c.queue = [] ∧ (∀ r i, c.slot r i = 0#32) ∧ ∀ k, k ≠ 0 → c.mask k = 0) ∧
  (∀ st s d a tid th th1 th2 tl w, Runs st tid th → NotEarly th [a] → Reads th a w th1 → th.claim = none →
    st.tile? tid.tile = some tl → tl.vecs.idxOf? none = none → Puts st tid th1 d 0#32 th2 →
    ∃ t, exec (.vclaim s d a) st = .next t ∧ Completed st t tid th2 s 4 .fall) ∧
  (∀ st s d a tid th, Runs st tid th → NotEarly th [a] → Named th a → Named th d →
    (th.claim.isSome = true → ∃ t, exec (.vclaim s d a) st = .next t ∧ TakesTrap st t tid th .vclaim 1#32 false) ∧
    (th.claim = none → ∃ t, exec (.vreneg s d a) st = .next t ∧ TakesTrap st t tid th .vclaim 3#32 false)) ∧
  (∀ st s d a tid th th1 th2 n c w, Runs st tid th → NotEarly th [a] → Reads th a w th1 → Holds st tid th n c →
    w.getLsbD 9 = true → c.queue = [] ∨ a.toNat < th.alloc → Puts st tid th1 d (BitVec.ofNat 32 c.g) th2 →
    ∃ m t, exec (.vreneg s d a) st = .next t ∧ Completed m t tid th2 s 4 .fall ∧
      OnlyVec st m tid n (some { c with vl := min (min (w.extractLsb' 16 9).toNat 256) c.g })) ∧
  (∀ st s d a tid th th1 th2 n c tl b w, Runs st tid th → NotEarly th [a] → Reads th a w th1 → Holds st tid th n c →
    st.tile? tid.tile = some tl → tl.berth = some b → w.getLsbD 9 = false → c.queue = [] →
    let g := 16 * min (groupsAsked w) (st.berth b).lanes
    Puts st tid th1 d (BitVec.ofNat 32 g) th2 →
    ∃ m t, exec (.vreneg s d a) st = .next t ∧ Completed m t tid th2 s 4 .fall ∧
      OnlyVec st m tid n (some { c with
        weight := (w.extractLsb' 0 4).toNat + 1, grq := groupsAsked w, g := g, vl := min (min (w.extractLsb' 16 9).toNat 256) g })) ∧
  (∀ st s d a tid th n c w, Runs st tid th → NotEarly th [a] → a.toNat < th.alloc → th.reg a.toNat = .ready w → Named th d →
    Holds st tid th n c → w.getLsbD 9 = false → c.queue ≠ [] →
    ∃ t, exec (.vreneg s d a) st = .next t ∧ t = { st with tiles := t.tiles } ∧
      t.thread? tid = some { th with status := .off .vecDrain st.clock } ∧ ∀ u, u ≠ tid → t.thread? u = st.thread? u) ∧
  (∀ st s tid th, Runs st tid th → th.claim = none → ∃ t, exec (.vyield s) st = .next t ∧ Completed st t tid th s 4 .fall) ∧
  (∀ st s tid th n c, Runs st tid th → Holds st tid th n c →
    (c.queue = [] → ∃ m t, exec (.vyield s) st = .next t ∧ Completed m t tid { th with claim := none } s 4 .fall ∧ OnlyVec st m tid n none) ∧
    (c.queue ≠ [] → ∃ t, exec (.vyield s) st = .next t ∧ t = { st with tiles := t.tiles } ∧
      t.thread? tid = some { th with status := .off .vecDrain st.clock } ∧ ∀ u, u ≠ tid → t.thread? u = st.thread? u))

/-- The issue of vector instructions that reach no memory, and the claims that they need (R307 to R309, R313 to R330). -/
def Obligations.VectorIssue : Prop := ClaimsComplete ∧ VectorPushes ∧ VectorScalars

/-- The issue of vector loads, stores, pops and pushes (R320 to R322). -/
def Obligations.VectorMemoryIssue : Prop := VectorStreams ∧ VectorMemory

/-- R311, R312, R316, R317, R323, R329: the instruction at the head of a claim's queue executes: an integer form gives each element of
each active slot its operation, at every width and with no flag; an FP32 form gives each active slot the result of the scalar
instruction, and ORs the flags of the active slots; VRSUM writes the sum of the active slots and V[vb][0] to slot 0; VPERMV and
the slides move slots; and the mask forms combine masks. Every other slot and mask keeps its contents. -/
def Obligations.VectorResults : Prop :=
  (∀ e ∈ lanesOps, ∀ st s d a b w k tile x c th id xs vl lanes sd pr ms cost rest, st.vec? tile x = some c →
    st.thread? ⟨tile, c.owner⟩ = some th → c.queue = ⟨cost, [⟨id, e.1 s d a b w k, xs, vl, lanes, sd, pr, ms⟩]⟩ :: rest →
    ∃ t c', exec (.vectorComplete tile x none) st = .next t ∧ Executes st t tile x th c c' rest 0 ∧ c'.k = c.k ∧
      ∀ r i, i < 256 →
        (r = d.toNat → i < vl → (c.mask k.toNat).getLsbD i = true → i < c.g → ∀ j, laneBits w * (j + 1) ≤ 32 →
          (c'.slot r i).extractLsb' (laneBits w * j) (laneBits w) =
            e.2 (laneBits w) ((c.slot a.toNat i).extractLsb' (laneBits w * j) (laneBits w))
              ((c.slot b.toNat i).extractLsb' (laneBits w * j) (laneBits w))) ∧
        (¬ (r = d.toNat ∧ i < vl ∧ (c.mask k.toNat).getLsbD i = true) → c'.slot r i = c.slot r i)) ∧
  (∀ e ∈ fltOps, ∀ st s d a b k tile x c th id xs vl lanes sd pr ms cost rest, st.vec? tile x = some c →
    st.thread? ⟨tile, c.owner⟩ = some th → c.queue = ⟨cost, [⟨id, e.1 s d a b k, xs, vl, lanes, sd, pr, ms⟩]⟩ :: rest →
    let active := fun i => i < vl ∧ i < c.g ∧ (c.mask k.toNat).getLsbD i = true
    let f := fun i => e.2 (c.slot a.toNat i) (c.slot b.toNat i) (c.slot d.toNat i)
    ∃ t c' flags, exec (.vectorComplete tile x none) st = .next t ∧ Executes st t tile x th c c' rest flags ∧ c'.k = c.k ∧
      (∀ r i, i < 256 → (r = d.toNat → active i → c'.slot r i = (f i).bits) ∧ (¬ (r = d.toNat ∧ active i) → c'.slot r i = c.slot r i)) ∧
      ∀ n, flags.getLsbD n = true ↔ ∃ i < 256, active i ∧ (f i).flags.getLsbD n = true) ∧
  (∀ st s d a b k tile x c th id xs vl lanes sd pr ms cost rest, st.vec? tile x = some c →
    st.thread? ⟨tile, c.owner⟩ = some th → c.queue = ⟨cost, [⟨id, .vrsum s d a b k, xs, vl, lanes, sd, pr, ms⟩]⟩ :: rest → 0 < c.g →
    ∃ t c', exec (.vectorComplete tile x none) st = .next t ∧ Executes st t tile x th c c' rest 0 ∧
      c'.slot d.toNat 0 = c.slot b.toNat 0 + (((List.range 256).filter fun i => decide (i < vl) && (c.mask k.toNat).getLsbD i).map
        (c.slot a.toNat)).sum ∧
      ∀ r i, i < 256 → r ≠ d.toNat ∨ i ≠ 0 → c'.slot r i = c.slot r i) ∧
  (∀ st s d a b n k tile x c th id xs vl lanes sd pr ms cost rest, st.vec? tile x = some c → st.thread? ⟨tile, c.owner⟩ = some th →
    let head := fun i : Instr => c.queue = ⟨cost, [⟨id, i, xs, vl, lanes, sd, pr, ms⟩]⟩ :: rest
    let moves := fun (src : Nat → Option Word) => ∃ t c', exec (.vectorComplete tile x none) st = .next t ∧
      Executes st t tile x th c c' rest 0 ∧ c'.k = c.k ∧ ∀ r i, i < 256 → c'.slot r i =
        if r = d.toNat ∧ i < vl ∧ i < c.g ∧ (c.mask k.toNat).getLsbD i = true then (src i).getD (c.slot r i) else c.slot r i
    (head (.vpermv s d a b k) → moves fun i => some (c.slot a.toNat ((c.slot b.toNat i).toNat % 256))) ∧
    (head (.vslup s d a n k) → moves fun i => if n.toNat ≤ i then some (c.slot a.toNat (i - n.toNat)) else none) ∧
    (head (.vsldn s d a n k) → moves fun i => some (if i + n.toNat < vl then c.slot a.toNat (i + n.toNat) else 0#32))) ∧
  (∀ st s (d a b : BitVec 3) tile x c th id xs vl lanes sd pr ms cost rest, st.vec? tile x = some c →
    st.thread? ⟨tile, c.owner⟩ = some th →
    let head := fun i : Instr => c.queue = ⟨cost, [⟨id, i, xs, vl, lanes, sd, pr, ms⟩]⟩ :: rest
    let masks := fun (v : BitVec 256) => ∃ t c', exec (.vectorComplete tile x none) st = .next t ∧
      Executes st t tile x th c c' rest 0 ∧ c'.v = c.v ∧
      ∀ n, c'.mask n = if n = 0 then BitVec.allOnes 256 else if n = d.toNat then v else c.mask n
    (head (.vkand s d a b) → masks (c.mask a.toNat &&& c.mask b.toNat)) ∧ (head (.vkor s d a b) → masks (c.mask a.toNat ||| c.mask b.toNat)) ∧
    (head (.vkxor s d a b) → masks (c.mask a.toNat ^^^ c.mask b.toNat)) ∧ (head (.vknot s d a) → masks (~~~ c.mask a.toNat)))

/-- R324: VRECVADD at the head of its claim's queue ends at once with nothing left to add, and its thread goes on behind it; with a
message of one word taken, an integer one adds that word to slot SLOT mod VL, moves SLOT on and counts LEFT down in X[n]. -/
def Obligations.ReceiveAdds : Prop :=
  ∀ st s d n tile x c th id xs vl lanes sd pr ms cost rest v, st.vec? tile x = some c → st.thread? ⟨tile, c.owner⟩ = some th →
    th.step = false → c.queue = ⟨cost, [⟨id, .vrecvadd s d n, xs, vl, lanes, sd, pr, ms⟩]⟩ :: rest → th.reg n.toNat = .ready v →
    (vl = 0 ∨ v.toNat % 65536 = 0 → ∃ m t p, exec (.vectorComplete tile x none) st = .next t ∧ m.mem = st.mem ∧
      m.vec? tile x = some { c with queue := rest } ∧ Completed m t ⟨tile, c.owner⟩ { th with status := .dealt p } s 4 .fall) ∧
    (∀ u w, ms = some w → w.words = [u] → v.getLsbD 25 = true → 0 < vl → 1 < v.toNat % 65536 → n ≠ 0 → vl ≤ c.g → vl ≤ 256 →
      let slot := v.toNat / 65536 % 256 % vl
      ∃ t c' th', exec (.vectorComplete tile x none) st = .next t ∧ t.mem = st.mem ∧ t.vec? tile x = some c' ∧
        t.thread? ⟨tile, c.owner⟩ = some th' ∧
        th'.reg n.toNat = .ready (BitVec.ofNat 32 (v.toNat / 2 ^ 24 * 2 ^ 24 + (slot + 1) % 256 * 65536 + (v.toNat % 65536 - 1))) ∧
        ∀ r i, i < 256 → c'.slot r i = if r = d.toNat ∧ i = slot then c.slot r i + u else c.slot r i)

/-- R331: a REPF with a count of 0 skips its block; one of up to 4,096 whose words decode as modified for every run, into
instructions without scalar operands or streams, enters them all in order as one item that holds an entry for each word of the
block; a greater count traps BOUNDS. The PC moves past the block in each case that completes. -/
def Obligations.RepeatBlocks : Prop :=
  ∀ st s d n x y z tid th th1 la v, Runs st tid th → st.launchOf tid.tile = some la → NotEarly th [d] → Reads th d v th1 →
    let cnt := n.toNat + 1
    let word := fun j => memRead st.mem (codeKey tid.tile.part tid.tile.slot (th.pc.toNat + 4 + 4 * j)) 4
    (v = 0 → ∃ t, exec (.repf s d n x y z) st = .next t ∧ Completed st t tid th1 s (4 + 4 * cnt) .fall) ∧
    (4096 < v.toNat → ∃ t, exec (.repf s d n x y z) st = .next t ∧ TakesTrap st t tid th .bounds v false) ∧
    (∀ q c (op : Nat → Nat → Instr), 0 < v.toNat → v.toNat ≤ 4096 → th.pc.toNat + 4 + 4 * cnt < la.kernel.codeSize →
      Claims st tid th q c → inQueue c + cnt ≤ 16 →
      (∀ r < v.toNat, ∀ j < cnt, repfDecode (word j) x.toNat y.toNat z.toNat r = .ok (op r j) ∧ vecFields (op r j) = [] ∧
        vecStream (op r j) = none ∧ vecEntryTrap (op r j) c.vl = none) →
      ∃ m t ops, exec (.repf s d n x y z) st = .next t ∧ Completed m t tid th1 s (4 + 4 * cnt) .fall ∧
        Pushes st m tid.tile q c ⟨cnt, ops⟩ ∧ ops.length = v.toNat * cnt ∧
        ∀ r < v.toNat, ∀ j < cnt, ∃ o, ops[r * cnt + j]? = some o ∧ o.instr = op r j ∧ o.xs = [] ∧ o.vl = c.vl)

/-- R336 to R339, R183: MLEASE makes its thread a lease member, and an unheld lease goes to the lowest core that asks; MLEASE.rel of a
thread whose commands have completed leaves; MACCA takes n accumulators at the lowest free base, zeroed; MCOEF writes one
coefficient and MCOEF.r reads one; the MSTAT selects write their words. -/
def Obligations.MatrixContext : Prop :=
  (∀ st s tid th tl, Runs st tid th → th.matMark = false → st.tile? tid.tile = some tl → tid.thr < 512 →
    ∃ m t tl', exec (.mlease s) st = .next t ∧ Completed m t tid { th with member := true } s 4 .fall ∧ m.mem = st.mem ∧
      m.tile? tid.tile = some tl' ∧ tl'.arr.accs = tl.arr.accs ∧
      (tl.arr.holder = none → ∃ h, tl'.arr.holder = some h ∧ h ≤ tid.thr / 64) ∧
      (∀ h, tl.arr.holder = some h → tl.hasMember h = true → tl'.arr = tl.arr)) ∧
  (∀ st s tid th, Runs st tid th → th.matMark = false →
    (th.member = false ∨ st.cmdsOf tid = [] → ∃ m t, exec (.mleaseRel s) st = .next t ∧
      Completed m t tid { th with member := false } s 4 .fall ∧ m.mem = st.mem) ∧
    (th.member = true → st.cmdsOf tid ≠ [] → ∃ t, exec (.mleaseRel s) st = .next t ∧ t.mem = st.mem ∧
      t.thread? tid = some { th with status := .off .matrix st.clock })) ∧
  (∀ st s c tid th tl, Runs st tid th → th.matMark = false → st.tile? tid.tile = some tl →
    let n := c.toNat + 1
    (th.accGroup = none → ∀ b, b + n ≤ 8 → tl.accFree b n = true → (∀ b' < b, tl.accFree b' n = false) →
      ∃ m t tl', exec (.macca s c) st = .next t ∧ Completed m t tid { th with accGroup := some (b, n) } s 4 .fall ∧ m.mem = st.mem ∧
        m.tile? tid.tile = some tl' ∧ ∀ i, tl'.arr.acc i = if b ≤ i ∧ i < b + n then List.replicate 4096 0#32 else tl.arr.acc i) ∧
    (th.accGroup = none → (∀ b, b + n ≤ 8 → tl.accFree b n = false) →
      ∃ t, exec (.macca s c) st = .next t ∧ TakesTrap st t tid th .lease 3#32 false) ∧
    (th.accGroup.isSome = true → ∃ t, exec (.macca s c) st = .next t ∧ TakesTrap st t tid th .lease 4#32 false)) ∧
  (∀ st s n x tid th th1 v, Runs st tid th → th.matMark = false → NotEarly th [x] → Reads th x v th1 →
    ∃ t new, exec (.mcoef s n x) st = .next t ∧ Completed st t tid new s 4 .fall ∧ new = { th1 with coefs := new.coefs } ∧
      ∀ i, new.coefs.getD i 0#32 = if i = n.toNat then v else th1.coefs.getD i 0#32) ∧
  (∀ st s n x tid th th1, Runs st tid th → th.matMark = false → Puts st tid th x (th.coefs.getD n.toNat 0#32) th1 →
    ∃ t, exec (.mcoefR s n x) st = .next t ∧ Completed st t tid th1 s 4 .fall) ∧
  (∀ st s x tid th, Runs st tid th → th.matMark = false →
    (∀ th1, st.cmdsOf tid = [] → Puts st tid th x 0#32 th1 →
      ∃ t, exec (.mstatWait s x) st = .next t ∧ Completed st t tid th1 s 4 .fall) ∧
    (st.cmdsOf tid ≠ [] → Named th x → ∃ t, exec (.mstatWait s x) st = .next t ∧ t.mem = st.mem ∧
      t.thread? tid = some { th with status := .off .matrix st.clock }) ∧
    (∀ th1, Puts st tid th x (match th.accGroup with | some (b, n) => BitVec.ofNat 32 (b * 16 + n) | none => 0#32) th1 →
      ∃ t, exec (.mstatGrp s x) st = .next t ∧ Completed st t tid th1 s 4 .fall) ∧
    (∀ th1 tl, st.tile? tid.tile = some tl → (tl.core (tid.thr / 64)).mcmds = [] →
      Puts st tid th x (BitVec.ofNat 32 ((tl.core (tid.thr / 64)).shadow.code * 16 + (tl.core (tid.thr / 64)).active.code)) th1 →
      ∃ t, exec (.mstatPlane s x) st = .next t ∧ Completed st t tid th1 s 4 .fall) ∧
    (∀ th1, Puts st tid th x (BitVec.ofNat 32 (st.cmdsOf tid).length) th1 →
      ∃ t, exec (.mstatCmds s x) st = .next t ∧ Completed st t tid th1 s 4 .fall)) ∧
  (∀ i ∈ [fun s => Instr.mlease s, Instr.mleaseRel, fun s => .mstatCmds s 0, fun s => .mcoef s 0 0], ∀ st s tid th,
    Runs st tid th → 0 < th.alloc → th.matMark = true →
    ∃ t, exec (i s) st = .next t ∧ t.mem = st.mem ∧ ∃ th', t.thread? tid = some th' ∧ th'.matMark = false ∧
      th'.fwTrap = some ⟨.soft, 0x20000000#32, th.pc, false, th.follow.isSome⟩ ∧ th'.status = .off .firmware st.clock)

/-- The issue of matrix commands (R342 to R354). -/
def Obligations.MatrixIssue : Prop := MatrixCommands ∧ PlaneLoads ∧ HeldCommands

/-- R349 to R351, R200 to R202: a MITER or MPOLY is accepted and blocks its thread with the PC on it. The array begins it: on a fresh
start a cap of 0 ends it with STAT 3 and X unchanged, an MPOLY of degree 0 ends with Y = COEF[0]·I and STAT 2, and a reissue on
STAT 2 ends with no other effect; when it ends the core's planes are empty and the thread goes on behind it. -/
def Obligations.Iterations : Prop :=
  (∀ e ∈ iterForms, ∀ st s d b x n tid th th1 tl base k v, Runs st tid th → TakesCommand st tid th tl →
    th.accGroup = some (base, k) → e.2.2 d b < k → NotEarly th [x] → Reads th x v th1 → e.2.1 v d b →
    ∃ t, exec (e.1 s d b x n) st = .next t ∧ Accepted st t tid tl (e.1 s d b x n) v base ∧
      t.thread? tid = some { th1 with status := .off .matrix st.clock }) ∧
  (∀ e ∈ iterForms, ∀ st s d b x n tile tl h c th, st.running tile = some (tl, h, c) → c.instr = e.1 s d b x n → c.started = none →
    c.thr / 64 = h → st.thread? ⟨tile, c.thr⟩ = some th → th.step = false →
    let form := th.mls.toNat / 2 ^ 24 % 8
    let stat := th.mls.toNat / 2 ^ 29 % 8
    let mine : Nat := match c.instr with | .miterNs3 .. => 0 | .miterNs5 .. => 1 | .miterInv .. => 2 | _ => 3
    let fresh := n = true ∨ stat = 0 ∨ form ≠ mine ∨ th.mls.toNat / 2 ^ 21 % 8 ≠ d.toNat
    let ends := fun (mls : BitVec 64) (accs : Nat → List Word) => ∃ m t tl' p, exec (.miterStepComplete tile) st = .next t ∧
      Completed m t ⟨tile, c.thr⟩ { th with mls := mls, status := .dealt p } s 4 .fall ∧ m.mem = st.mem ∧ m.tile? tile = some tl' ∧
      (∀ i, tl'.arr.acc i = accs i) ∧ (tl'.core h).active.code = 0 ∧ (tl'.core h).shadow.code = 0 ∧ ∀ o ∈ (tl'.core h).mcmds, o.id ≠ c.id
    let cleared := BitVec.ofNat 64 (mine * 2 ^ 24 + d.toNat * 2 ^ 21)
    (fresh → mine ≠ 3 → c.x.toNat % 65536 = 0 → ends (cleared + BitVec.ofNat 64 (3 * 2 ^ 29)) tl.arr.acc) ∧
    (fresh → mine = 3 → c.x.toNat % 8 = 0 → ends (cleared + BitVec.ofNat 64 (2 * 2 ^ 29)) fun i =>
      if i = c.base + d.toNat + 2 then List.replicate 4096 0#32
      else if i = c.base + d.toNat + 1 then (List.range 4096).map fun j => if j / 64 = j % 64 then th.coefs.getD 0 0#32 else 0#32
      else tl.arr.acc i) ∧
    (¬ fresh → stat = 2 → ends th.mls tl.arr.acc))

/-- R355: an MTOV of a claimant whose rows lie below 64 is both accepted by the array and pushed to the claim's queue; once the array
has delivered its rows the queue writes them to the slots of vd, whatever VL and the masks hold. -/
def Obligations.MatrixToVector : Prop :=
  (∀ st s d x tr h tid th th1 tl base n q c v, Runs st tid th → TakesCommand st tid th tl → th.accGroup = some (base, n) → d.toNat < n →
    Claims st tid th q c → inQueue c < 16 → NotEarly th [x] → Reads th x v th1 →
    let groups := v.toNat / 65536 % 4 + 1
    (v.toNat % 64 + groups ≤ 64 →
      ∃ m t tl' cmd id lanes, exec (.mtov s d x tr h) st = .next t ∧ Completed m t tid th1 s 4 .fall ∧ m.mem = st.mem ∧
        m.tile? tid.tile = some tl' ∧ tl'.arr = { tl.arr with cmds := tl.arr.cmds + 1 } ∧
        (tl'.core (tid.thr / 64)).mcmds.length = (tl.core (tid.thr / 64)).mcmds.length + 1 ∧
        (tl'.core (tid.thr / 64)).mcmds.getLast? = some cmd ∧ cmd.instr = .mtov s d x tr h ∧ cmd.x = v ∧ cmd.base = base ∧
        cmd.vop = some (q, id) ∧
        m.vec? tid.tile q = some { c with queue := c.queue ++ [⟨1, [⟨id, .mtov s d x tr h, [v], c.vl, lanes, false, 0, none⟩]⟩] } ∧
        lanes.length = groups * (if h then 32 else 64)) ∧
    (64 < v.toNat % 64 + groups → ∃ t, exec (.mtov s d x tr h) st = .next t ∧ TakesTrap st t tid th .bounds v false)) ∧
  (∀ st s d x tr h tile q c th id v vl (words : List Word) sd pr ms cost rest, st.vec? tile q = some c →
    st.thread? ⟨tile, c.owner⟩ = some th →
    c.queue = ⟨cost, [⟨id, .mtov s d x tr h, [v], vl, words.zipIdx.map (fun w => ⟨w.2, 0, none, some w.1, false⟩), sd, pr, ms⟩]⟩ :: rest →
    ∃ t c', exec (.vectorComplete tile q none) st = .next t ∧ Executes st t tile q th c c' rest 0 ∧ c'.k = c.k ∧
      ∀ r i, i < 256 → c'.slot r i = if r = v.toNat / 256 % 32 ∧ i < words.length ∧ i < c.g then words.getD i 0#32 else c.slot r i)

/-- R353, R344, R343, R188, R144, R347, R354, R179: what the array's commands do when they run. MZERO clears its accumulator after the 16
tile cycles that it occupies the array; MSWAP exchanges the planes and their records; MLOADS.fb fills the shadow plane with an accumulator's elements rounded to
BF16, transposed with .t; a feedback MMA adds to each element of its m rows the two block sums of its row and column, one after
the other, and leaves the rows beyond m; MDRAIN pushes the next element once the array is free for it. No byte of memory changes. -/
def Obligations.MatrixResults : Prop :=
  (∀ st tile tl h c th s d s0, Executing st tile tl h c th → c.instr = .mzero s d →
    (c.started = none → ∃ t tl' c', exec (.matrixCommandComplete tile) st = .next t ∧ t.tile? tile = some tl' ∧
      c' ∈ (tl'.core h).mcmds ∧ c' = { c with started := some tl.cycle } ∧ tl'.arr = tl.arr ∧ t.mem = st.mem) ∧
    (c.started = some s0 → s0 + 16 ≤ tl.cycle → ∃ t tl', exec (.matrixCommandComplete tile) st = .next t ∧ t.tile? tile = some tl' ∧
      (∀ i, tl'.arr.acc i = if i = c.base + d.toNat then List.replicate 4096 0#32 else tl.arr.acc i) ∧
      (tl'.core h).mcmds = (tl.core h).mcmds.filter (·.id ≠ c.id) ∧ tl'.arr.cyc = tl.arr.cyc + 16 ∧ t.mem = st.mem)) ∧
  (∀ st tile tl h c th s, Executing st tile tl h c th → c.instr = .mswap s →
    ∃ t tl', exec (.matrixCommandComplete tile) st = .next t ∧ t.tile? tile = some tl' ∧ tl'.arr.active = tl.arr.shadow ∧
      tl'.arr.shadow = tl.arr.active ∧ tl'.arr.accs = tl.arr.accs ∧ tl'.arr.cyc = tl.arr.cyc ∧
      (tl'.core h).active = (tl.core h).shadow ∧ (tl'.core h).shadow = (tl.core h).active ∧
      (tl'.core h).mcmds = (tl.core h).mcmds.filter (·.id ≠ c.id) ∧ t.mem = st.mem) ∧
  (∀ st tile tl h c th s b tr p, Executing st tile tl h c th → c.instr = .mloadsFb s b tr → c.src = some p →
    p.code = (if tr then 6 else 5) →
    ∃ t tl', exec (.matrixCommandComplete tile) st = .next t ∧ t.tile? tile = some tl' ∧ tl'.arr.active = tl.arr.active ∧
      tl'.arr.accs = tl.arr.accs ∧ (tl'.core h).shadow = p ∧ t.mem = st.mem ∧
      ∀ k n, k < 64 → n < 64 → (tl'.arr.shadow.cols.getD n []).getD k 0 =
        feedbackBf ((tl.arr.acc p.acc).getD (if tr then 64 * n + k else 64 * k + n) 0#32)) ∧
  (∀ st tile tl h c th s d b x z tr s0 since, Executing st tile tl h c th → c.instr = .mmaFb s d b x z tr → c.started = some s0 →
    tl.arr.ramp = .up since → th.mode ≠ .w2 → c.src = some PlaneSrc.empty → 1 ≤ c.x.toNat % 128 → c.x.toNat % 128 ≤ 64 →
    c.x.toNat % 128 ≤ c.slots since tl.cycle →
    let ad := c.base + d.toNat
    let as' := c.base + b.toNat
    let row := fun j k => feedbackBf ((tl.arr.acc as').getD (if tr then 64 * k + j else 64 * j + k) 0#32)
    let col := fun n k => (tl.arr.active.cols.getD n []).getD k 0
    let sum := fun j n i => (blockSumBf ((List.range 32).map fun k => row j (32 * i + k)) ((List.range 32).map fun k => col n (32 * i + k))).bits
    ∃ t tl' flags, exec (.matrixCommandComplete tile) st = .next t ∧ t.tile? tile = some tl' ∧ t.mem = st.mem ∧
      (∀ j n, n < 64 → (tl'.arr.acc ad).getD (64 * j + n) 0#32 =
        if j < c.x.toNat % 128 then
          (accAdd (accAdd (if z then 0#32 else (tl.arr.acc ad).getD (64 * j + n) 0#32) (sum j n 0)).bits (sum j n 1)).bits
        else (tl.arr.acc ad).getD (64 * j + n) 0#32) ∧
      (∀ i, i ≠ ad → tl'.arr.acc i = tl.arr.acc i) ∧ (tl'.core h).mcmds = (tl.core h).mcmds.filter (·.id ≠ c.id) ∧
      t.thread? ⟨tile, c.thr⟩ = some { th with fflags := th.fflags ||| flags }) ∧
  (∀ st tile tl h c th s d x m z tr bf sum s0 q target st1, Executing st tile tl h c th → c.instr = .mdrain s d x m z tr bf sum →
    c.started = some s0 → s0 + c.paid ≤ tl.cycle → c.prog < 64 * (c.x.toNat % 128) → th.stream? m.toNat = some q → q.queue.length < 16 →
    streamTarget st ⟨tile, c.thr⟩ th.priv q q.pos = .ok (target, st1) → st1 = { st with fields := st1.fields, berths := st1.berths } →
    let at' := fun a => (tl.arr.acc a).getD (if tr then 64 * (c.prog % 64) + c.prog / 64 else c.prog) 0#32
    let v := if sum then (accAdd (at' (c.base + d.toNat)) (at' (c.base + d.toNat + 1))).bits else at' (c.base + d.toNat)
    ∃ t tl' q', exec (.matrixCommandComplete tile) st = .next t ∧ t.mem = st.mem ∧ t.tile? tile = some tl' ∧ tl'.arr = tl.arr ∧
      (t.thread? ⟨tile, c.thr⟩).bind (·.stream? m.toNat) = some q' ∧ q'.pos = q.pos + 1 ∧
      q'.queue = q.queue ++ [.store (if bf then BitVec.ofNat 32 (feedbackBf v) else v) target])

/-- Planes fill and the array is shared (R178 to R206). -/
def Obligations.PlanesAndLeases : Prop := PlanesFill ∧ ArraySharing

/-- The events of threads and of the load leveller: turns, results, dispatch, arrival, kills, balancing and the release of barriers. -/
def Obligations.ThreadEvents : Prop := Turns ∧ ResultsArrive ∧ Dispatches ∧ MigrantsArrive ∧ Kills ∧ Balancing ∧ FieldReleases

/-- The traffic between tiles: sending, arrival, acknowledgements, the virtual-to-berth entries and the spillway. -/
def Obligations.Traffic : Prop := Sending ∧ AcksArrive ∧ Arrivals ∧ Entries ∧ Spillway

/-- Copies and stream bindings, and what their engines do first (R297 to R301). -/
def Obligations.CopiesAndStreams : Prop := CopiesIssue ∧ StreamBindings ∧ EnginesStart

/-- Results and engines: delivery, acknowledgements and probes, range locks, stream elements and copies. -/
def Obligations.Engines : Prop := Deliveries ∧ Completions ∧ Registrations ∧ StreamElements ∧ Copies

/-- The host's commands: queues and their dispatcher, launches, phases and jobs, cancels, admission and counter queries. -/
def Obligations.HostCommands : Prop := Queues ∧ Launches ∧ PhasesAndJobs ∧ HostCancels ∧ Admissions ∧ CounterQueries

/-- R427 to R429, R448, R493 to R495, R499, R503, R507: each register takes a write as its table gives. -/
def Obligations.RegisterWrites : Prop := QueueRegisters ∧ ModuleRegisters ∧ PartitionRegisters ∧ BerthRegisters

/-- Power: the settings in force and their causes, the budget, watchdogs, sensors and trips, the towpath, and powered segments. -/
def Obligations.Power : Prop :=
  SettingsCombine ∧ Settings ∧ Budgets ∧ Watchdogs ∧ Trips ∧ Towpath ∧ Segments

/-- The Harbourmaster: slices and summonses, saves and restores, relocation, and incremental checkpoints. -/
def Obligations.Harbourmaster : Prop := Placements ∧ SavesAndRestores ∧ Relocations ∧ ImageWrites

/-- Translation and the traps that firmware handles. -/
def Obligations.FirmwareTraps : Prop := Walks ∧ ParkedTraps ∧ CheckedPairs

/-- The links to other modules, the routers and the quay tiles. -/
def Obligations.LinksAndRouters : Prop := RemoteTraffic ∧ LinkErrors

/-- Boot, clocks and identity. -/
def Obligations.BootAndIdentity : Prop := BootStages ∧ BootEnds ∧ Offsets ∧ Identity

/-- R506 to R509: a peer's STOP flit is held for its phase; under MODE 0 the expired timer makes the next phase boundary a checkpoint
boundary; once the old record is cleared the regions are copied behind it, and then the commit record is written at the slot's start
with the next SEQ, the phase and the global time, in a slot apart from the partition's control region; a checkpoint whose barrier waits longer than 1 s, or whose slot or regions have no
place, is abandoned with CKSTAT 4. -/
def Obligations.Checkpoints : Prop :=
  (∀ st n part peer job phase, st.flits.find? (·.1 = n) = some (n, part, peer, job, phase) →
    ∃ t, exec (.stopFlitArrival n) st = .next t ∧ t.flits = st.flits.filter (·.1 ≠ n) ∧ (job, phase, peer) ∈ (t.part part).stops) ∧
  (∀ st part, let p := st.part part
    p.ckctl.getLsbD 31 = true → p.ckctl.getLsbD 30 = false → p.ckstep = .idle →
    p.cktimer + ((max 1 (p.ckctl.toNat % 2 ^ 24) : Nat) : Int) * 1000000 ≤ st.now →
    ∃ t, exec (.checkpointTimer part) st = .next t ∧ OnlyPart st t part { p with ckcount := 1 }) ∧
  (∀ st part, let p := st.part part
    p.ckstep = .clearing →
    (∀ key pages, st.slotKey part = some key → st.checkpointPages part p.ckphase.1 = some pages →
      ∃ t, exec (.checkpointSlotCleared part) st = .next t ∧ t.part part = { p with ckstep := .writing, ckcopied := pages.length } ∧
        (∀ a, a < key + 64 ∨ key + 64 + pages.length * 65536 ≤ a → memGet t.mem a = memGet st.mem a) ∧
        (∀ pa, pages = [pa] → Memory.wf st.mem = true → key / 2 ^ 96 = 3 → pa + 65536 ≤ 2 ^ 48 →
          ∀ i < 65536, memGet t.mem (key + 64 + i) = memGet st.mem (memKey 2 0 pa + i))) ∧
    (st.slotKey part = none ∨ st.checkpointPages part p.ckphase.1 = none →
      p.openPhase p.ckphase.1 = none ∨ p.openPhase p.ckphase.1 = some p.ckphase.2 →
      ∃ t, exec (.checkpointSlotCleared part) st = .next t ∧ (t.part part).ckstep = .idle ∧ (t.part part).ckstate = 4)) ∧
  (∀ st part key, let p := st.part part
    p.ckstep = .writing → MemoryOk st → st.slotKey part = some key → p.openPhase p.ckphase.1 = none →
    (∀ j ∈ p.jobs, j.2.level.offset + 64 ≤ 2 ^ 22) → (p.nextBlock + 1) * 64 ≤ 2 ^ 22 →
    key + 64 ≤ memKey 2 0 (controlBase part) ∨ memKey 2 0 (controlBase part) + 2 ^ 22 ≤ key →
    ∃ t, exec (.checkpointCommit part) st = .next t ∧ (t.part part).ckstep = .idle ∧ (t.part part).ckstate = 3 ∧
      (t.part part).ckseq = p.ckseq + 1 ∧ memRead t.mem key 4 = (p.ckseq + 1) % 2 ^ 32 ∧ memRead t.mem (key + 4) 4 = p.ckphase.2 % 2 ^ 32 ∧
      memRead t.mem (key + 8) 8 = (st.now % 2 ^ 64).toNat) ∧
  (∀ st part, let p := st.part part
    (p.ckstep = .stopping ∧ p.cktimer + 1000000000 < st.now) ∨ p.ckstep = .clearing ∨ p.ckstep = .writing →
    p.openPhase p.ckphase.1 = none ∨ p.openPhase p.ckphase.1 = some p.ckphase.2 →
    ∃ t, exec (.checkpointAbort part) st = .next t ∧ (t.part part).ckstep = .idle ∧ (t.part part).ckstate = 4) ∧
  (∀ st part, (st.part part).ckstep = .stopping → st.now ≤ (st.part part).cktimer + 1000000000 →
    exec (.checkpointAbort part) st = .next st)

/-- A step runs the decoded instruction. -/
def Obligations.StepsRunInstructions : Prop := StepsChoose ∧ TurnsRun

/-- R236 on the words of the manual's tables: each decodes to its instruction and is that instruction's encoding, and the words that
Table 8.12 gives as ILLEGAL decode to none. -/
def Obligations.SampleWordsDecode : Prop :=
  (∀ e ∈ sampleWords, decodeWord e.1 = .ok e.2 ∧ encodeWord e.2 = e.1) ∧
  ∀ w ∈ [0x00000000, 0xFFFFFFFF, 0x04000007, 0x31000018], ∃ err, decodeWord w = .error err

/-- R220, R222 to R224, R227, R236: the bytes of every well-formed encoded instruction decode to it, with every operand at every value
that its encoding admits, whatever stands behind it. -/
def Obligations.DecodeOfEncode : Prop :=
  ∀ i rest, i.wellFormed = true → i.isEvent = false → (∀ w, i ≠ .illegal w) → decodeBytes (encodeBytes i ++ rest) = .ok (i, rest)

/-- R224, R236: bytes that decode are the encoding of the one well-formed instruction that they decode to: every bit of a word is a
fixed bit or a bit of an operand, and no two words are one instruction. -/
def Obligations.EncodeOfDecode : Prop :=
  ∀ bytes i rest, decodeBytes bytes = .ok (i, rest) →
    encodeBytes i ++ rest = bytes ∧ i.wellFormed = true ∧ i.isEvent = false ∧ ∀ w, i ≠ .illegal w

/-- The memory keeps its one canonical form in every step: an instruction, a host command, an event or an input. The form is the
model's (log entry 2). -/
def Obligations.MemoryStaysCanonical : Prop := ∀ s t, MemoryOk s → step s = .next t → MemoryOk t

/-- The machine right after reset: nothing runs, memory is canonical and lists nothing, and the registers that Tables 22.4, 26.1, 26.2,
26.3 and 26.6 give a reset value, and the phase-table codes of R503, hold it. Memory that reads 0 and boot about to begin are the
model's (log entries 2, 3 and 6). -/
def Obligations.ResetState : Prop :=
  let s := State.reset
  MemoryOk s ∧ s.mem = [] ∧ s.powered = true ∧ s.tiles = [] ∧ s.launches = [] ∧ s.accesses = [] ∧ s.agenda = [] ∧ s.boot.stage = 0 ∧
  s.modRegs.modcap = 0xFF87#16 ∧ s.modRegs.ttripset = 0x0020#16 ∧ s.modRegs.itripset = 0x0021#16 ∧ s.modRegs.ttrip = 105 ∧
  s.modRegs.itrip = 960 ∧
  (∀ p, (s.part p).rank = 15 ∧ (s.part p).pfloor = 0x0024#16 ∧ (s.part p).ckctl = 0 ∧ (s.part p).capt.getD 0 0 = 0xFF87#16 ∧
    (s.part p).en = false) ∧
  (∀ q, (s.queue q).qctl = 6#32 ∧ (s.queue q).err = 0) ∧ (∀ g, s.qmap.get? g = none) ∧
  ∀ f, (s.field f).code = f ∧ (s.field f).applied = 0xFF87#16 ∧ (s.field f).counting = false

/-- No instruction, host command or event is refused in any state, and a step stops only for want of power (R484, R509). -/
def Obligations.StepsGoOn : Prop :=
  (∀ i s, ∃ t, exec i s = .next t) ∧
  ∀ s, SafeStep s ∨ (s.powered = false ∧ s.agenda = [] ∧ step s = .fault .poweredOff)

/-- R229: an IMX word with S or bits [23:22] non-zero, one that ends the code section, and one followed by another IMX or by a major
that takes no prefix trap ILLEGAL at the IMX word, with that word in TVAL; and the second word of a pair, fetched alone, is the
instruction of that word alone. -/
def Obligations.ImxWordsTrap : Prop :=
  (∀ m w next, w < 2 ^ 32 → w / 2 ^ 24 % 64 = 0x3F → w / 2 ^ 30 ≠ 0 ∨ w / 2 ^ 22 % 4 ≠ 0 → decodeAt m w next = .illegal (BitVec.ofNat 32 w)) ∧
  (∀ m w, w < 2 ^ 32 → w / 2 ^ 24 % 64 = 0x3F → decodeAt m w none = .illegal (BitVec.ofNat 32 w)) ∧
  (∀ m w next, w < 2 ^ 32 → w / 2 ^ 22 = 0xFC → decodeAt m w (some next) = .imx (BitVec.ofNat 22 w) (BitVec.ofNat 32 next)) ∧
  (∀ st (hi : BitVec 22) (w : Word) tid th, Runs st tid th →
    let op := w.toNat / 2 ^ 24 % 64
    op ∉ [0x05, 0x06, 0x07, 0x08, 0x09, 0x0A, 0x0B, 0x0C, 0x0F, 0x10, 0x11, 0x12, 0x13, 0x14, 0x15, 0x18] →
    ∃ t, exec (.imx hi w) st = .next t ∧ TakesTrap st t tid th .illegal (0x3F000000#32 ||| hi.setWidth 32) false ∧
      FailsLaunch st t tid th .illegal (0x3F000000#32 ||| hi.setWidth 32)) ∧
  (∀ st w tid th, Runs st tid th →
    ∃ t, exec (.illegal w) st = .next t ∧ TakesTrap st t tid th .illegal w false ∧ FailsLaunch st t tid th .illegal w) ∧
  (∀ st tid th la, st.launchOf tid.tile = some la → th.pc.toNat % 4 = 0 → th.pc.toNat + 8 ≤ la.kernel.codeSize →
    fetch st tid th = .ok (decodeAt th.mode (memRead st.mem (codeKey tid.tile.part tid.tile.slot th.pc.toNat) 4)
      (some (memRead st.mem (codeKey tid.tile.part tid.tile.slot (th.pc.toNat + 4)) 4))))

/-- R266: JAL in the J format sets x2 to the address of the next word and goes to addr + 4 × off24, sign-extended; it reads no register,
blocks on nothing and traps nothing. -/
def Obligations.JalLinks : Prop :=
  (∀ s o, encodeWord (.jal s o) = s.toNat * 2 ^ 30 + 0x17 * 2 ^ 24 + o.toNat ∧ decodeWord (encodeWord (.jal s o)) = .ok (.jal s o)) ∧
  ∀ st s o tid th, Runs st tid th → ∃ t, exec (.jal s o) st = .next t ∧
    Completed st t tid (th.setX 2 (th.pc + 4)) s 4 (.jump (th.pc + BitVec.ofInt 32 (4 * o.toInt)))

/-- R267: JALR in the RRI format goes to t AND 0xFFFF_FFFC, where t is W(A + I), with I its sign-extended i10 or the value of an IMX pair, and
links behind itself, or behind the pair; t is formed before d is written, so that d may be a; with d = x0 it links nothing; and it
waits for a pending a. -/
def Obligations.JalrLinks : Prop :=
  (∀ s d a i, encodeWord (.jalr s d a i) = s.toNat * 2 ^ 30 + 0x18 * 2 ^ 24 + d.toNat * 2 ^ 17 + a.toNat * 2 ^ 10 + i.toNat ∧
    decodeWord (encodeWord (.jalr s d a i)) = .ok (.jalr s d a i)) ∧
  (∀ st s d a i tid th th1 th2 x, Runs st tid th → NotEarly th [a] → Reads th a x th1 → Puts st tid th1 d (th.pc + 4) th2 →
    ∃ t, exec (.jalr s d a i) st = .next t ∧
      Completed st t tid th2 s 4 (.jump (BitVec.ofInt 32 (x.toNat + i.toInt) &&& 0xFFFFFFFC))) ∧
  (∀ st hi s d a lo tid th th1 th2 x, Runs st tid th → NotEarly th [a] → Reads th a x th1 → Puts st tid th1 d (th.pc + 8) th2 →
    ∃ t, exec (.imx hi (BitVec.ofNat 32 (encodeWord (.jalr s d a lo)))) st = .next t ∧
      Completed st t tid th2 s 8 (.jump ((x + pairImm hi lo) &&& 0xFFFFFFFC))) ∧
  (∀ st s a i tid th x, Runs st tid th → NotEarly th [a] → a.toNat < th.alloc → th.reg a.toNat = .ready x →
    ∃ t, exec (.jalr s 0 a i) st = .next t ∧ Completed st t tid th s 4 (.jump ((x + i.signExtend 32) &&& 0xFFFFFFFC))) ∧
  (∀ st s d a i tid th e w k, Runs st tid th → NotEarly th [a] → a.toNat < th.alloc → Named th d → th.reg a.toNat = .pending e w k false →
    ∃ t, exec (.jalr s d a i) st = .next t ∧ t = { st with tiles := t.tiles } ∧
      t.thread? tid = some { th with status := .off (.reg a.toNat) st.clock } ∧ ∀ u, u ≠ tid → t.thread? u = st.thread? u)
end

