-- ==== Sys2Proof/Laws/Maps.lean ====
section
/-! SUPPORT. The laws of finite maps and of padded lists. -/

namespace Sys2Proof.Machine

section maps
variable {κ ν : Type} [DecidableEq κ]

theorem AMap.get?_set_same (m : AMap κ ν) (a : κ) (v : ν) : (m.set a v).get? a = some v := by
  induction m with
  | nil => simp [AMap.set, AMap.get?]
  | cons e m ih => obtain ⟨k, w⟩ := e; by_cases h : k = a <;> simp [AMap.set, AMap.get?, h, ih]

theorem AMap.get?_set_other (m : AMap κ ν) {a b : κ} (v : ν) (h : b ≠ a) : (m.set a v).get? b = m.get? b := by
  induction m with
  | nil => simp [AMap.set, AMap.get?, Ne.symm h]
  | cons e m ih =>
    obtain ⟨k, w⟩ := e
    by_cases h1 : k = a
    · subst h1; simp [AMap.set, AMap.get?, Ne.symm h]
    · by_cases h2 : k = b
      · subst h2; simp [AMap.set, AMap.get?, h]
      · simp [AMap.set, AMap.get?, h1, h2, ih]

theorem AMap.get?_update_same (m : AMap κ ν) (a : κ) (f : ν → ν) : (m.update a f).get? a = (m.get? a).map f := by
  unfold AMap.update
  split
  · rename_i v h; simp [h, AMap.get?_set_same]
  · rename_i h; simp [h]

theorem AMap.get?_update_other (m : AMap κ ν) {a b : κ} (f : ν → ν) (h : b ≠ a) : (m.update a f).get? b = m.get? b := by
  unfold AMap.update
  split
  · exact AMap.get?_set_other m _ h
  · rfl

/-- Every value of a map after setting a key is an old one or the new one. -/
theorem AMap.mem_set {m : AMap κ ν} {a : κ} {v : ν} {e : κ × ν} (h : e ∈ m.set a v) : e ∈ m ∨ e.2 = v := by
  induction m with
  | nil => simp [AMap.set] at h; exact .inr (by rw [h])
  | cons x m ih =>
    obtain ⟨k, w⟩ := x
    unfold AMap.set at h
    split at h
    · rcases List.mem_cons.1 h with h | h
      · exact .inr (by rw [h])
      · exact .inl (List.mem_cons_of_mem _ h)
    · rcases List.mem_cons.1 h with h | h
      · exact .inl (h ▸ List.mem_cons_self)
      · exact (ih h).imp (List.mem_cons_of_mem _) id

theorem AMap.mem_of_get? {m : AMap κ ν} {a : κ} {v : ν} (h : m.get? a = some v) : (a, v) ∈ m := by
  induction m with
  | nil => simp [AMap.get?] at h
  | cons x m ih =>
    obtain ⟨k, w⟩ := x
    unfold AMap.get? at h
    split at h
    · rename_i hk; cases h; exact hk ▸ List.mem_cons_self
    · exact List.mem_cons_of_mem _ (ih h)

end maps

section lists
variable {α : Type}

theorem getD_updPad_same (z : α) (l : List α) (n : Nat) (f : α → α) : (updPad z l n f).getD n z = f (l.getD n z) := by
  induction n generalizing l with
  | zero => cases l <;> simp [updPad]
  | succ n ih => cases l with
    | nil => simpa [updPad] using ih []
    | cons x xs => simpa [updPad] using ih xs

theorem getD_updPad_other (z : α) (l : List α) {n m : Nat} (f : α → α) (h : m ≠ n) : (updPad z l n f).getD m z = l.getD m z := by
  induction n generalizing l m with
  | zero => cases m with
    | zero => exact absurd rfl h
    | succ m => cases l <;> simp [updPad]
  | succ n ih => cases m with
    | zero => cases l <;> simp [updPad]
    | succ m => cases l with
      | nil => simpa [updPad] using ih [] (by omega : m ≠ n)
      | cons x xs => simpa [updPad] using ih xs (by omega : m ≠ n)

theorem getD_setPad_same (z : α) (l : List α) (n : Nat) (v : α) : (setPad z l n v).getD n z = v := getD_updPad_same z l n _

theorem getD_setPad_other (z : α) (l : List α) {n m : Nat} (v : α) (h : m ≠ n) : (setPad z l n v).getD m z = l.getD m z :=
  getD_updPad_other z l _ h

end lists

end Sys2Proof.Machine
end

