-- ==== Sys2Proof/Laws/State.lean ====
section
/-! SUPPORT. What the named updates of the state leave in each field: one lemma for a field and an update, true by rfl. -/

namespace Sys2Proof.Machine

/-! ## modTile -/

@[simp] theorem State.modTile_powered (st : State) (t : TileId) (f : Tile → Tile) : (st.modTile t f).powered = st.powered := rfl
@[simp] theorem State.modTile_clock (st : State) (t : TileId) (f : Tile → Tile) : (st.modTile t f).clock = st.clock := rfl
@[simp] theorem State.modTile_nextId (st : State) (t : TileId) (f : Tile → Tile) : (st.modTile t f).nextId = st.nextId := rfl
@[simp] theorem State.modTile_agenda (st : State) (t : TileId) (f : Tile → Tile) : (st.modTile t f).agenda = st.agenda := rfl
@[simp] theorem State.modTile_taken (st : State) (t : TileId) (f : Tile → Tile) : (st.modTile t f).taken = st.taken := rfl
@[simp] theorem State.modTile_cur (st : State) (t : TileId) (f : Tile → Tile) : (st.modTile t f).cur = st.cur := rfl
@[simp] theorem State.modTile_held (st : State) (t : TileId) (f : Tile → Tile) : (st.modTile t f).held = st.held := rfl
@[simp] theorem State.modTile_mem (st : State) (t : TileId) (f : Tile → Tile) : (st.modTile t f).mem = st.mem := rfl
@[simp] theorem State.modTile_accesses (st : State) (t : TileId) (f : Tile → Tile) : (st.modTile t f).accesses = st.accesses := rfl
@[simp] theorem State.modTile_launches (st : State) (t : TileId) (f : Tile → Tile) : (st.modTile t f).launches = st.launches := rfl
@[simp] theorem State.modTile_items (st : State) (t : TileId) (f : Tile → Tile) : (st.modTile t f).items = st.items := rfl
@[simp] theorem State.modTile_acks (st : State) (t : TileId) (f : Tile → Tile) : (st.modTile t f).acks = st.acks := rfl
@[simp] theorem State.modTile_itemAcks (st : State) (t : TileId) (f : Tile → Tile) : (st.modTile t f).itemAcks = st.itemAcks := rfl
@[simp] theorem State.modTile_now (st : State) (t : TileId) (f : Tile → Tile) : (st.modTile t f).now = st.now := rfl
@[simp] theorem State.modTile_berths (st : State) (t : TileId) (f : Tile → Tile) : (st.modTile t f).berths = st.berths := rfl
@[simp] theorem State.modTile_fields (st : State) (t : TileId) (f : Tile → Tile) : (st.modTile t f).fields = st.fields := rfl
@[simp] theorem State.modTile_parts (st : State) (t : TileId) (f : Tile → Tile) : (st.modTile t f).parts = st.parts := rfl
@[simp] theorem State.modTile_queues (st : State) (t : TileId) (f : Tile → Tile) : (st.modTile t f).queues = st.queues := rfl
@[simp] theorem State.modTile_roots (st : State) (t : TileId) (f : Tile → Tile) : (st.modTile t f).roots = st.roots := rfl
@[simp] theorem State.modTile_backing (st : State) (t : TileId) (f : Tile → Tile) : (st.modTile t f).backing = st.backing := rfl
@[simp] theorem State.modTile_granules (st : State) (t : TileId) (f : Tile → Tile) : (st.modTile t f).granules = st.granules := rfl
@[simp] theorem State.modTile_modRegs (st : State) (t : TileId) (f : Tile → Tile) : (st.modTile t f).modRegs = st.modRegs := rfl
@[simp] theorem State.modTile_boot (st : State) (t : TileId) (f : Tile → Tile) : (st.modTile t f).boot = st.boot := rfl
@[simp] theorem State.modTile_defects (st : State) (t : TileId) (f : Tile → Tile) : (st.modTile t f).defects = st.defects := rfl
@[simp] theorem State.modTile_links (st : State) (t : TileId) (f : Tile → Tile) : (st.modTile t f).links = st.links := rfl
@[simp] theorem State.modTile_numVfs (st : State) (t : TileId) (f : Tile → Tile) : (st.modTile t f).numVfs = st.numVfs := rfl
@[simp] theorem State.modTile_seqOut (st : State) (t : TileId) (f : Tile → Tile) : (st.modTile t f).seqOut = st.seqOut := rfl
@[simp] theorem State.modTile_ticked (st : State) (t : TileId) (f : Tile → Tile) : (st.modTile t f).ticked = st.ticked := rfl
@[simp] theorem State.modTile_lastSource (st : State) (t : TileId) (f : Tile → Tile) : (st.modTile t f).lastSource = st.lastSource := rfl
@[simp] theorem State.modTile_lastNow (st : State) (t : TileId) (f : Tile → Tile) : (st.modTile t f).lastNow = st.lastNow := rfl
@[simp] theorem State.modTile_presented (st : State) (t : TileId) (f : Tile → Tile) : (st.modTile t f).presented = st.presented := rfl
@[simp] theorem State.modTile_errors (st : State) (t : TileId) (f : Tile → Tile) : (st.modTile t f).errors = st.errors := rfl
@[simp] theorem State.modTile_remotes (st : State) (t : TileId) (f : Tile → Tile) : (st.modTile t f).remotes = st.remotes := rfl

/-! ## modThread -/

@[simp] theorem State.modThread_powered (st : State) (t : ThreadId) (f : Thread → Thread) : (st.modThread t f).powered = st.powered := rfl
@[simp] theorem State.modThread_clock (st : State) (t : ThreadId) (f : Thread → Thread) : (st.modThread t f).clock = st.clock := rfl
@[simp] theorem State.modThread_nextId (st : State) (t : ThreadId) (f : Thread → Thread) : (st.modThread t f).nextId = st.nextId := rfl
@[simp] theorem State.modThread_agenda (st : State) (t : ThreadId) (f : Thread → Thread) : (st.modThread t f).agenda = st.agenda := rfl
@[simp] theorem State.modThread_taken (st : State) (t : ThreadId) (f : Thread → Thread) : (st.modThread t f).taken = st.taken := rfl
@[simp] theorem State.modThread_cur (st : State) (t : ThreadId) (f : Thread → Thread) : (st.modThread t f).cur = st.cur := rfl
@[simp] theorem State.modThread_held (st : State) (t : ThreadId) (f : Thread → Thread) : (st.modThread t f).held = st.held := rfl
@[simp] theorem State.modThread_mem (st : State) (t : ThreadId) (f : Thread → Thread) : (st.modThread t f).mem = st.mem := rfl
@[simp] theorem State.modThread_accesses (st : State) (t : ThreadId) (f : Thread → Thread) : (st.modThread t f).accesses = st.accesses := rfl
@[simp] theorem State.modThread_launches (st : State) (t : ThreadId) (f : Thread → Thread) : (st.modThread t f).launches = st.launches := rfl
@[simp] theorem State.modThread_items (st : State) (t : ThreadId) (f : Thread → Thread) : (st.modThread t f).items = st.items := rfl
@[simp] theorem State.modThread_acks (st : State) (t : ThreadId) (f : Thread → Thread) : (st.modThread t f).acks = st.acks := rfl
@[simp] theorem State.modThread_itemAcks (st : State) (t : ThreadId) (f : Thread → Thread) : (st.modThread t f).itemAcks = st.itemAcks := rfl
@[simp] theorem State.modThread_now (st : State) (t : ThreadId) (f : Thread → Thread) : (st.modThread t f).now = st.now := rfl
@[simp] theorem State.modThread_berths (st : State) (t : ThreadId) (f : Thread → Thread) : (st.modThread t f).berths = st.berths := rfl
@[simp] theorem State.modThread_fields (st : State) (t : ThreadId) (f : Thread → Thread) : (st.modThread t f).fields = st.fields := rfl
@[simp] theorem State.modThread_parts (st : State) (t : ThreadId) (f : Thread → Thread) : (st.modThread t f).parts = st.parts := rfl
@[simp] theorem State.modThread_queues (st : State) (t : ThreadId) (f : Thread → Thread) : (st.modThread t f).queues = st.queues := rfl
@[simp] theorem State.modThread_roots (st : State) (t : ThreadId) (f : Thread → Thread) : (st.modThread t f).roots = st.roots := rfl
@[simp] theorem State.modThread_backing (st : State) (t : ThreadId) (f : Thread → Thread) : (st.modThread t f).backing = st.backing := rfl
@[simp] theorem State.modThread_granules (st : State) (t : ThreadId) (f : Thread → Thread) : (st.modThread t f).granules = st.granules := rfl
@[simp] theorem State.modThread_modRegs (st : State) (t : ThreadId) (f : Thread → Thread) : (st.modThread t f).modRegs = st.modRegs := rfl
@[simp] theorem State.modThread_boot (st : State) (t : ThreadId) (f : Thread → Thread) : (st.modThread t f).boot = st.boot := rfl
@[simp] theorem State.modThread_defects (st : State) (t : ThreadId) (f : Thread → Thread) : (st.modThread t f).defects = st.defects := rfl
@[simp] theorem State.modThread_links (st : State) (t : ThreadId) (f : Thread → Thread) : (st.modThread t f).links = st.links := rfl
@[simp] theorem State.modThread_numVfs (st : State) (t : ThreadId) (f : Thread → Thread) : (st.modThread t f).numVfs = st.numVfs := rfl
@[simp] theorem State.modThread_seqOut (st : State) (t : ThreadId) (f : Thread → Thread) : (st.modThread t f).seqOut = st.seqOut := rfl
@[simp] theorem State.modThread_ticked (st : State) (t : ThreadId) (f : Thread → Thread) : (st.modThread t f).ticked = st.ticked := rfl
@[simp] theorem State.modThread_lastSource (st : State) (t : ThreadId) (f : Thread → Thread) : (st.modThread t f).lastSource = st.lastSource := rfl
@[simp] theorem State.modThread_lastNow (st : State) (t : ThreadId) (f : Thread → Thread) : (st.modThread t f).lastNow = st.lastNow := rfl
@[simp] theorem State.modThread_presented (st : State) (t : ThreadId) (f : Thread → Thread) : (st.modThread t f).presented = st.presented := rfl
@[simp] theorem State.modThread_errors (st : State) (t : ThreadId) (f : Thread → Thread) : (st.modThread t f).errors = st.errors := rfl
@[simp] theorem State.modThread_remotes (st : State) (t : ThreadId) (f : Thread → Thread) : (st.modThread t f).remotes = st.remotes := rfl

/-! ## setThread -/

@[simp] theorem State.setThread_powered (st : State) (t : ThreadId) (th : Thread) : (st.setThread t th).powered = st.powered := rfl
@[simp] theorem State.setThread_clock (st : State) (t : ThreadId) (th : Thread) : (st.setThread t th).clock = st.clock := rfl
@[simp] theorem State.setThread_nextId (st : State) (t : ThreadId) (th : Thread) : (st.setThread t th).nextId = st.nextId := rfl
@[simp] theorem State.setThread_agenda (st : State) (t : ThreadId) (th : Thread) : (st.setThread t th).agenda = st.agenda := rfl
@[simp] theorem State.setThread_taken (st : State) (t : ThreadId) (th : Thread) : (st.setThread t th).taken = st.taken := rfl
@[simp] theorem State.setThread_cur (st : State) (t : ThreadId) (th : Thread) : (st.setThread t th).cur = st.cur := rfl
@[simp] theorem State.setThread_held (st : State) (t : ThreadId) (th : Thread) : (st.setThread t th).held = st.held := rfl
@[simp] theorem State.setThread_mem (st : State) (t : ThreadId) (th : Thread) : (st.setThread t th).mem = st.mem := rfl
@[simp] theorem State.setThread_accesses (st : State) (t : ThreadId) (th : Thread) : (st.setThread t th).accesses = st.accesses := rfl
@[simp] theorem State.setThread_launches (st : State) (t : ThreadId) (th : Thread) : (st.setThread t th).launches = st.launches := rfl
@[simp] theorem State.setThread_items (st : State) (t : ThreadId) (th : Thread) : (st.setThread t th).items = st.items := rfl
@[simp] theorem State.setThread_acks (st : State) (t : ThreadId) (th : Thread) : (st.setThread t th).acks = st.acks := rfl
@[simp] theorem State.setThread_itemAcks (st : State) (t : ThreadId) (th : Thread) : (st.setThread t th).itemAcks = st.itemAcks := rfl
@[simp] theorem State.setThread_now (st : State) (t : ThreadId) (th : Thread) : (st.setThread t th).now = st.now := rfl
@[simp] theorem State.setThread_berths (st : State) (t : ThreadId) (th : Thread) : (st.setThread t th).berths = st.berths := rfl
@[simp] theorem State.setThread_fields (st : State) (t : ThreadId) (th : Thread) : (st.setThread t th).fields = st.fields := rfl
@[simp] theorem State.setThread_parts (st : State) (t : ThreadId) (th : Thread) : (st.setThread t th).parts = st.parts := rfl
@[simp] theorem State.setThread_queues (st : State) (t : ThreadId) (th : Thread) : (st.setThread t th).queues = st.queues := rfl
@[simp] theorem State.setThread_roots (st : State) (t : ThreadId) (th : Thread) : (st.setThread t th).roots = st.roots := rfl
@[simp] theorem State.setThread_backing (st : State) (t : ThreadId) (th : Thread) : (st.setThread t th).backing = st.backing := rfl
@[simp] theorem State.setThread_granules (st : State) (t : ThreadId) (th : Thread) : (st.setThread t th).granules = st.granules := rfl
@[simp] theorem State.setThread_modRegs (st : State) (t : ThreadId) (th : Thread) : (st.setThread t th).modRegs = st.modRegs := rfl
@[simp] theorem State.setThread_boot (st : State) (t : ThreadId) (th : Thread) : (st.setThread t th).boot = st.boot := rfl
@[simp] theorem State.setThread_defects (st : State) (t : ThreadId) (th : Thread) : (st.setThread t th).defects = st.defects := rfl
@[simp] theorem State.setThread_links (st : State) (t : ThreadId) (th : Thread) : (st.setThread t th).links = st.links := rfl
@[simp] theorem State.setThread_numVfs (st : State) (t : ThreadId) (th : Thread) : (st.setThread t th).numVfs = st.numVfs := rfl
@[simp] theorem State.setThread_seqOut (st : State) (t : ThreadId) (th : Thread) : (st.setThread t th).seqOut = st.seqOut := rfl
@[simp] theorem State.setThread_ticked (st : State) (t : ThreadId) (th : Thread) : (st.setThread t th).ticked = st.ticked := rfl
@[simp] theorem State.setThread_lastSource (st : State) (t : ThreadId) (th : Thread) : (st.setThread t th).lastSource = st.lastSource := rfl
@[simp] theorem State.setThread_lastNow (st : State) (t : ThreadId) (th : Thread) : (st.setThread t th).lastNow = st.lastNow := rfl
@[simp] theorem State.setThread_presented (st : State) (t : ThreadId) (th : Thread) : (st.setThread t th).presented = st.presented := rfl
@[simp] theorem State.setThread_errors (st : State) (t : ThreadId) (th : Thread) : (st.setThread t th).errors = st.errors := rfl
@[simp] theorem State.setThread_remotes (st : State) (t : ThreadId) (th : Thread) : (st.setThread t th).remotes = st.remotes := rfl

/-! ## modCore -/

@[simp] theorem State.modCore_powered (st : State) (t : TileId) (c : Nat) (f : Core → Core) : (st.modCore t c f).powered = st.powered := rfl
@[simp] theorem State.modCore_clock (st : State) (t : TileId) (c : Nat) (f : Core → Core) : (st.modCore t c f).clock = st.clock := rfl
@[simp] theorem State.modCore_nextId (st : State) (t : TileId) (c : Nat) (f : Core → Core) : (st.modCore t c f).nextId = st.nextId := rfl
@[simp] theorem State.modCore_agenda (st : State) (t : TileId) (c : Nat) (f : Core → Core) : (st.modCore t c f).agenda = st.agenda := rfl
@[simp] theorem State.modCore_taken (st : State) (t : TileId) (c : Nat) (f : Core → Core) : (st.modCore t c f).taken = st.taken := rfl
@[simp] theorem State.modCore_cur (st : State) (t : TileId) (c : Nat) (f : Core → Core) : (st.modCore t c f).cur = st.cur := rfl
@[simp] theorem State.modCore_held (st : State) (t : TileId) (c : Nat) (f : Core → Core) : (st.modCore t c f).held = st.held := rfl
@[simp] theorem State.modCore_mem (st : State) (t : TileId) (c : Nat) (f : Core → Core) : (st.modCore t c f).mem = st.mem := rfl
@[simp] theorem State.modCore_accesses (st : State) (t : TileId) (c : Nat) (f : Core → Core) : (st.modCore t c f).accesses = st.accesses := rfl
@[simp] theorem State.modCore_launches (st : State) (t : TileId) (c : Nat) (f : Core → Core) : (st.modCore t c f).launches = st.launches := rfl
@[simp] theorem State.modCore_items (st : State) (t : TileId) (c : Nat) (f : Core → Core) : (st.modCore t c f).items = st.items := rfl
@[simp] theorem State.modCore_acks (st : State) (t : TileId) (c : Nat) (f : Core → Core) : (st.modCore t c f).acks = st.acks := rfl
@[simp] theorem State.modCore_itemAcks (st : State) (t : TileId) (c : Nat) (f : Core → Core) : (st.modCore t c f).itemAcks = st.itemAcks := rfl
@[simp] theorem State.modCore_now (st : State) (t : TileId) (c : Nat) (f : Core → Core) : (st.modCore t c f).now = st.now := rfl
@[simp] theorem State.modCore_berths (st : State) (t : TileId) (c : Nat) (f : Core → Core) : (st.modCore t c f).berths = st.berths := rfl
@[simp] theorem State.modCore_fields (st : State) (t : TileId) (c : Nat) (f : Core → Core) : (st.modCore t c f).fields = st.fields := rfl
@[simp] theorem State.modCore_parts (st : State) (t : TileId) (c : Nat) (f : Core → Core) : (st.modCore t c f).parts = st.parts := rfl
@[simp] theorem State.modCore_queues (st : State) (t : TileId) (c : Nat) (f : Core → Core) : (st.modCore t c f).queues = st.queues := rfl
@[simp] theorem State.modCore_roots (st : State) (t : TileId) (c : Nat) (f : Core → Core) : (st.modCore t c f).roots = st.roots := rfl
@[simp] theorem State.modCore_backing (st : State) (t : TileId) (c : Nat) (f : Core → Core) : (st.modCore t c f).backing = st.backing := rfl
@[simp] theorem State.modCore_granules (st : State) (t : TileId) (c : Nat) (f : Core → Core) : (st.modCore t c f).granules = st.granules := rfl
@[simp] theorem State.modCore_modRegs (st : State) (t : TileId) (c : Nat) (f : Core → Core) : (st.modCore t c f).modRegs = st.modRegs := rfl
@[simp] theorem State.modCore_boot (st : State) (t : TileId) (c : Nat) (f : Core → Core) : (st.modCore t c f).boot = st.boot := rfl
@[simp] theorem State.modCore_defects (st : State) (t : TileId) (c : Nat) (f : Core → Core) : (st.modCore t c f).defects = st.defects := rfl
@[simp] theorem State.modCore_links (st : State) (t : TileId) (c : Nat) (f : Core → Core) : (st.modCore t c f).links = st.links := rfl
@[simp] theorem State.modCore_numVfs (st : State) (t : TileId) (c : Nat) (f : Core → Core) : (st.modCore t c f).numVfs = st.numVfs := rfl
@[simp] theorem State.modCore_seqOut (st : State) (t : TileId) (c : Nat) (f : Core → Core) : (st.modCore t c f).seqOut = st.seqOut := rfl
@[simp] theorem State.modCore_ticked (st : State) (t : TileId) (c : Nat) (f : Core → Core) : (st.modCore t c f).ticked = st.ticked := rfl
@[simp] theorem State.modCore_lastSource (st : State) (t : TileId) (c : Nat) (f : Core → Core) : (st.modCore t c f).lastSource = st.lastSource := rfl
@[simp] theorem State.modCore_lastNow (st : State) (t : TileId) (c : Nat) (f : Core → Core) : (st.modCore t c f).lastNow = st.lastNow := rfl
@[simp] theorem State.modCore_presented (st : State) (t : TileId) (c : Nat) (f : Core → Core) : (st.modCore t c f).presented = st.presented := rfl
@[simp] theorem State.modCore_errors (st : State) (t : TileId) (c : Nat) (f : Core → Core) : (st.modCore t c f).errors = st.errors := rfl
@[simp] theorem State.modCore_remotes (st : State) (t : TileId) (c : Nat) (f : Core → Core) : (st.modCore t c f).remotes = st.remotes := rfl

/-! ## modLaunch -/

@[simp] theorem State.modLaunch_powered (st : State) (p n : Nat) (f : Launch → Launch) : (st.modLaunch p n f).powered = st.powered := rfl
@[simp] theorem State.modLaunch_clock (st : State) (p n : Nat) (f : Launch → Launch) : (st.modLaunch p n f).clock = st.clock := rfl
@[simp] theorem State.modLaunch_nextId (st : State) (p n : Nat) (f : Launch → Launch) : (st.modLaunch p n f).nextId = st.nextId := rfl
@[simp] theorem State.modLaunch_agenda (st : State) (p n : Nat) (f : Launch → Launch) : (st.modLaunch p n f).agenda = st.agenda := rfl
@[simp] theorem State.modLaunch_taken (st : State) (p n : Nat) (f : Launch → Launch) : (st.modLaunch p n f).taken = st.taken := rfl
@[simp] theorem State.modLaunch_cur (st : State) (p n : Nat) (f : Launch → Launch) : (st.modLaunch p n f).cur = st.cur := rfl
@[simp] theorem State.modLaunch_held (st : State) (p n : Nat) (f : Launch → Launch) : (st.modLaunch p n f).held = st.held := rfl
@[simp] theorem State.modLaunch_mem (st : State) (p n : Nat) (f : Launch → Launch) : (st.modLaunch p n f).mem = st.mem := rfl
@[simp] theorem State.modLaunch_accesses (st : State) (p n : Nat) (f : Launch → Launch) : (st.modLaunch p n f).accesses = st.accesses := rfl
@[simp] theorem State.modLaunch_items (st : State) (p n : Nat) (f : Launch → Launch) : (st.modLaunch p n f).items = st.items := rfl
@[simp] theorem State.modLaunch_acks (st : State) (p n : Nat) (f : Launch → Launch) : (st.modLaunch p n f).acks = st.acks := rfl
@[simp] theorem State.modLaunch_itemAcks (st : State) (p n : Nat) (f : Launch → Launch) : (st.modLaunch p n f).itemAcks = st.itemAcks := rfl
@[simp] theorem State.modLaunch_now (st : State) (p n : Nat) (f : Launch → Launch) : (st.modLaunch p n f).now = st.now := rfl
@[simp] theorem State.modLaunch_berths (st : State) (p n : Nat) (f : Launch → Launch) : (st.modLaunch p n f).berths = st.berths := rfl
@[simp] theorem State.modLaunch_fields (st : State) (p n : Nat) (f : Launch → Launch) : (st.modLaunch p n f).fields = st.fields := rfl
@[simp] theorem State.modLaunch_parts (st : State) (p n : Nat) (f : Launch → Launch) : (st.modLaunch p n f).parts = st.parts := rfl
@[simp] theorem State.modLaunch_queues (st : State) (p n : Nat) (f : Launch → Launch) : (st.modLaunch p n f).queues = st.queues := rfl
@[simp] theorem State.modLaunch_roots (st : State) (p n : Nat) (f : Launch → Launch) : (st.modLaunch p n f).roots = st.roots := rfl
@[simp] theorem State.modLaunch_backing (st : State) (p n : Nat) (f : Launch → Launch) : (st.modLaunch p n f).backing = st.backing := rfl
@[simp] theorem State.modLaunch_granules (st : State) (p n : Nat) (f : Launch → Launch) : (st.modLaunch p n f).granules = st.granules := rfl
@[simp] theorem State.modLaunch_modRegs (st : State) (p n : Nat) (f : Launch → Launch) : (st.modLaunch p n f).modRegs = st.modRegs := rfl
@[simp] theorem State.modLaunch_boot (st : State) (p n : Nat) (f : Launch → Launch) : (st.modLaunch p n f).boot = st.boot := rfl
@[simp] theorem State.modLaunch_defects (st : State) (p n : Nat) (f : Launch → Launch) : (st.modLaunch p n f).defects = st.defects := rfl
@[simp] theorem State.modLaunch_links (st : State) (p n : Nat) (f : Launch → Launch) : (st.modLaunch p n f).links = st.links := rfl
@[simp] theorem State.modLaunch_numVfs (st : State) (p n : Nat) (f : Launch → Launch) : (st.modLaunch p n f).numVfs = st.numVfs := rfl
@[simp] theorem State.modLaunch_seqOut (st : State) (p n : Nat) (f : Launch → Launch) : (st.modLaunch p n f).seqOut = st.seqOut := rfl
@[simp] theorem State.modLaunch_ticked (st : State) (p n : Nat) (f : Launch → Launch) : (st.modLaunch p n f).ticked = st.ticked := rfl
@[simp] theorem State.modLaunch_lastSource (st : State) (p n : Nat) (f : Launch → Launch) : (st.modLaunch p n f).lastSource = st.lastSource := rfl
@[simp] theorem State.modLaunch_lastNow (st : State) (p n : Nat) (f : Launch → Launch) : (st.modLaunch p n f).lastNow = st.lastNow := rfl
@[simp] theorem State.modLaunch_presented (st : State) (p n : Nat) (f : Launch → Launch) : (st.modLaunch p n f).presented = st.presented := rfl
@[simp] theorem State.modLaunch_errors (st : State) (p n : Nat) (f : Launch → Launch) : (st.modLaunch p n f).errors = st.errors := rfl
@[simp] theorem State.modLaunch_remotes (st : State) (p n : Nat) (f : Launch → Launch) : (st.modLaunch p n f).remotes = st.remotes := rfl
@[simp] theorem State.modLaunch_tiles (st : State) (p n : Nat) (f : Launch → Launch) : (st.modLaunch p n f).tiles = st.tiles := rfl

/-! ## modBerth -/

@[simp] theorem State.modBerth_powered (st : State) (b : Nat) (f : Berth → Berth) : (st.modBerth b f).powered = st.powered := rfl
@[simp] theorem State.modBerth_clock (st : State) (b : Nat) (f : Berth → Berth) : (st.modBerth b f).clock = st.clock := rfl
@[simp] theorem State.modBerth_nextId (st : State) (b : Nat) (f : Berth → Berth) : (st.modBerth b f).nextId = st.nextId := rfl
@[simp] theorem State.modBerth_agenda (st : State) (b : Nat) (f : Berth → Berth) : (st.modBerth b f).agenda = st.agenda := rfl
@[simp] theorem State.modBerth_taken (st : State) (b : Nat) (f : Berth → Berth) : (st.modBerth b f).taken = st.taken := rfl
@[simp] theorem State.modBerth_cur (st : State) (b : Nat) (f : Berth → Berth) : (st.modBerth b f).cur = st.cur := rfl
@[simp] theorem State.modBerth_held (st : State) (b : Nat) (f : Berth → Berth) : (st.modBerth b f).held = st.held := rfl
@[simp] theorem State.modBerth_mem (st : State) (b : Nat) (f : Berth → Berth) : (st.modBerth b f).mem = st.mem := rfl
@[simp] theorem State.modBerth_accesses (st : State) (b : Nat) (f : Berth → Berth) : (st.modBerth b f).accesses = st.accesses := rfl
@[simp] theorem State.modBerth_launches (st : State) (b : Nat) (f : Berth → Berth) : (st.modBerth b f).launches = st.launches := rfl
@[simp] theorem State.modBerth_items (st : State) (b : Nat) (f : Berth → Berth) : (st.modBerth b f).items = st.items := rfl
@[simp] theorem State.modBerth_acks (st : State) (b : Nat) (f : Berth → Berth) : (st.modBerth b f).acks = st.acks := rfl
@[simp] theorem State.modBerth_itemAcks (st : State) (b : Nat) (f : Berth → Berth) : (st.modBerth b f).itemAcks = st.itemAcks := rfl
@[simp] theorem State.modBerth_now (st : State) (b : Nat) (f : Berth → Berth) : (st.modBerth b f).now = st.now := rfl
@[simp] theorem State.modBerth_fields (st : State) (b : Nat) (f : Berth → Berth) : (st.modBerth b f).fields = st.fields := rfl
@[simp] theorem State.modBerth_parts (st : State) (b : Nat) (f : Berth → Berth) : (st.modBerth b f).parts = st.parts := rfl
@[simp] theorem State.modBerth_queues (st : State) (b : Nat) (f : Berth → Berth) : (st.modBerth b f).queues = st.queues := rfl
@[simp] theorem State.modBerth_roots (st : State) (b : Nat) (f : Berth → Berth) : (st.modBerth b f).roots = st.roots := rfl
@[simp] theorem State.modBerth_backing (st : State) (b : Nat) (f : Berth → Berth) : (st.modBerth b f).backing = st.backing := rfl
@[simp] theorem State.modBerth_granules (st : State) (b : Nat) (f : Berth → Berth) : (st.modBerth b f).granules = st.granules := rfl
@[simp] theorem State.modBerth_modRegs (st : State) (b : Nat) (f : Berth → Berth) : (st.modBerth b f).modRegs = st.modRegs := rfl
@[simp] theorem State.modBerth_boot (st : State) (b : Nat) (f : Berth → Berth) : (st.modBerth b f).boot = st.boot := rfl
@[simp] theorem State.modBerth_defects (st : State) (b : Nat) (f : Berth → Berth) : (st.modBerth b f).defects = st.defects := rfl
@[simp] theorem State.modBerth_links (st : State) (b : Nat) (f : Berth → Berth) : (st.modBerth b f).links = st.links := rfl
@[simp] theorem State.modBerth_numVfs (st : State) (b : Nat) (f : Berth → Berth) : (st.modBerth b f).numVfs = st.numVfs := rfl
@[simp] theorem State.modBerth_seqOut (st : State) (b : Nat) (f : Berth → Berth) : (st.modBerth b f).seqOut = st.seqOut := rfl
@[simp] theorem State.modBerth_ticked (st : State) (b : Nat) (f : Berth → Berth) : (st.modBerth b f).ticked = st.ticked := rfl
@[simp] theorem State.modBerth_lastSource (st : State) (b : Nat) (f : Berth → Berth) : (st.modBerth b f).lastSource = st.lastSource := rfl
@[simp] theorem State.modBerth_lastNow (st : State) (b : Nat) (f : Berth → Berth) : (st.modBerth b f).lastNow = st.lastNow := rfl
@[simp] theorem State.modBerth_presented (st : State) (b : Nat) (f : Berth → Berth) : (st.modBerth b f).presented = st.presented := rfl
@[simp] theorem State.modBerth_errors (st : State) (b : Nat) (f : Berth → Berth) : (st.modBerth b f).errors = st.errors := rfl
@[simp] theorem State.modBerth_remotes (st : State) (b : Nat) (f : Berth → Berth) : (st.modBerth b f).remotes = st.remotes := rfl
@[simp] theorem State.modBerth_tiles (st : State) (b : Nat) (f : Berth → Berth) : (st.modBerth b f).tiles = st.tiles := rfl

/-! ## modField -/

@[simp] theorem State.modField_powered (st : State) (n : Nat) (f : Field → Field) : (st.modField n f).powered = st.powered := rfl
@[simp] theorem State.modField_clock (st : State) (n : Nat) (f : Field → Field) : (st.modField n f).clock = st.clock := rfl
@[simp] theorem State.modField_nextId (st : State) (n : Nat) (f : Field → Field) : (st.modField n f).nextId = st.nextId := rfl
@[simp] theorem State.modField_agenda (st : State) (n : Nat) (f : Field → Field) : (st.modField n f).agenda = st.agenda := rfl
@[simp] theorem State.modField_taken (st : State) (n : Nat) (f : Field → Field) : (st.modField n f).taken = st.taken := rfl
@[simp] theorem State.modField_cur (st : State) (n : Nat) (f : Field → Field) : (st.modField n f).cur = st.cur := rfl
@[simp] theorem State.modField_held (st : State) (n : Nat) (f : Field → Field) : (st.modField n f).held = st.held := rfl
@[simp] theorem State.modField_mem (st : State) (n : Nat) (f : Field → Field) : (st.modField n f).mem = st.mem := rfl
@[simp] theorem State.modField_accesses (st : State) (n : Nat) (f : Field → Field) : (st.modField n f).accesses = st.accesses := rfl
@[simp] theorem State.modField_launches (st : State) (n : Nat) (f : Field → Field) : (st.modField n f).launches = st.launches := rfl
@[simp] theorem State.modField_items (st : State) (n : Nat) (f : Field → Field) : (st.modField n f).items = st.items := rfl
@[simp] theorem State.modField_acks (st : State) (n : Nat) (f : Field → Field) : (st.modField n f).acks = st.acks := rfl
@[simp] theorem State.modField_itemAcks (st : State) (n : Nat) (f : Field → Field) : (st.modField n f).itemAcks = st.itemAcks := rfl
@[simp] theorem State.modField_now (st : State) (n : Nat) (f : Field → Field) : (st.modField n f).now = st.now := rfl
@[simp] theorem State.modField_berths (st : State) (n : Nat) (f : Field → Field) : (st.modField n f).berths = st.berths := rfl
@[simp] theorem State.modField_parts (st : State) (n : Nat) (f : Field → Field) : (st.modField n f).parts = st.parts := rfl
@[simp] theorem State.modField_queues (st : State) (n : Nat) (f : Field → Field) : (st.modField n f).queues = st.queues := rfl
@[simp] theorem State.modField_roots (st : State) (n : Nat) (f : Field → Field) : (st.modField n f).roots = st.roots := rfl
@[simp] theorem State.modField_backing (st : State) (n : Nat) (f : Field → Field) : (st.modField n f).backing = st.backing := rfl
@[simp] theorem State.modField_granules (st : State) (n : Nat) (f : Field → Field) : (st.modField n f).granules = st.granules := rfl
@[simp] theorem State.modField_modRegs (st : State) (n : Nat) (f : Field → Field) : (st.modField n f).modRegs = st.modRegs := rfl
@[simp] theorem State.modField_boot (st : State) (n : Nat) (f : Field → Field) : (st.modField n f).boot = st.boot := rfl
@[simp] theorem State.modField_defects (st : State) (n : Nat) (f : Field → Field) : (st.modField n f).defects = st.defects := rfl
@[simp] theorem State.modField_links (st : State) (n : Nat) (f : Field → Field) : (st.modField n f).links = st.links := rfl
@[simp] theorem State.modField_numVfs (st : State) (n : Nat) (f : Field → Field) : (st.modField n f).numVfs = st.numVfs := rfl
@[simp] theorem State.modField_seqOut (st : State) (n : Nat) (f : Field → Field) : (st.modField n f).seqOut = st.seqOut := rfl
@[simp] theorem State.modField_ticked (st : State) (n : Nat) (f : Field → Field) : (st.modField n f).ticked = st.ticked := rfl
@[simp] theorem State.modField_lastSource (st : State) (n : Nat) (f : Field → Field) : (st.modField n f).lastSource = st.lastSource := rfl
@[simp] theorem State.modField_lastNow (st : State) (n : Nat) (f : Field → Field) : (st.modField n f).lastNow = st.lastNow := rfl
@[simp] theorem State.modField_presented (st : State) (n : Nat) (f : Field → Field) : (st.modField n f).presented = st.presented := rfl
@[simp] theorem State.modField_errors (st : State) (n : Nat) (f : Field → Field) : (st.modField n f).errors = st.errors := rfl
@[simp] theorem State.modField_remotes (st : State) (n : Nat) (f : Field → Field) : (st.modField n f).remotes = st.remotes := rfl
@[simp] theorem State.modField_tiles (st : State) (n : Nat) (f : Field → Field) : (st.modField n f).tiles = st.tiles := rfl

/-! ## modPart -/

@[simp] theorem State.modPart_powered (st : State) (p : Nat) (f : Part → Part) : (st.modPart p f).powered = st.powered := rfl
@[simp] theorem State.modPart_clock (st : State) (p : Nat) (f : Part → Part) : (st.modPart p f).clock = st.clock := rfl
@[simp] theorem State.modPart_nextId (st : State) (p : Nat) (f : Part → Part) : (st.modPart p f).nextId = st.nextId := rfl
@[simp] theorem State.modPart_agenda (st : State) (p : Nat) (f : Part → Part) : (st.modPart p f).agenda = st.agenda := rfl
@[simp] theorem State.modPart_taken (st : State) (p : Nat) (f : Part → Part) : (st.modPart p f).taken = st.taken := rfl
@[simp] theorem State.modPart_cur (st : State) (p : Nat) (f : Part → Part) : (st.modPart p f).cur = st.cur := rfl
@[simp] theorem State.modPart_held (st : State) (p : Nat) (f : Part → Part) : (st.modPart p f).held = st.held := rfl
@[simp] theorem State.modPart_mem (st : State) (p : Nat) (f : Part → Part) : (st.modPart p f).mem = st.mem := rfl
@[simp] theorem State.modPart_accesses (st : State) (p : Nat) (f : Part → Part) : (st.modPart p f).accesses = st.accesses := rfl
@[simp] theorem State.modPart_launches (st : State) (p : Nat) (f : Part → Part) : (st.modPart p f).launches = st.launches := rfl
@[simp] theorem State.modPart_items (st : State) (p : Nat) (f : Part → Part) : (st.modPart p f).items = st.items := rfl
@[simp] theorem State.modPart_acks (st : State) (p : Nat) (f : Part → Part) : (st.modPart p f).acks = st.acks := rfl
@[simp] theorem State.modPart_itemAcks (st : State) (p : Nat) (f : Part → Part) : (st.modPart p f).itemAcks = st.itemAcks := rfl
@[simp] theorem State.modPart_now (st : State) (p : Nat) (f : Part → Part) : (st.modPart p f).now = st.now := rfl
@[simp] theorem State.modPart_berths (st : State) (p : Nat) (f : Part → Part) : (st.modPart p f).berths = st.berths := rfl
@[simp] theorem State.modPart_fields (st : State) (p : Nat) (f : Part → Part) : (st.modPart p f).fields = st.fields := rfl
@[simp] theorem State.modPart_queues (st : State) (p : Nat) (f : Part → Part) : (st.modPart p f).queues = st.queues := rfl
@[simp] theorem State.modPart_roots (st : State) (p : Nat) (f : Part → Part) : (st.modPart p f).roots = st.roots := rfl
@[simp] theorem State.modPart_backing (st : State) (p : Nat) (f : Part → Part) : (st.modPart p f).backing = st.backing := rfl
@[simp] theorem State.modPart_granules (st : State) (p : Nat) (f : Part → Part) : (st.modPart p f).granules = st.granules := rfl
@[simp] theorem State.modPart_modRegs (st : State) (p : Nat) (f : Part → Part) : (st.modPart p f).modRegs = st.modRegs := rfl
@[simp] theorem State.modPart_boot (st : State) (p : Nat) (f : Part → Part) : (st.modPart p f).boot = st.boot := rfl
@[simp] theorem State.modPart_defects (st : State) (p : Nat) (f : Part → Part) : (st.modPart p f).defects = st.defects := rfl
@[simp] theorem State.modPart_links (st : State) (p : Nat) (f : Part → Part) : (st.modPart p f).links = st.links := rfl
@[simp] theorem State.modPart_numVfs (st : State) (p : Nat) (f : Part → Part) : (st.modPart p f).numVfs = st.numVfs := rfl
@[simp] theorem State.modPart_seqOut (st : State) (p : Nat) (f : Part → Part) : (st.modPart p f).seqOut = st.seqOut := rfl
@[simp] theorem State.modPart_ticked (st : State) (p : Nat) (f : Part → Part) : (st.modPart p f).ticked = st.ticked := rfl
@[simp] theorem State.modPart_lastSource (st : State) (p : Nat) (f : Part → Part) : (st.modPart p f).lastSource = st.lastSource := rfl
@[simp] theorem State.modPart_lastNow (st : State) (p : Nat) (f : Part → Part) : (st.modPart p f).lastNow = st.lastNow := rfl
@[simp] theorem State.modPart_presented (st : State) (p : Nat) (f : Part → Part) : (st.modPart p f).presented = st.presented := rfl
@[simp] theorem State.modPart_errors (st : State) (p : Nat) (f : Part → Part) : (st.modPart p f).errors = st.errors := rfl
@[simp] theorem State.modPart_remotes (st : State) (p : Nat) (f : Part → Part) : (st.modPart p f).remotes = st.remotes := rfl
@[simp] theorem State.modPart_tiles (st : State) (p : Nat) (f : Part → Part) : (st.modPart p f).tiles = st.tiles := rfl

end Sys2Proof.Machine
end

