-- ==== Sys2Proof/Laws/Threads.lean ====
section
/-! SUPPORT. Threads, tiles and registers after the named updates. -/

namespace Sys2Proof.Machine

/-! ## Tiles and threads of the state -/

theorem State.tile?_modTile_same (st : State) (t : TileId) (f : Tile → Tile) : (st.modTile t f).tile? t = (st.tile? t).map f :=
  AMap.get?_update_same _ _ _

theorem State.tile?_modTile_other (st : State) {t u : TileId} (f : Tile → Tile) (h : u ≠ t) :
    (st.modTile t f).tile? u = st.tile? u := AMap.get?_update_other _ _ h

/-- Changing a tile without touching its threads leaves every thread. -/
theorem State.thread?_modTile (st : State) (t : TileId) (f : Tile → Tile) (h : ∀ tl, (f tl).threads = tl.threads) (u : ThreadId) :
    (st.modTile t f).thread? u = st.thread? u := by
  unfold State.thread?
  by_cases hu : u.tile = t
  · subst hu
    rw [State.tile?_modTile_same]
    cases st.tile? u.tile <;> simp [h]
  · rw [State.tile?_modTile_other _ _ hu]

theorem State.thread?_modThread_same (st : State) (t : ThreadId) (f : Thread → Thread) :
    (st.modThread t f).thread? t = (st.thread? t).map f := by
  unfold State.modThread State.thread?
  rw [State.tile?_modTile_same]
  cases st.tile? t.tile <;> simp [AMap.get?_update_same]

theorem State.thread?_modThread_other (st : State) {t u : ThreadId} (f : Thread → Thread) (h : u ≠ t) :
    (st.modThread t f).thread? u = st.thread? u := by
  unfold State.modThread State.thread?
  by_cases hu : u.tile = t.tile
  · have hn : u.thr ≠ t.thr := fun e => h (by cases t; cases u; simp_all)
    rw [hu, State.tile?_modTile_same]
    cases st.tile? t.tile <;> simp [AMap.get?_update_other _ _ hn]
  · rw [State.tile?_modTile_other _ _ hu]

theorem State.thread?_setThread_same (st : State) {t : ThreadId} {th : Thread} (new : Thread) (h : st.thread? t = some th) :
    (st.setThread t new).thread? t = some new := by
  unfold State.setThread; rw [State.thread?_modThread_same, h]; rfl

theorem State.thread?_setThread_other (st : State) {t u : ThreadId} (new : Thread) (h : u ≠ t) :
    (st.setThread t new).thread? u = st.thread? u := State.thread?_modThread_other st _ h

@[simp] theorem State.thread?_modCore (st : State) (t : TileId) (c : Nat) (f : Core → Core) (u : ThreadId) :
    (st.modCore t c f).thread? u = st.thread? u := State.thread?_modTile st t (·.modCore c f) (fun _ => rfl) u

@[simp] theorem State.thread?_modLaunch (st : State) (p n : Nat) (f : Launch → Launch) (u : ThreadId) :
    (st.modLaunch p n f).thread? u = st.thread? u := rfl
@[simp] theorem State.thread?_modBerth (st : State) (b : Nat) (f : Berth → Berth) (u : ThreadId) :
    (st.modBerth b f).thread? u = st.thread? u := rfl
@[simp] theorem State.thread?_modField (st : State) (n : Nat) (f : Field → Field) (u : ThreadId) :
    (st.modField n f).thread? u = st.thread? u := rfl
@[simp] theorem State.thread?_modPart (st : State) (p : Nat) (f : Part → Part) (u : ThreadId) :
    (st.modPart p f).thread? u = st.thread? u := rfl

/-! ## Registers -/

@[simp] theorem Thread.reg_zero (t : Thread) : t.reg 0 = .ready 0#32 := rfl

theorem Thread.reg_setReg_same (t : Thread) {n : Nat} (v : RegState) (h : n ≠ 0) : (t.setReg n v).reg n = v := by
  simp only [Thread.setReg, Thread.reg, if_neg h]
  exact getD_setPad_same _ _ _ _

theorem Thread.reg_setReg_other (t : Thread) {n m : Nat} (v : RegState) (h : m ≠ n) : (t.setReg n v).reg m = t.reg m := by
  unfold Thread.setReg
  split
  · rfl
  · simp only [Thread.reg]
    split
    · rfl
    · exact getD_setPad_other _ _ _ h

/-- What writing a register leaves alone. -/
theorem Thread.setReg_frame (t : Thread) (n : Nat) (v : RegState) :
    t.setReg n v = { t with regs := (t.setReg n v).regs, inflight := (t.setReg n v).inflight } := by
  unfold Thread.setReg; split <;> rfl

@[simp] theorem Thread.setReg_zero (t : Thread) (v : RegState) : t.setReg 0 v = t := rfl

end Sys2Proof.Machine
end

