-- ==== Sys2Proof/Laws/Complete.lean ====
section
/-! SUPPORT. What the end of an instruction changes (R35, R48, R268 to R271), said once. -/

namespace Sys2Proof.Safety

open Sys2Proof.Machine

/-! ## Tiles that differ in registrations, threads and positions only -/

theorem SameTile.refl (a : Tile) : SameTile a a :=
  ⟨a.rlt, a.regWait, a.threads, a.cores, rfl, fun c => ⟨(a.core c).positions, (a.core c).deal, rfl⟩⟩

theorem SameTile.trans {a b c : Tile} (h : SameTile a b) (g : SameTile b c) : SameTile a c := by
  obtain ⟨r, w, t, co, hb, hc⟩ := h
  obtain ⟨r', w', t', co', gb, gc⟩ := g
  refine ⟨r', w', t', co', by rw [gb, hb], fun n => ?_⟩
  obtain ⟨p, d, h1⟩ := hc n
  obtain ⟨p', d', h2⟩ := gc n
  exact ⟨p', d', by rw [h2, h1]⟩

/-- Two states differ in tiles only, and in each tile by `SameTile` only. -/
def SameTiles (m t : State) : Prop :=
  t = { m with tiles := t.tiles } ∧ ∀ id tl, m.tile? id = some tl → ∃ tl', t.tile? id = some tl' ∧ SameTile tl tl'

theorem SameTiles.refl (m : State) : SameTiles m m := ⟨rfl, fun _ tl h => ⟨tl, h, .refl tl⟩⟩

theorem SameTiles.trans {a b c : State} (h : SameTiles a b) (g : SameTiles b c) : SameTiles a c := by
  refine ⟨by rw [g.1, h.1], fun id tl htl => ?_⟩
  obtain ⟨t1, h1, s1⟩ := h.2 id tl htl
  obtain ⟨t2, h2, s2⟩ := g.2 id t1 h1
  exact ⟨t2, h2, s1.trans s2⟩

theorem sameTiles_modTile (st : State) (t : TileId) (f : Tile → Tile) (h : ∀ tl, st.tile? t = some tl → SameTile tl (f tl)) :
    SameTiles st (st.modTile t f) := by
  refine ⟨rfl, fun id tl htl => ?_⟩
  by_cases e : id = t
  · subst e; exact ⟨f tl, by rw [State.tile?_modTile_same, htl]; rfl, h tl htl⟩
  · exact ⟨tl, by rw [State.tile?_modTile_other _ _ e]; exact htl, .refl tl⟩

theorem sameTiles_modThread (st : State) (t : ThreadId) (f : Thread → Thread) : SameTiles st (st.modThread t f) :=
  sameTiles_modTile st _ _ fun tl _ =>
    ⟨tl.rlt, tl.regWait, tl.threads.update t.thr f, tl.cores, rfl, fun c => ⟨(tl.core c).positions, (tl.core c).deal, rfl⟩⟩

theorem settle_fields (tl : Tile) : tl.settle = { tl with rlt := tl.settle.rlt, regWait := tl.settle.regWait } := rfl

/-- Releasing registrations changes the range-lock tables only (R113). -/
theorem sameTiles_release (st : State) (regs : List (TileId × Nat)) :
    SameTiles st (st.release regs) ∧ ∀ u, (st.release regs).thread? u = st.thread? u := by
  unfold State.release
  induction regs generalizing st with
  | nil => exact ⟨.refl st, fun _ => rfl⟩
  | cons r rs ih =>
    rw [List.foldl_cons]
    generalize hg : (fun tl : Tile => Tile.settle _) = g
    have hs : ∀ tl, ∃ a b, g tl = { tl with rlt := a, regWait := b } := fun tl => by
      rw [← hg]; exact ⟨_, _, settle_fields _⟩
    have h1 : SameTiles st (st.modTile r.1 g) := sameTiles_modTile st _ _ fun tl _ => by
      obtain ⟨a, b, h⟩ := hs tl
      rw [h]; exact ⟨a, b, tl.threads, tl.cores, rfl, fun c => ⟨(tl.core c).positions, (tl.core c).deal, rfl⟩⟩
    refine ⟨h1.trans (ih _).1, fun u => ?_⟩
    rw [(ih _).2 u, State.thread?_modTile]
    intro tl
    obtain ⟨a, b, h⟩ := hs tl
    rw [h]

/-! ## Dealing and following -/

theorem dealSlot_core (c : Core) (slot : Nat) :
    ∃ p d k, (c.undeal slot).dealSlot slot = ({ c with positions := p, deal := d }, k) := ⟨_, _, _, rfl⟩

/-- Dealing a thread changes its status and its core's positions only (R32). -/
theorem sameTiles_dealThread (st : State) (t : ThreadId) :
    SameTiles st (st.dealThread t) ∧ (∀ u, u ≠ t → (st.dealThread t).thread? u = st.thread? u) ∧
      ∀ o, st.thread? t = some o → ∃ s, (st.dealThread t).thread? t = some { o with status := s } := by
  unfold State.dealThread
  split
  · exact ⟨.refl st, fun _ _ => rfl, fun o ho => by simp_all [State.thread?]⟩
  · rename_i tl htl
    obtain ⟨p, d, k, hc⟩ := dealSlot_core (tl.core (coreOf t.thr)) t.thr
    rw [hc]
    have h1 : SameTiles st (st.modCore t.tile (coreOf t.thr) fun _ => { tl.core (coreOf t.thr) with positions := p, deal := d }) := by
      refine sameTiles_modTile st _ _ fun x hx => ?_
      rw [htl] at hx; cases hx
      refine ⟨tl.rlt, tl.regWait, tl.threads, _, rfl, fun c => ?_⟩
      by_cases e : c = coreOf t.thr
      · subst e
        refine ⟨p, d, ?_⟩
        simp only [Tile.core, Tile.modCore]; rw [getD_updPad_same]
      · refine ⟨(tl.core c).positions, (tl.core c).deal, ?_⟩
        simp only [Tile.core, Tile.modCore]; rw [getD_updPad_other _ _ _ e]
    refine ⟨h1.trans (sameTiles_modThread _ _ _), fun u hu => ?_, fun o ho => ?_⟩
    · rw [State.thread?_modThread_other _ _ hu, State.thread?_modCore]
    · rw [State.thread?_modThread_same, State.thread?_modCore, ho]; exact ⟨_, rfl⟩

/-- How a leader's issue changes a thread (R48, R409): its following, the bubble at its end and its place on the wheel, and nothing when it
follows no one. -/
def Followed (o o' : Thread) : Prop :=
  ∃ follow bubble status, o' = { o with follow := follow, bubble := bubble, status := status } ∧ (o.follow = none → o' = o)

theorem Followed.refl (o : Thread) : Followed o o := ⟨o.follow, o.bubble, o.status, rfl, fun _ => rfl⟩

theorem Followed.trans {a b c : Thread} (h : Followed a b) (g : Followed b c) : Followed a c := by
  obtain ⟨f, b, s, hb, hn⟩ := h
  obtain ⟨f', b', s', hc, gn⟩ := g
  exact ⟨f', b', s', by rw [hc, hb], fun ha => by have e := hn ha; rw [e] at gn; exact gn ha⟩

/-- Every thread of one state is in the other, changed by `Followed` only. -/
def SameThreads (m t : State) : Prop := ∀ u o, m.thread? u = some o → ∃ o', t.thread? u = some o' ∧ Followed o o'

theorem SameThreads.refl (m : State) : SameThreads m m := fun _ o h => ⟨o, h, .refl o⟩

theorem SameThreads.trans {a b c : State} (h : SameThreads a b) (g : SameThreads b c) : SameThreads a c := fun u o ho => by
  obtain ⟨x, hx, fx⟩ := h u o ho
  obtain ⟨y, hy, fy⟩ := g u x hx
  exact ⟨y, hy, fx.trans fy⟩

theorem sameThreads_modThread (st : State) (t : ThreadId) (f : Thread → Thread) (h : ∀ o, st.thread? t = some o → Followed o (f o)) :
    SameThreads st (st.modThread t f) := fun u o ho => by
  by_cases e : u = t
  · subst e; exact ⟨f o, by rw [State.thread?_modThread_same, ho]; rfl, h o ho⟩
  · exact ⟨o, by rw [State.thread?_modThread_other _ _ e]; exact ho, .refl o⟩

/-- Dealing a thread that follows changes its status only. -/
theorem sameThreads_dealThread (st : State) (t : ThreadId) (h : ∀ o, st.thread? t = some o → o.follow ≠ none) :
    SameThreads st (st.dealThread t) := fun u o ho => by
  obtain ⟨-, h2, h3⟩ := sameTiles_dealThread st t
  by_cases e : u = t
  · subst e; obtain ⟨s, hs⟩ := h3 o ho; exact ⟨_, hs, o.follow, o.bubble, s, rfl, fun hn => absurd hn (h o ho)⟩
  · exact ⟨o, by rw [h2 u e]; exact ho, .refl o⟩

/-- A leader's issue (R48) changes its followers' following and their places on the wheel only. -/
theorem same_leaderIssues (st : State) (t : ThreadId) (addr : Word) (taken : Bool) :
    SameTiles st (st.leaderIssues t addr taken) ∧ SameThreads st (st.leaderIssues t addr taken) := by
  unfold State.leaderIssues
  split
  · exact ⟨.refl st, .refl st⟩
  · rename_i tl htl
    clear htl
    generalize tl.followers t.thr = ns
    induction ns generalizing st with
    | nil => exact ⟨.refl st, .refl st⟩
    | cons n ns ih =>
      rw [List.foldl_cons]
      refine (fun h : SameTiles st _ ∧ SameThreads st _ => ⟨h.1.trans (ih _).1, h.2.trans (ih _).2⟩) ?_
      split
      · exact ⟨.refl st, .refl st⟩
      · rename_i th hth
        split
        · exact ⟨.refl st, .refl st⟩
        · rename_i f hf
          have hfol : ∀ (g : Thread → Option Follow) (b : Thread → Bool) o, st.thread? ⟨t.tile, n⟩ = some o →
              Followed o { o with follow := g o, bubble := b o } := fun g b o ho =>
            ⟨_, _, o.status, rfl, fun hn => by rw [hth] at ho; cases ho; rw [hf] at hn; cases hn⟩
          split
          · refine ⟨sameTiles_modThread _ _ _, sameThreads_modThread _ _ _ fun o ho => ?_⟩
            split
            · exact hfol (fun _ => none) (fun o => o.bubble || o.follow.any (·.joined)) o ho
            · exact hfol (fun _ => _) (·.bubble) o ho
          · split
            · refine ⟨(sameTiles_modThread _ _ _).trans (sameTiles_dealThread _ _).1,
                (sameThreads_modThread _ _ _ (hfol (fun _ => some _) (·.bubble))).trans (sameThreads_dealThread _ _ fun o ho => ?_)⟩
              rw [State.thread?_modThread_same, hth] at ho
              cases ho; simp
            · exact ⟨.refl st, .refl st⟩

/-! ## The thread's own context -/

theorem loopEnd_frame (t : Thread) (fall : Word) (ls : List LoopLevel) :
    (t.loopEnd fall ls).1 = { t with regs := (t.loopEnd fall ls).1.regs, inflight := (t.loopEnd fall ls).1.inflight,
                                     loops := (t.loopEnd fall ls).1.loops } ∧
    ∀ n, (∀ l ∈ ls, l.index ≠ n) → (t.loopEnd fall ls).1.reg n = t.reg n := by
  induction ls generalizing fall with
  | nil => exact ⟨rfl, fun _ _ => rfl⟩
  | cons l ls ih =>
    unfold Thread.loopEnd
    split
    · refine ⟨?_, fun n hn => ?_⟩
      · simp only [Thread.setX]; rw [Thread.setReg_frame]
      · exact Thread.reg_setReg_other _ _ (Ne.symm (hn l (by simp)))
    · split
      · exact ⟨rfl, fun _ _ => rfl⟩
      · split
        · exact ⟨(ih _).1, fun n hn => (ih _).2 n fun l h => hn l (by simp_all)⟩
        · exact ⟨rfl, fun _ _ => rfl⟩

theorem advance_fall (t : Thread) (len : Nat) : t.advance len .fall =
    match t.loops with
    | l :: _ =>
      if decide (t.pc ≤ l.stop) && decide (l.stop < t.pc + BitVec.ofNat 32 len) then
        { (t.loopEnd (t.pc + BitVec.ofNat 32 len) t.loops).1 with pc := (t.loopEnd (t.pc + BitVec.ofNat 32 len) t.loops).2 }
      else { t with pc := t.pc + BitVec.ofNat 32 len }
    | [] => { t with pc := t.pc + BitVec.ofNat 32 len } := rfl

/-- What moving on changes of a thread (R268 to R271). -/
theorem advance_frame (t : Thread) (len : Nat) (next : Next) :
    t.advance len next = { t with pc := (t.advance len next).pc, regs := (t.advance len next).regs,
                                  inflight := (t.advance len next).inflight, loops := (t.advance len next).loops } ∧
    (∀ n, (∀ l ∈ t.loops, l.index ≠ n) → (t.advance len next).reg n = t.reg n) ∧
    (t.loops = [] → (t.advance len next).regs = t.regs ∧ (t.advance len next).inflight = t.inflight ∧
      (t.advance len next).loops = []) ∧ GoesOn t (t.advance len next) len next := by
  cases next with
  | jump x => exact ⟨rfl, fun _ _ => rfl, fun h => ⟨rfl, rfl, by simp [Thread.advance, h, loopsAfterJump]⟩, rfl⟩
  | set x => exact ⟨rfl, fun _ _ => rfl, fun h => ⟨rfl, rfl, h⟩, rfl⟩
  | fall =>
    have h0 : t.loops = [] → t.advance len .fall = { t with pc := t.pc + BitVec.ofNat 32 len } := fun h => by
      simp [Thread.advance, h]
    refine ⟨?_, fun n hn => ?_, fun h => by rw [h0 h]; exact ⟨rfl, rfl, h⟩, fun h => by rw [h0 h]⟩
    · rw [advance_fall]
      split
      · split
        · simp only; rw [(loopEnd_frame t _ _).1]
        · rfl
      · rfl
    · rw [advance_fall]
      split
      · split
        · exact (loopEnd_frame t _ _).2 n hn
        · rfl
      · rfl

theorem stepFollow_frame (t : Thread) (taken : Bool) :
    t.stepFollow taken = { t with follow := (t.stepFollow taken).follow, bubble := (t.stepFollow taken).bubble } := by
  unfold Thread.stepFollow; split
  · rfl
  · split
    · rfl
    · split <;> rfl

theorem stepFollow_none {t : Thread} (taken : Bool) (h : t.follow = none) : t.stepFollow taken = t := by
  unfold Thread.stepFollow; rw [h]

theorem getD_map_map {l : List (Option Stream)} {f g : Stream → Stream} (h : ∀ b, g (f b) = g b) (n : Nat) :
    ((l.map fun s => s.map f).getD n none).map g = (l.getD n none).map g := by
  simp only [List.getD_eq_getElem?_getD, List.getElem?_map]
  cases l[n]? with
  | none => rfl
  | some o => cases o <;> simp [h]

theorem spentStreams_frame (t : Thread) :
    t.spentStreams.2 = { t with streams := t.spentStreams.2.streams } ∧
    ∀ s, (t.spentStreams.2.stream? s).map bareStream = (t.stream? s).map bareStream :=
  ⟨rfl, fun s => getD_map_map (fun b => by simp only [bareStream]; split <;> rfl) s⟩

/-- What the end of an instruction does when no BREAK is raised. -/
theorem complete_completed (m : State) (tid : ThreadId) (new : Thread) (s : BitVec 2) (len : Nat) (next : Next)
    (h : m.thread? tid = some new) : Completed m (m.complete tid s len next none) tid new s len next := by
  unfold State.complete
  rw [h]
  simp only
  generalize htk : ((match next with
    | .jump _ => true
    | _ => false) || (new.advance len next).pc != new.pc + BitVec.ofNat 32 len) = taken
  generalize hb : ({ (new.advance len next).stepFollow taken with
      stall := if new.mode = .w1 then 0 else s.toNat
      lastIssue := m.cycleOf tid.tile
      fence := none
      w1Done := false
      matCmd := none
      symSince := none } : Thread) = b
  obtain ⟨a1, a2, a3, a4⟩ := advance_frame new len next
  have hf := stepFollow_frame (new.advance len next) taken
  obtain ⟨p1, p2⟩ := spentStreams_frame b
  have hset := State.thread?_setThread_same m b.spentStreams.2 h
  obtain ⟨r1, r2⟩ := sameTiles_release (m.setThread tid b.spentStreams.2) b.spentStreams.1
  obtain ⟨l1, l2⟩ := same_leaderIssues ((m.setThread tid b.spentStreams.2).release b.spentStreams.1) tid new.pc taken
  have tiles : SameTiles m _ := ((sameTiles_modThread m tid fun _ => b.spentStreams.2).trans r1).trans l1
  refine ⟨tiles.1, fun a => by rw [tiles.1], ?_, fun u o hu ho => ?_, tiles.2⟩
  · obtain ⟨o', ho', f, bu, st', rfl, hnone⟩ := l2 tid b.spentStreams.2 (by rw [r2]; exact hset)
    refine ⟨_, ho', ⟨?_, ?_, ?_, ?_, ?_⟩, ?_, ?_⟩
    · rw [p1, ← hb, hf, a1]
    · intro n hn
      rw [← a2 n hn, p1, ← hb, hf]; rfl
    · intro hl
      obtain ⟨x, y, z⟩ := a3 hl
      rw [p1, ← hb, hf]; exact ⟨x, y, z⟩
    · intro n
      refine (p2 n).trans ?_
      rw [← hb, hf, a1]; rfl
    · intro hn
      have h1 : (new.advance len next).follow = none := by rw [a1]; exact hn
      have h2 : b.spentStreams.2.follow = none ∧ b.spentStreams.2.bubble = new.bubble ∧ b.spentStreams.2.status = new.status := by
        rw [p1, ← hb, stepFollow_none taken h1, a1]; exact ⟨hn, rfl, rfl⟩
      have h3 := hnone h2.1
      rw [h3]; exact h2
    · have e : (b.spentStreams.2).pc = (new.advance len next).pc := by rw [p1, ← hb, hf]
      cases next with
      | fall => exact fun hl => by simpa [e] using a4 hl
      | jump x => simpa [GoesOn, e] using a4
      | set x => simpa [GoesOn, e] using a4
    · rw [p1, ← hb]
  · have := l2 u o (by rw [r2, State.thread?_setThread_other _ _ hu]; exact ho)
    obtain ⟨o', ho', f, bu, s', rfl, hn⟩ := this
    exact ⟨f, bu, s', ho', fun h => by
      have e := hn h
      exact ⟨(congrArg Thread.follow e).trans h, congrArg Thread.bubble e, congrArg Thread.status e⟩⟩

end Sys2Proof.Safety
end

