-- ==== Sys2Proof/Laws/Issue.lean ====
section
/-! SUPPORT. The issue of an instruction that completes, and the operand forms, each said once. -/

namespace Sys2Proof.Safety

open Sys2Proof.Machine

/-! ## Completion -/

/-- An instruction whose body succeeds completes. -/
theorem issueWith_completes {pair : Bool} {st : State} {s : BitVec 2} {len : Nat} {f : ThreadId → Thread → Except Stop Done} {tid : ThreadId}
    {th new : Thread} {d : Done} (hr : Runs st tid th) (hf : f tid th = .ok d) (hb : d.brk = none) (hn : d.st.thread? tid = some new) :
    ∃ t, issueWith pair st s len f = .next t ∧ Completed d.st t tid new s len d.next := by
  refine ⟨d.st.complete tid s len d.next none, ?_, complete_completed _ _ _ _ _ _ hn⟩
  simp [issueWith, hr.1, hr.2.1, hf, hb, hr.2.2]

/-- An instruction whose body succeeds completes. -/
theorem issue_completes {st : State} {s : BitVec 2} {len : Nat} {f : ThreadId → Thread → Except Stop Done} {tid : ThreadId}
    {th new : Thread} {d : Done} (hr : Runs st tid th) (hf : f tid th = .ok d) (hb : d.brk = none) (hn : d.st.thread? tid = some new) :
    ∃ t, issue st s len f = .next t ∧ Completed d.st t tid new s len d.next := issueWith_completes hr hf hb hn

/-- The state before an instruction may stand for the one in which its thread's context has been set. -/
theorem Completed.of_setThread {m t : State} {tid : ThreadId} {th new : Thread} {s : BitVec 2} {len : Nat} {next : Next}
    (h : Completed (m.setThread tid th) t tid new s len next) : Completed m t tid new s len next := by
  obtain ⟨h1, h2, h3, h4, h5⟩ := h
  refine ⟨h1, h2, h3, fun u o hu ho => h4 u o hu ?_, fun id tl htl => ?_⟩
  · rw [State.thread?_setThread_other _ _ hu]; exact ho
  · obtain ⟨t1, e1, s1⟩ := (sameTiles_modThread m tid fun _ => th).2 id tl htl
    obtain ⟨t2, e2, s2⟩ := h5 id t1 e1
    exact ⟨t2, e2, s1.trans s2⟩

/-- An instruction whose body sets its thread's context and goes on completes. -/
theorem issue_sets {st : State} {s : BitVec 2} {len : Nat} {f : ThreadId → Thread → Except Stop Done} {tid : ThreadId}
    {th new : Thread} {next : Next} (hr : Runs st tid th) (hf : f tid th = .ok { st := st.setThread tid new, next := next }) :
    ∃ t, issue st s len f = .next t ∧ Completed st t tid new s len next := by
  obtain ⟨t, h1, h2⟩ := issue_completes hr hf rfl (State.thread?_setThread_same st new hr.2.1)
  exact ⟨t, h1, h2.of_setThread⟩

/-! ## Checks -/

theorem checkLimits_named {th : Thread} {cs : List XField} (h : ∀ c ∈ cs, Named th c) : checkLimits th cs = .ok () := by
  induction cs with
  | nil => rfl
  | cons c cs ih =>
    have hc : fieldKind th.alloc c ≠ .beyond := by
      rcases h c (by simp) with h | ⟨h1, h2⟩
      · simp [fieldKind, h]
      · simp only [fieldKind]; split
        · simp
        · rw [if_pos ⟨h1, h2⟩]; simp
    rw [checkLimits, if_neg hc]
    exact ih fun c hc => h c (List.mem_cons_of_mem _ hc)

theorem checkEarly_notEarly {th : Thread} {cs : List XField} (h : NotEarly th cs) : checkEarly th cs = .ok () := by
  induction cs with
  | nil => rfl
  | cons c cs ih =>
    have hcs : checkEarly th cs = .ok () := ih fun c hc => h c (List.mem_cons_of_mem _ hc)
    rw [checkEarly]
    split
    · rename_i hc
      obtain ⟨h1, h2⟩ := h c (by simp) hc.1 hc.2
      rw [if_neg h1, if_neg (by simp [h2]), hcs]
    · exact hcs

theorem generalChecks_ok {th : Thread} {rs ws : List XField} (hn : ∀ c ∈ rs ++ ws, Named th c) (he : NotEarly th rs) :
    generalChecks th rs ws = .ok () := by
  simp [generalChecks, checkLimits_named hn, checkEarly_notEarly he, bind, Except.bind]

/-! ## Operands -/

theorem Reads.frame {th after : Thread} {c : XField} {w : Word} (h : Reads th c w after) : after = { th with streams := after.streams } := by
  rcases h with ⟨-, -, rfl⟩ | ⟨-, -, b, q, -, -, -, -, -, rfl⟩ <;> rfl

theorem Reads.named {th after : Thread} {c : XField} {w : Word} (h : Reads th c w after) : Named th c := by
  rcases h with ⟨h, -, -⟩ | ⟨h1, h2, -⟩
  · exact .inl h
  · exact .inr ⟨h1, h2⟩

theorem Named.of_frame {th after : Thread} {c : XField} (h : Named after c) (hf : after = { th with streams := after.streams }) : Named th c := by
  rw [hf] at h; exact h

theorem fieldKind_reg {alloc : Nat} {c : XField} (h : c.toNat < alloc) : fieldKind alloc c = .reg c.toNat := by simp [fieldKind, h]

theorem fieldKind_stream {alloc : Nat} {c : XField} (h1 : alloc ≤ 120) (h2 : 120 ≤ c.toNat) :
    fieldKind alloc c = .stream (c.toNat - 120) := by
  rw [fieldKind, if_neg (by omega), if_pos ⟨h1, h2⟩]

theorem needField_reads {st : State} {th after : Thread} {c : XField} {w : Word} (h : Reads th c w after) :
    needField st th c = .ok (w, after) := by
  rcases h with ⟨h1, h2, rfl⟩ | ⟨h1, h2, b, q, hs, hw, ha, hp, hq, rfl⟩
  · simp [needField, fieldKind_reg h1, needReg, h2, Except.map]
  · simp [needField, fieldKind_stream h1 h2, popStream, hs, hw, ha, hq, Nat.not_le.2 hp]

theorem readField_reads {st : State} {th after : Thread} {c : XField} {w : Word} (h : Reads th c w after) :
    readField st th c = .ok (.ready w, after) := by
  rcases h with ⟨h1, h2, rfl⟩ | ⟨h1, h2, b, q, hs, hw, ha, hp, hq, rfl⟩
  · simp [readField, fieldKind_reg h1, h2]
  · simp [readField, fieldKind_stream h1 h2, popStream, hs, hw, ha, hq, Nat.not_le.2 hp, Except.map]

theorem Puts.named {st : State} {tid : ThreadId} {th after : Thread} {d : XField} {w : Word} (h : Puts st tid th d w after) : Named th d := by
  rcases h with ⟨h, -⟩ | ⟨h1, h2, -⟩
  · exact .inl h
  · exact .inr ⟨h1, h2⟩

theorem writeField_puts {st : State} {tid : ThreadId} {th after : Thread} {d : XField} {w : Word} (hc : st.cur = some tid)
    (h : Puts st tid th d w after) : writeField st th d (.ready w) = .ok after := by
  rcases h with ⟨h1, rfl⟩ | ⟨h1, h2, b, target, st', hs, hw, ha, hp, hq, ht, rfl⟩
  · simp [writeField, fieldKind_reg h1, Thread.setX]
  · simp [writeField, fieldKind_stream h1 h2, pushStream, hs, hw, ha, hc, ht, Nat.not_le.2 hp, Nat.not_le.2 hq]

end Sys2Proof.Safety
end

