-- ==== Sys2Proof/Laws/Integer.lean ====
section
/-! SUPPORT. What the shared forms of the scalar instructions do when their operands can be read, said once for each form. -/

namespace Sys2Proof.Safety

open Sys2Proof.Machine

theorem named_after {th th1 th2 : Thread} {a b c : XField} {x y : Word} (h1 : Reads th a x th1) (h2 : Reads th1 b y th2)
    (hc : Named th2 c) : Named th c := (hc.of_frame h2.frame).of_frame h1.frame

theorem writeLate_now {st : State} {tid : ThreadId} {th after : Thread} {d : XField} {r : FRes} (hc : st.cur = some tid)
    (h : Puts st tid th d r.bits after) : writeLate st tid th d r 0 = .ok (after.orFlags r.flags) := by
  simp [writeLate, writeField_puts hc h, Except.map]

theorem writeLate_late {st : State} {tid : ThreadId} {th after : Thread} {d : XField} {r : FRes} {g : Nat} (hc : st.cur = some tid)
    (hg : g ≠ 0) (h : PutsLate st tid th d r.bits r.flags g after) : writeLate st tid th d r g = .ok after := by
  rcases h with ⟨h1, rfl⟩ | ⟨h0, pushed, hp, rfl⟩
  · simp [writeLate, hg, fieldKind_reg h1, gapCycles]
  · have hw := writeField_puts hc hp
    rcases hp with ⟨h1, -⟩ | ⟨h1, h2, -⟩
    · omega
    · simp only [writeField, fieldKind_stream h1 h2] at hw
      simp [writeLate, hg, fieldKind_stream h1 h2, hw, Except.map, gapCycles]

theorem PutsLate.named {st : State} {tid : ThreadId} {th after : Thread} {d : XField} {w : Word} {f : FFlags} {g : Nat}
    (h : PutsLate st tid th d w f g after) : Named th d := by
  rcases h with ⟨h, -⟩ | ⟨-, p, hp, -⟩
  · exact .inl h
  · exact hp.named

section forms
variable {st : State} {tid : ThreadId} {th th1 th2 th3 : Thread} {s : BitVec 2} {d a b : XField} {x y : Word}

/-- A two-register form whose result is ready at once. -/
theorem opNeedNeed_now {f : Word → Word → FRes} (hr : Runs st tid th) (he : NotEarly th [a, b]) (h1 : Reads th a x th1)
    (h2 : Reads th1 b y th2) (h3 : Puts st tid th2 d (f x y).bits th3) :
    ∃ t, opNeedNeed st s d a b f 0 = .next t ∧ Completed st t tid (th3.orFlags (f x y).flags) s 4 .fall := by
  refine issue_sets hr ?_
  have hn : ∀ c ∈ [a, b] ++ [d], Named th c := by
    simp only [List.cons_append, List.nil_append, List.mem_cons, List.not_mem_nil, or_false]
    rintro c (rfl | rfl | rfl)
    · exact h1.named
    · exact h2.named.of_frame h1.frame
    · exact named_after h1 h2 h3.named
  simp [generalChecks_ok hn he, needField_reads h1, needField_reads h2, writeLate_now hr.1 h3, bind, Except.bind]

/-- A two-register form whose result comes late. -/
theorem opNeedNeed_late {f : Word → Word → FRes} {g : Nat} (hg : g ≠ 0) (hr : Runs st tid th) (he : NotEarly th [a, b])
    (h1 : Reads th a x th1) (h2 : Reads th1 b y th2) (h3 : PutsLate st tid th2 d (f x y).bits (f x y).flags g th3) :
    ∃ t, opNeedNeed st s d a b f g = .next t ∧ Completed st t tid th3 s 4 .fall := by
  refine issue_sets hr ?_
  have hn : ∀ c ∈ [a, b] ++ [d], Named th c := by
    simp only [List.cons_append, List.nil_append, List.mem_cons, List.not_mem_nil, or_false]
    rintro c (rfl | rfl | rfl)
    · exact h1.named
    · exact h2.named.of_frame h1.frame
    · exact named_after h1 h2 h3.named
  simp [generalChecks_ok hn he, needField_reads h1, needField_reads h2, writeLate_late hr.1 hg h3, bind, Except.bind]

theorem named_two (h1 : Reads th a x th1) (hd : Named th1 d) : ∀ c ∈ [a] ++ [d], Named th c := by
  simp only [List.cons_append, List.nil_append, List.mem_cons, List.not_mem_nil, or_false]
  rintro c (rfl | rfl)
  · exact h1.named
  · exact hd.of_frame h1.frame

/-- A one-register form whose result is ready at once. -/
theorem opNeed_now {f : Word → FRes} (hr : Runs st tid th) (he : NotEarly th [a]) (h1 : Reads th a x th1)
    (h3 : Puts st tid th1 d (f x).bits th3) :
    ∃ t, opNeed st s d a f 0 = .next t ∧ Completed st t tid (th3.orFlags (f x).flags) s 4 .fall := by
  refine issue_sets hr ?_
  simp [generalChecks_ok (named_two h1 h3.named) he, needField_reads h1, writeLate_now hr.1 h3, bind, Except.bind]

/-- A one-register form whose result comes late. -/
theorem opNeed_late {f : Word → FRes} {g : Nat} (hg : g ≠ 0) (hr : Runs st tid th) (he : NotEarly th [a]) (h1 : Reads th a x th1)
    (h3 : PutsLate st tid th1 d (f x).bits (f x).flags g th3) :
    ∃ t, opNeed st s d a f g = .next t ∧ Completed st t tid th3 s 4 .fall := by
  refine issue_sets hr ?_
  simp [generalChecks_ok (named_two h1 h3.named) he, needField_reads h1, writeLate_late hr.1 hg h3, bind, Except.bind]

/-- A form with an immediate. -/
theorem opNeedImm_now {len : Nat} {imm : Word} {f : Word → Word → Word} (hr : Runs st tid th) (he : NotEarly th [a]) (h1 : Reads th a x th1)
    (h3 : Puts st tid th1 d (f x imm) th3) :
    ∃ t, opNeedImm st s len d a imm f = .next t ∧ Completed st t tid th3 s len .fall := by
  refine issue_sets hr ?_
  simp [generalChecks_ok (named_two h1 h3.named) he, needField_reads h1, writeField_puts hr.1 h3, bind, Except.bind]

/-- A form that reads its destination. -/
theorem opThree_now {w z : Word} {f : Word → Word → Word → FRes} (hr : Runs st tid th) (he : NotEarly th [a, b, d]) (h1 : Reads th a x th1)
    (h2 : Reads th1 b y th2) (hd : d.toNat < th.alloc) (hz : th.reg d.toNat = .ready z) :
    ∃ t, opThree st s w d a b f = .next t ∧
      Completed st t tid ((th2.setX d.toNat (f x y z).bits).orFlags (f x y z).flags) s 4 .fall := by
  refine issue_sets hr ?_
  have hn : ∀ c ∈ [a, b, d], Named th c := by
    simp only [List.mem_cons, List.not_mem_nil, or_false]
    rintro c (rfl | rfl | rfl)
    · exact h1.named
    · exact h2.named.of_frame h1.frame
    · exact .inl hd
  have e2 : th2 = { th with streams := th2.streams } := by
    have := h2.frame; rw [h1.frame] at this; exact this
  have ha : th2.alloc = th.alloc := by rw [e2]
  have hs : th.isStream d = false := by simp [Thread.isStream, fieldKind_reg hd]
  have hzd : needField st th2 d = .ok (z, th2) :=
    needField_reads (.inl ⟨by omega, by rw [e2]; exact hz, rfl⟩)
  have hp : Puts st tid th2 d (f x y z).bits (th2.setX d.toNat (f x y z).bits) := .inl ⟨by omega, rfl⟩
  simp [checkLimits_named hn, checkEarly_notEarly he, hs, needField_reads h1, needField_reads h2, hzd, writeLate_now hr.1 hp, bind,
    Except.bind]

@[simp] theorem orFlags_none (t : Thread) : t.orFlags fNone = t := by simp [Thread.orFlags, fNone]

theorem writeTransform_ready {t0 : Thread} {srcs : List XField} {w : Word} {fl : FFlags} (hc : st.cur = some tid)
    (h : Puts st tid th d w th3) :
    writeTransform st tid t0 th d srcs (some (.ready w)) fl = .ok { st := st.setThread tid (th3.orFlags fl) } := by
  simp [writeTransform, RegState.isPending, writeField_puts hc h, bind, Except.bind]

/-- A two-register form without flags. -/
theorem opNeedNeed_plain {f : Word → Word → Word} (hr : Runs st tid th) (he : NotEarly th [a, b]) (h1 : Reads th a x th1)
    (h2 : Reads th1 b y th2) (h3 : Puts st tid th2 d (f x y) th3) :
    ∃ t, opNeedNeed st s d a b (fun x y => plain (f x y)) 0 = .next t ∧ Completed st t tid th3 s 4 .fall := by
  have h := opNeedNeed_now (s := s) (f := fun x y => plain (f x y)) hr he h1 h2 h3
  rwa [plain, orFlags_none] at h

/-- A one-register form without flags. -/
theorem opNeed_plain {f : Word → Word} (hr : Runs st tid th) (he : NotEarly th [a]) (h1 : Reads th a x th1)
    (h3 : Puts st tid th1 d (f x) th3) :
    ∃ t, opNeed st s d a (fun x => plain (f x)) 0 = .next t ∧ Completed st t tid th3 s 4 .fall := by
  have h := opNeed_now (s := s) (f := fun x => plain (f x)) hr he h1 h3
  rwa [plain, orFlags_none] at h

/-- A form that can transform, on two ready operands. -/
theorem opStates_ready {f : RegState → RegState → Option RegState} {w : Word} (hr : Runs st tid th) (he : NotEarly th [a, b])
    (h1 : Reads th a x th1) (h2 : Reads th1 b y th2) (hf : f (.ready x) (.ready y) = some (.ready w)) (h3 : Puts st tid th2 d w th3) :
    ∃ t, opStates st s d a b f = .next t ∧ Completed st t tid th3 s 4 .fall := by
  refine issue_sets hr ?_
  have hn : ∀ c ∈ [a, b] ++ [d], Named th c := by
    simp only [List.cons_append, List.nil_append, List.mem_cons, List.not_mem_nil, or_false]
    rintro c (rfl | rfl | rfl)
    · exact h1.named
    · exact h2.named.of_frame h1.frame
    · exact named_after h1 h2 h3.named
  simp [generalChecks_ok hn he, readField_reads h1, readField_reads h2, hf, writeTransform_ready hr.1 h3, bind, Except.bind]

/-- A form that can transform, on a ready operand and an immediate. -/
theorem opStatesImm_ready {f : RegState → RegState → Option RegState} {len : Nat} {w imm : Word} (hr : Runs st tid th)
    (he : NotEarly th [a]) (h1 : Reads th a x th1) (hf : f (.ready x) (.ready imm) = some (.ready w)) (h3 : Puts st tid th1 d w th3) :
    ∃ t, opStatesImm st s len d a imm f = .next t ∧ Completed st t tid th3 s len .fall := by
  refine issue_sets hr ?_
  simp [generalChecks_ok (named_two h1 h3.named) he, readField_reads h1, hf, writeTransform_ready hr.1 h3, bind, Except.bind]

end forms

end Sys2Proof.Safety
end

