-- ==== Sys2Proof/Laws/Control.lean ====
section
/-! SUPPORT. Branches, jumps and loops: what each shared form does when its operands can be read. -/

namespace Sys2Proof.Safety

open Sys2Proof.Machine

section forms
variable {st : State} {tid : ThreadId} {th th1 th2 : Thread} {s : BitVec 2} {d a b : XField} {x y : Word}

theorem named_pair (h1 : Reads th a x th1) (h2 : Reads th1 b y th2) : ∀ c ∈ [a, b] ++ [], Named th c := by
  simp only [List.append_nil, List.mem_cons, List.not_mem_nil, or_false]
  rintro c (rfl | rfl)
  · exact h1.named
  · exact h2.named.of_frame h1.frame

/-- A compare branch goes to its target or on. -/
theorem branchWith_completes {len : Nat} {c : Cond} {off : Word} (hr : Runs st tid th) (he : NotEarly th [a, b]) (h1 : Reads th a x th1)
    (h2 : Reads th1 b y th2) :
    ∃ t, branchWith s len c a b off st = .next t ∧
      Completed st t tid th2 s len (if condHolds c x y then .jump (branchTarget th.pc off) else .fall) := by
  have e1 := h1.frame
  have e2 := h2.frame
  have hp : th2.pc = th.pc := by rw [e2, e1]
  refine issue_sets hr ?_
  simp [generalChecks_ok (named_pair h1 h2) he, needField_reads h1, needField_reads h2, bind, Except.bind, hp]

/-- JALR jumps to its masked target and links. -/
theorem jalrWith_completes {len : Nat} {imm : Word} (hr : Runs st tid th) (he : NotEarly th [a]) (h1 : Reads th a x th1)
    (h2 : Puts st tid th1 d (th.pc + BitVec.ofNat 32 len) th2) :
    ∃ t, jalrWith s len d a imm st = .next t ∧ Completed st t tid th2 s len (.jump ((x + imm) &&& 0xFFFFFFFC#32)) := by
  have hp : th1.pc = th.pc := by rw [h1.frame]
  refine issue_sets hr ?_
  have hw := writeField_puts hr.1 h2
  simp [generalChecks_ok (named_two h1 h2.named) he, needField_reads h1, bind, Except.bind, hp, hw]

/-- A thread with no fields to check. -/
theorem generalChecks_dest {w : Word} (h : Puts st tid th d w th1) : generalChecks th [] [d] = .ok () :=
  generalChecks_ok (by simpa using h.named) (by simp [NotEarly])

/-- LI writes its value. -/
theorem liWith_completes {len : Nat} {v : Word} (hr : Runs st tid th) (h : Puts st tid th d v th1) :
    ∃ t, liWith s len d v st = .next t ∧ Completed st t tid th1 s len .fall := by
  refine issue_sets hr ?_
  simp [generalChecks_dest h, writeField_puts hr.1 h, bind, Except.bind]

end forms

/-! ## Transfers and loop levels (R271) -/

/-- A transfer that leaves no level keeps them all. -/
theorem loopsAfterJump_keeps {src dst : Word} {ls : List LoopLevel} (h : ∀ l ∈ ls, l.holds src = true → l.holds dst = true) :
    loopsAfterJump src dst ls = ls := by
  induction ls with
  | nil => rfl
  | cons l ls ih =>
    have e := ih fun l hl => h l (List.mem_cons_of_mem _ hl)
    have hl := h l (by simp)
    simp only [loopsAfterJump, e, Nat.lt_irrefl, if_false]
    cases h1 : l.holds src <;> simp_all

theorem loopsAfterJump_le (src dst : Word) (ls : List LoopLevel) : (loopsAfterJump src dst ls).length ≤ ls.length := by
  induction ls with
  | nil => exact Nat.le_refl _
  | cons l ls ih =>
    simp only [loopsAfterJump]
    split
    · simp only [List.length_cons]; omega
    · split <;> simp only [List.length_cons] <;> omega

/-- A transfer out of a level ends it with every level inside it. -/
theorem loopsAfterJump_ends {src dst : Word} {inner outer : List LoopLevel} {l : LoopLevel}
    (ho : ∀ o ∈ outer, o.holds src = true → o.holds dst = true) (h1 : l.holds src = true) (h2 : l.holds dst = false) :
    loopsAfterJump src dst (inner ++ l :: outer) = outer := by
  induction inner with
  | nil =>
    simp [loopsAfterJump, loopsAfterJump_keeps ho, h1, h2]
  | cons i inner ih =>
    simp only [List.cons_append, loopsAfterJump, ih]
    rw [if_pos (by simp only [List.length_append, List.length_cons]; omega)]

end Sys2Proof.Safety
end

