-- ==== Sys2Proof/Laws/Dispatch.lean ====
section
/-! SUPPORT. The arms of exec as equations: an instruction's meaning is the definition that its arm names. -/

namespace Sys2Proof.Machine

theorem exec_add {stall} {d} {a} {b} (st : State) : exec (.add stall d a b) st = execAdd stall d a b st := rfl
theorem exec_sub {stall} {d} {a} {b} (st : State) : exec (.sub stall d a b) st = execSub stall d a b st := rfl
theorem exec_and {stall} {d} {a} {b} (st : State) : exec (.and stall d a b) st = execAnd stall d a b st := rfl
theorem exec_or {stall} {d} {a} {b} (st : State) : exec (.or stall d a b) st = execOr stall d a b st := rfl
theorem exec_xor {stall} {d} {a} {b} (st : State) : exec (.xor stall d a b) st = execXor stall d a b st := rfl
theorem exec_andn {stall} {d} {a} {b} (st : State) : exec (.andn stall d a b) st = execAndn stall d a b st := rfl
theorem exec_slt {stall} {d} {a} {b} (st : State) : exec (.slt stall d a b) st = execSlt stall d a b st := rfl
theorem exec_sltn {stall} {d} {a} {b} (st : State) : exec (.sltn stall d a b) st = execSltn stall d a b st := rfl
theorem exec_sll {stall} {d} {a} {b} (st : State) : exec (.sll stall d a b) st = execSll stall d a b st := rfl
theorem exec_srl {stall} {d} {a} {b} (st : State) : exec (.srl stall d a b) st = execSrl stall d a b st := rfl
theorem exec_sra {stall} {d} {a} {b} (st : State) : exec (.sra stall d a b) st = execSra stall d a b st := rfl
theorem exec_min {stall} {d} {a} {b} (st : State) : exec (.min stall d a b) st = execMin stall d a b st := rfl
theorem exec_max {stall} {d} {a} {b} (st : State) : exec (.max stall d a b) st = execMax stall d a b st := rfl
theorem exec_minn {stall} {d} {a} {b} (st : State) : exec (.minn stall d a b) st = execMinn stall d a b st := rfl
theorem exec_maxn {stall} {d} {a} {b} (st : State) : exec (.maxn stall d a b) st = execMaxn stall d a b st := rfl
theorem exec_rotr {stall} {d} {a} {b} (st : State) : exec (.rotr stall d a b) st = execRotr stall d a b st := rfl
theorem exec_mul {stall} {d} {a} {b} (st : State) : exec (.mul stall d a b) st = execMul stall d a b st := rfl
theorem exec_mulh {stall} {d} {a} {b} (st : State) : exec (.mulh stall d a b) st = execMulh stall d a b st := rfl
theorem exec_mulhn {stall} {d} {a} {b} (st : State) : exec (.mulhn stall d a b) st = execMulhn stall d a b st := rfl
theorem exec_mac {stall} {d} {a} {b} (st : State) : exec (.mac stall d a b) st = execMac stall d a b st := rfl
theorem exec_div {stall} {d} {a} {b} (st : State) : exec (.div stall d a b) st = execDiv stall d a b st := rfl
theorem exec_divn {stall} {d} {a} {b} (st : State) : exec (.divn stall d a b) st = execDivn stall d a b st := rfl
theorem exec_rem {stall} {d} {a} {b} (st : State) : exec (.rem stall d a b) st = execRem stall d a b st := rfl
theorem exec_remn {stall} {d} {a} {b} (st : State) : exec (.remn stall d a b) st = execRemn stall d a b st := rfl
theorem exec_clz {stall} {d} {a} (st : State) : exec (.clz stall d a) st = execClz stall d a st := rfl
theorem exec_ctz {stall} {d} {a} (st : State) : exec (.ctz stall d a) st = execCtz stall d a st := rfl
theorem exec_popc {stall} {d} {a} (st : State) : exec (.popc stall d a) st = execPopc stall d a st := rfl
theorem exec_brev {stall} {d} {a} (st : State) : exec (.brev stall d a) st = execBrev stall d a st := rfl
theorem exec_extr {stall} {d} {a} {b} (st : State) : exec (.extr stall d a b) st = execExtr stall d a b st := rfl
theorem exec_ins {stall} {d} {a} {b} (st : State) : exec (.ins stall d a b) st = execIns stall d a b st := rfl
theorem exec_bswap {stall} {d} {a} (st : State) : exec (.bswap stall d a) st = execBswap stall d a st := rfl
theorem exec_addi {stall} {d} {a} {imm} (st : State) : exec (.addi stall d a imm) st = execAddi stall d a imm st := rfl
theorem exec_andi {stall} {d} {a} {imm} (st : State) : exec (.andi stall d a imm) st = execAndi stall d a imm st := rfl
theorem exec_ori {stall} {d} {a} {imm} (st : State) : exec (.ori stall d a imm) st = execOri stall d a imm st := rfl
theorem exec_xori {stall} {d} {a} {imm} (st : State) : exec (.xori stall d a imm) st = execXori stall d a imm st := rfl
theorem exec_slli {stall} {d} {a} {k} (st : State) : exec (.slli stall d a k) st = execSlli stall d a k st := rfl
theorem exec_srli {stall} {d} {a} {k} (st : State) : exec (.srli stall d a k) st = execSrli stall d a k st := rfl
theorem exec_srai {stall} {d} {a} {k} (st : State) : exec (.srai stall d a k) st = execSrai stall d a k st := rfl
theorem exec_rotri {stall} {d} {a} {k} (st : State) : exec (.rotri stall d a k) st = execRotri stall d a k st := rfl
theorem exec_slti {stall} {d} {a} {imm} (st : State) : exec (.slti stall d a imm) st = execSlti stall d a imm st := rfl
theorem exec_sltni {stall} {d} {a} {imm} (st : State) : exec (.sltni stall d a imm) st = execSltni stall d a imm st := rfl
theorem exec_li {stall} {d} {imm} (st : State) : exec (.li stall d imm) st = execLi stall d imm st := rfl
theorem exec_sel {stall} {d} {a} {b} {p} (st : State) : exec (.sel stall d a b p) st = execSel stall d a b p st := rfl
theorem exec_pcmp {stall} {g} {c} {p} {a} {b} (st : State) : exec (.pcmp stall g c p a b) st = execPcmp stall g c p a b st := rfl
theorem exec_pcmpi {stall} {g} {c} {p} {a} {imm} (st : State) : exec (.pcmpi stall g c p a imm) st = execPcmpi stall g c p a imm st := rfl
theorem exec_beq {stall} {a} {b} {o} (st : State) : exec (.beq stall a b o) st = execBeq stall a b o st := rfl
theorem exec_bne {stall} {a} {b} {o} (st : State) : exec (.bne stall a b o) st = execBne stall a b o st := rfl
theorem exec_blt {stall} {a} {b} {o} (st : State) : exec (.blt stall a b o) st = execBlt stall a b o st := rfl
theorem exec_bge {stall} {a} {b} {o} (st : State) : exec (.bge stall a b o) st = execBge stall a b o st := rfl
theorem exec_bltn {stall} {a} {b} {o} (st : State) : exec (.bltn stall a b o) st = execBltn stall a b o st := rfl
theorem exec_bgen {stall} {a} {b} {o} (st : State) : exec (.bgen stall a b o) st = execBgen stall a b o st := rfl
theorem exec_bp {stall} {p} {n} {o} (st : State) : exec (.bp stall p n o) st = execBp stall p n o st := rfl
theorem exec_jal {stall} {o} (st : State) : exec (.jal stall o) st = execJal stall o st := rfl
theorem exec_jalr {stall} {d} {a} {imm} (st : State) : exec (.jalr stall d a imm) st = execJalr stall d a imm st := rfl
theorem exec_loop {stall} {a} {b} {o} (st : State) : exec (.loop stall a b o) st = execLoop stall a b o st := rfl
theorem exec_fadd {stall} {d} {a} {b} (st : State) : exec (.fadd stall d a b) st = execFadd stall d a b st := rfl
theorem exec_fsub {stall} {d} {a} {b} (st : State) : exec (.fsub stall d a b) st = execFsub stall d a b st := rfl
theorem exec_fmul {stall} {d} {a} {b} (st : State) : exec (.fmul stall d a b) st = execFmul stall d a b st := rfl
theorem exec_fmin {stall} {d} {a} {b} (st : State) : exec (.fmin stall d a b) st = execFmin stall d a b st := rfl
theorem exec_fmax {stall} {d} {a} {b} (st : State) : exec (.fmax stall d a b) st = execFmax stall d a b st := rfl
theorem exec_fdiv {stall} {d} {a} {b} (st : State) : exec (.fdiv stall d a b) st = execFdiv stall d a b st := rfl
theorem exec_fsqrt {stall} {d} {a} (st : State) : exec (.fsqrt stall d a) st = execFsqrt stall d a st := rfl
theorem exec_fsgn {stall} {d} {a} {b} (st : State) : exec (.fsgn stall d a b) st = execFsgn stall d a b st := rfl
theorem exec_ffma {stall} {d} {a} {b} (st : State) : exec (.ffma stall d a b) st = execFfma stall d a b st := rfl
theorem exec_ffms {stall} {d} {a} {b} (st : State) : exec (.ffms stall d a b) st = execFfms stall d a b st := rfl
theorem exec_fcvtfi {stall} {d} {a} (st : State) : exec (.fcvtfi stall d a) st = execFcvtfi stall d a st := rfl
theorem exec_fcvtif {stall} {d} {a} (st : State) : exec (.fcvtif stall d a) st = execFcvtif stall d a st := rfl
theorem exec_fcvtifz {stall} {d} {a} (st : State) : exec (.fcvtifz stall d a) st = execFcvtifz stall d a st := rfl
theorem exec_fclass {stall} {d} {a} (st : State) : exec (.fclass stall d a) st = execFclass stall d a st := rfl
theorem exec_fbf {stall} {d} {a} (st : State) : exec (.fbf stall d a) st = execFbf stall d a st := rfl
theorem exec_fbfx {stall} {d} {a} (st : State) : exec (.fbfx stall d a) st = execFbfx stall d a st := rfl
theorem exec_feq {stall} {d} {a} {b} (st : State) : exec (.feq stall d a b) st = execFeq stall d a b st := rfl
theorem exec_flt {stall} {d} {a} {b} (st : State) : exec (.flt stall d a b) st = execFlt stall d a b st := rfl
theorem exec_fle {stall} {d} {a} {b} (st : State) : exec (.fle stall d a b) st = execFle stall d a b st := rfl
theorem exec_funord {stall} {d} {a} {b} (st : State) : exec (.funord stall d a b) st = execFunord stall d a b st := rfl
theorem exec_sfunExp2 {stall} {d} {a} (st : State) : exec (.sfunExp2 stall d a) st = execSfunExp2 stall d a st := rfl
theorem exec_sfunLog2 {stall} {d} {a} (st : State) : exec (.sfunLog2 stall d a) st = execSfunLog2 stall d a st := rfl
theorem exec_sfunRcp {stall} {d} {a} (st : State) : exec (.sfunRcp stall d a) st = execSfunRcp stall d a st := rfl
theorem exec_sfunRsqrt {stall} {d} {a} (st : State) : exec (.sfunRsqrt stall d a) st = execSfunRsqrt stall d a st := rfl
theorem exec_sfunSinpi {stall} {d} {a} (st : State) : exec (.sfunSinpi stall d a) st = execSfunSinpi stall d a st := rfl
theorem exec_sfunCospi {stall} {d} {a} (st : State) : exec (.sfunCospi stall d a) st = execSfunCospi stall d a st := rfl
theorem exec_sfunTanh {stall} {d} {a} (st : State) : exec (.sfunTanh stall d a) st = execSfunTanh stall d a st := rfl
theorem exec_sfunSigmoid {stall} {d} {a} (st : State) : exec (.sfunSigmoid stall d a) st = execSfunSigmoid stall d a st := rfl
theorem exec_pref {stall} {d} {a} {b} (st : State) : exec (.pref stall d a b) st = execPref stall d a b st := rfl
theorem exec_tclass {stall} {d} {a} {b} (st : State) : exec (.tclass stall d a b) st = execTclass stall d a b st := rfl
theorem exec_brhint {stall} {d} {a} {b} (st : State) : exec (.brhint stall d a b) st = execBrhint stall d a b st := rfl
theorem exec_hintFallback {stall} {d} {a} {b} {f} {hi} (st : State) : exec (.hintFallback stall d a b f hi) st = execHintFallback stall d a b f hi st := rfl
theorem exec_ld {stall} {d} {c} {l} {m} {z} {o} (st : State) : exec (.ld stall d c l m z o) st = execLd stall d c l m z o st := rfl
theorem exec_st {stall} {d} {c} {l} {o} (st : State) : exec (.st stall d c l o) st = execSt stall d c l o st := rfl
theorem exec_amoRlx {stall} {d} {c} {l} {op} (st : State) : exec (.amoRlx stall d c l op) st = execAmoRlx stall d c l op st := rfl
theorem exec_amoAcq {stall} {d} {c} {l} {op} (st : State) : exec (.amoAcq stall d c l op) st = execAmoAcq stall d c l op st := rfl
theorem exec_amoRel {stall} {d} {c} {l} {op} (st : State) : exec (.amoRel stall d c l op) st = execAmoRel stall d c l op st := rfl
theorem exec_amoAr {stall} {d} {c} {l} {op} (st : State) : exec (.amoAr stall d c l op) st = execAmoAr stall d c l op st := rfl
theorem exec_fenceFull {stall} {q} (st : State) : exec (.fenceFull stall q) st = execFenceFull stall q st := rfl
theorem exec_fenceAcq {stall} {q} (st : State) : exec (.fenceAcq stall q) st = execFenceAcq stall q st := rfl
theorem exec_fenceRel {stall} {q} (st : State) : exec (.fenceRel stall q) st = execFenceRel stall q st := rfl
theorem exec_fenceAlias {stall} {q} (st : State) : exec (.fenceAlias stall q) st = execFenceAlias stall q st := rfl
theorem exec_send {stall} {d} {c} {l} {w} (st : State) : exec (.send stall d c l w) st = execSend stall d c l w st := rfl
theorem exec_sendRel {stall} {d} {c} {l} {w} (st : State) : exec (.sendRel stall d c l w) st = execSendRel stall d c l w st := rfl
theorem exec_recv {stall} {d} {l} {w} (st : State) : exec (.recv stall d l w) st = execRecv stall d l w st := rfl
theorem exec_recvAcq {stall} {d} {l} {w} (st : State) : exec (.recvAcq stall d l w) st = execRecvAcq stall d l w st := rfl
theorem exec_cpy {stall} {d} {c} (st : State) : exec (.cpy stall d c) st = execCpy stall d c st := rfl
theorem exec_sbindR {stall} {m} {c} {l} (st : State) : exec (.sbindR stall m c l) st = execSbindR stall m c l st := rfl
theorem exec_sbindW {stall} {m} {c} {l} (st : State) : exec (.sbindW stall m c l) st = execSbindW stall m c l st := rfl
theorem exec_sctlUnbind {stall} {m} (st : State) : exec (.sctlUnbind stall m) st = execSctlUnbind stall m st := rfl
theorem exec_sctlPos {stall} {d} {m} (st : State) : exec (.sctlPos stall d m) st = execSctlPos stall d m st := rfl
theorem exec_barCore {stall} {a} (st : State) : exec (.barCore stall a) st = execBarCore stall a st := rfl
theorem exec_barTile {stall} {a} (st : State) : exec (.barTile stall a) st = execBarTile stall a st := rfl
theorem exec_barGrid {stall} (st : State) : exec (.barGrid stall) st = execBarGrid stall st := rfl
theorem exec_gaddr {stall} {d} {c} {l} (st : State) : exec (.gaddr stall d c l) st = execGaddr stall d c l st := rfl
theorem exec_illegal {w} (st : State) : exec (.illegal w) st = execIllegal w st := rfl
theorem exec_vclaim {stall} {d} {a} (st : State) : exec (.vclaim stall d a) st = execVclaim stall d a st := rfl
theorem exec_vyield {stall} (st : State) : exec (.vyield stall) st = execVyield stall st := rfl
theorem exec_vreneg {stall} {d} {a} (st : State) : exec (.vreneg stall d a) st = execVreneg stall d a st := rfl
theorem exec_vadd {stall} {d} {a} {b} {w} {k} (st : State) : exec (.vadd stall d a b w k) st = execVadd stall d a b w k st := rfl
theorem exec_vsub {stall} {d} {a} {b} {w} {k} (st : State) : exec (.vsub stall d a b w k) st = execVsub stall d a b w k st := rfl
theorem exec_vmul {stall} {d} {a} {b} {w} {k} (st : State) : exec (.vmul stall d a b w k) st = execVmul stall d a b w k st := rfl
theorem exec_vmulh {stall} {d} {a} {b} {w} {k} (st : State) : exec (.vmulh stall d a b w k) st = execVmulh stall d a b w k st := rfl
theorem exec_vand {stall} {d} {a} {b} {w} {k} (st : State) : exec (.vand stall d a b w k) st = execVand stall d a b w k st := rfl
theorem exec_vor {stall} {d} {a} {b} {w} {k} (st : State) : exec (.vor stall d a b w k) st = execVor stall d a b w k st := rfl
theorem exec_vxor {stall} {d} {a} {b} {w} {k} (st : State) : exec (.vxor stall d a b w k) st = execVxor stall d a b w k st := rfl
theorem exec_vsll {stall} {d} {a} {b} {w} {k} (st : State) : exec (.vsll stall d a b w k) st = execVsll stall d a b w k st := rfl
theorem exec_vsrl {stall} {d} {a} {b} {w} {k} (st : State) : exec (.vsrl stall d a b w k) st = execVsrl stall d a b w k st := rfl
theorem exec_vsra {stall} {d} {a} {b} {w} {k} (st : State) : exec (.vsra stall d a b w k) st = execVsra stall d a b w k st := rfl
theorem exec_vmin {stall} {d} {a} {b} {w} {k} (st : State) : exec (.vmin stall d a b w k) st = execVmin stall d a b w k st := rfl
theorem exec_vmax {stall} {d} {a} {b} {w} {k} (st : State) : exec (.vmax stall d a b w k) st = execVmax stall d a b w k st := rfl
theorem exec_vminn {stall} {d} {a} {b} {w} {k} (st : State) : exec (.vminn stall d a b w k) st = execVminn stall d a b w k st := rfl
theorem exec_vmaxn {stall} {d} {a} {b} {w} {k} (st : State) : exec (.vmaxn stall d a b w k) st = execVmaxn stall d a b w k st := rfl
theorem exec_vadds {stall} {d} {a} {b} {w} {k} (st : State) : exec (.vadds stall d a b w k) st = execVadds stall d a b w k st := rfl
theorem exec_vsubs {stall} {d} {a} {b} {w} {k} (st : State) : exec (.vsubs stall d a b w k) st = execVsubs stall d a b w k st := rfl
theorem exec_vfadd {stall} {d} {a} {b} {w} {k} (st : State) : exec (.vfadd stall d a b w k) st = execVfadd stall d a b w k st := rfl
theorem exec_vfsub {stall} {d} {a} {b} {w} {k} (st : State) : exec (.vfsub stall d a b w k) st = execVfsub stall d a b w k st := rfl
theorem exec_vfmul {stall} {d} {a} {b} {w} {k} (st : State) : exec (.vfmul stall d a b w k) st = execVfmul stall d a b w k st := rfl
theorem exec_vffma {stall} {d} {a} {b} {w} {k} (st : State) : exec (.vffma stall d a b w k) st = execVffma stall d a b w k st := rfl
theorem exec_vffms {stall} {d} {a} {b} {w} {k} (st : State) : exec (.vffms stall d a b w k) st = execVffms stall d a b w k st := rfl
theorem exec_vfmin {stall} {d} {a} {b} {w} {k} (st : State) : exec (.vfmin stall d a b w k) st = execVfmin stall d a b w k st := rfl
theorem exec_vfmax {stall} {d} {a} {b} {w} {k} (st : State) : exec (.vfmax stall d a b w k) st = execVfmax stall d a b w k st := rfl
theorem exec_vfdiv {stall} {d} {a} {b} {w} {k} (st : State) : exec (.vfdiv stall d a b w k) st = execVfdiv stall d a b w k st := rfl
theorem exec_vfsqrt {stall} {d} {a} {w} {k} (st : State) : exec (.vfsqrt stall d a w k) st = execVfsqrt stall d a w k st := rfl
theorem exec_vfabs {stall} {d} {a} {w} {k} (st : State) : exec (.vfabs stall d a w k) st = execVfabs stall d a w k st := rfl
theorem exec_vfneg {stall} {d} {a} {w} {k} (st : State) : exec (.vfneg stall d a w k) st = execVfneg stall d a w k st := rfl
theorem exec_vfexp2 {stall} {d} {a} {w} {k} (st : State) : exec (.vfexp2 stall d a w k) st = execVfexp2 stall d a w k st := rfl
theorem exec_vflog2 {stall} {d} {a} {w} {k} (st : State) : exec (.vflog2 stall d a w k) st = execVflog2 stall d a w k st := rfl
theorem exec_vfrcp {stall} {d} {a} {w} {k} (st : State) : exec (.vfrcp stall d a w k) st = execVfrcp stall d a w k st := rfl
theorem exec_vfrsqrt {stall} {d} {a} {w} {k} (st : State) : exec (.vfrsqrt stall d a w k) st = execVfrsqrt stall d a w k st := rfl
theorem exec_vsplat {stall} {d} {b} {k} (st : State) : exec (.vsplat stall d b k) st = execVsplat stall d b k st := rfl
theorem exec_vextr {stall} {imm} {a} {b} {j} (st : State) : exec (.vextr stall imm a b j) st = execVextr stall imm a b j st := rfl
theorem exec_vins {stall} {d} {imm} {b} {j} (st : State) : exec (.vins stall d imm b j) st = execVins stall d imm b j st := rfl
theorem exec_vgaddr {stall} {d} {a} {b} {k} (st : State) : exec (.vgaddr stall d a b k) st = execVgaddr stall d a b k st := rfl
theorem exec_vld {stall} {d} {l} {c} {k} (st : State) : exec (.vld stall d l c k) st = execVld stall d l c k st := rfl
theorem exec_vst {stall} {d} {l} {c} {k} (st : State) : exec (.vst stall d l c k) st = execVst stall d l c k st := rfl
theorem exec_vlds {stall} {d} {l} {c} {k} (st : State) : exec (.vlds stall d l c k) st = execVlds stall d l c k st := rfl
theorem exec_vsts {stall} {d} {l} {c} {k} (st : State) : exec (.vsts stall d l c k) st = execVsts stall d l c k st := rfl
theorem exec_vgath {stall} {d} {l} {c} {k} (st : State) : exec (.vgath stall d l c k) st = execVgath stall d l c k st := rfl
theorem exec_vscat {stall} {d} {l} {c} {k} (st : State) : exec (.vscat stall d l c k) st = execVscat stall d l c k st := rfl
theorem exec_vpop {stall} {d} {m} {k} (st : State) : exec (.vpop stall d m k) st = execVpop stall d m k st := rfl
theorem exec_vpush {stall} {d} {m} (st : State) : exec (.vpush stall d m) st = execVpush stall d m st := rfl
theorem exec_vrsum {stall} {d} {a} {b} {k} (st : State) : exec (.vrsum stall d a b k) st = execVrsum stall d a b k st := rfl
theorem exec_vrfsum {stall} {d} {a} {b} {k} (st : State) : exec (.vrfsum stall d a b k) st = execVrfsum stall d a b k st := rfl
theorem exec_vrmin {stall} {d} {a} {b} {k} (st : State) : exec (.vrmin stall d a b k) st = execVrmin stall d a b k st := rfl
theorem exec_vrmax {stall} {d} {a} {b} {k} (st : State) : exec (.vrmax stall d a b k) st = execVrmax stall d a b k st := rfl
theorem exec_vrfmin {stall} {d} {a} {b} {k} (st : State) : exec (.vrfmin stall d a b k) st = execVrfmin stall d a b k st := rfl
theorem exec_vrfmax {stall} {d} {a} {b} {k} (st : State) : exec (.vrfmax stall d a b k) st = execVrfmax stall d a b k st := rfl
theorem exec_vrecvadd {stall} {d} {n} (st : State) : exec (.vrecvadd stall d n) st = execVrecvadd stall d n st := rfl
theorem exec_vpackl6 {stall} {d} {a} (st : State) : exec (.vpackl6 stall d a) st = execVpackl6 stall d a st := rfl
theorem exec_vunpkl6 {stall} {d} {a} (st : State) : exec (.vunpkl6 stall d a) st = execVunpkl6 stall d a st := rfl
theorem exec_vquant {stall} {d} {a} (st : State) : exec (.vquant stall d a) st = execVquant stall d a st := rfl
theorem exec_vdeq {stall} {d} {a} {b} (st : State) : exec (.vdeq stall d a b) st = execVdeq stall d a b st := rfl
theorem exec_vcvtbf {stall} {d} {a} (st : State) : exec (.vcvtbf stall d a) st = execVcvtbf stall d a st := rfl
theorem exec_vcvtf {stall} {d} {a} (st : State) : exec (.vcvtf stall d a) st = execVcvtf stall d a st := rfl
theorem exec_baddq {stall} {d} {a} {b} (st : State) : exec (.baddq stall d a b) st = execBaddq stall d a b st := rfl
theorem exec_vpermv {stall} {d} {a} {b} {k} (st : State) : exec (.vpermv stall d a b k) st = execVpermv stall d a b k st := rfl
theorem exec_vslup {stall} {d} {a} {n} {k} (st : State) : exec (.vslup stall d a n k) st = execVslup stall d a n k st := rfl
theorem exec_vsldn {stall} {d} {a} {n} {k} (st : State) : exec (.vsldn stall d a n k) st = execVsldn stall d a n k st := rfl
theorem exec_vmerge {stall} {d} {a} {b} {k} (st : State) : exec (.vmerge stall d a b k) st = execVmerge stall d a b k st := rfl
theorem exec_vkand {stall} {d} {a} {b} (st : State) : exec (.vkand stall d a b) st = execVkand stall d a b st := rfl
theorem exec_vkor {stall} {d} {a} {b} (st : State) : exec (.vkor stall d a b) st = execVkor stall d a b st := rfl
theorem exec_vkxor {stall} {d} {a} {b} (st : State) : exec (.vkxor stall d a b) st = execVkxor stall d a b st := rfl
theorem exec_vknot {stall} {d} {a} (st : State) : exec (.vknot stall d a) st = execVknot stall d a st := rfl
theorem exec_vcmp {stall} {d} {a} {b} {c} {k} (st : State) : exec (.vcmp stall d a b c k) st = execVcmp stall d a b c k st := rfl
theorem exec_repf {stall} {d} {n} {x} {y} {z} (st : State) : exec (.repf stall d n x y z) st = execRepf stall d n x y z st := rfl
theorem exec_mlease {stall} (st : State) : exec (.mlease stall) st = execMlease stall st := rfl
theorem exec_mleaseRel {stall} (st : State) : exec (.mleaseRel stall) st = execMleaseRel stall st := rfl
theorem exec_mloads {stall} {x} {l} {p} (st : State) : exec (.mloads stall x l p) st = execMloads stall x l p st := rfl
theorem exec_mloadsFb {stall} {b} {t} (st : State) : exec (.mloadsFb stall b t) st = execMloadsFb stall b t st := rfl
theorem exec_mswap {stall} (st : State) : exec (.mswap stall) st = execMswap stall st := rfl
theorem exec_mma {stall} {d} {x} {m} {l} {z} {c} {p} (st : State) : exec (.mma stall d x m l z c p) st = execMma stall d x m l z c p st := rfl
theorem exec_mmaFb {stall} {d} {b} {x} {z} {t} (st : State) : exec (.mmaFb stall d b x z t) st = execMmaFb stall d b x z t st := rfl
theorem exec_miterNs3 {stall} {d} {x} {n} (st : State) : exec (.miterNs3 stall d x n) st = execMiterNs3 stall d x n st := rfl
theorem exec_miterNs5 {stall} {d} {x} {n} (st : State) : exec (.miterNs5 stall d x n) st = execMiterNs5 stall d x n st := rfl
theorem exec_miterInv {stall} {d} {b} {x} {n} (st : State) : exec (.miterInv stall d b x n) st = execMiterInv stall d b x n st := rfl
theorem exec_mpoly {stall} {d} {x} {n} (st : State) : exec (.mpoly stall d x n) st = execMpoly stall d x n st := rfl
theorem exec_mzero {stall} {d} (st : State) : exec (.mzero stall d) st = execMzero stall d st := rfl
theorem exec_mdrain {stall} {d} {x} {m} {z} {t} {h} {u} (st : State) : exec (.mdrain stall d x m z t h u) st = execMdrain stall d x m z t h u st := rfl
theorem exec_mtov {stall} {d} {x} {t} {h} (st : State) : exec (.mtov stall d x t h) st = execMtov stall d x t h st := rfl
theorem exec_mcoef {stall} {n} {x} (st : State) : exec (.mcoef stall n x) st = execMcoef stall n x st := rfl
theorem exec_mcoefR {stall} {n} {x} (st : State) : exec (.mcoefR stall n x) st = execMcoefR stall n x st := rfl
theorem exec_mstatWait {stall} {x} (st : State) : exec (.mstatWait stall x) st = execMstatWait stall x st := rfl
theorem exec_mstatGrp {stall} {x} (st : State) : exec (.mstatGrp stall x) st = execMstatGrp stall x st := rfl
theorem exec_mstatPlane {stall} {x} (st : State) : exec (.mstatPlane stall x) st = execMstatPlane stall x st := rfl
theorem exec_mstatCmds {stall} {x} (st : State) : exec (.mstatCmds stall x) st = execMstatCmds stall x st := rfl
theorem exec_macca {stall} {n} (st : State) : exec (.macca stall n) st = execMacca stall n st := rfl
theorem exec_trap {stall} {a} (st : State) : exec (.trap stall a) st = execTrap stall a st := rfl
theorem exec_eret {stall} (st : State) : exec (.eret stall) st = execEret stall st := rfl
theorem exec_csrr {stall} {d} {h} {g} (st : State) : exec (.csrr stall d h g) st = execCsrr stall d h g st := rfl
theorem exec_csrw {stall} {h} {a} {g} (st : State) : exec (.csrw stall h a g) st = execCsrw stall h a g st := rfl
theorem exec_tspawn {stall} {d} {a} (st : State) : exec (.tspawn stall d a) st = execTspawn stall d a st := rfl
theorem exec_texit {stall} (st : State) : exec (.texit stall) st = execTexit stall st := rfl
theorem exec_tyield {stall} (st : State) : exec (.tyield stall) st = execTyield stall st := rfl
theorem exec_taskget {stall} {d} (st : State) : exec (.taskget stall d) st = execTaskget stall d st := rfl
theorem exec_taskput {stall} {d} {a} (st : State) : exec (.taskput stall d a) st = execTaskput stall d a st := rfl
theorem exec_migrate {stall} {a} (st : State) : exec (.migrate stall a) st = execMigrate stall a st := rfl
theorem exec_follow {stall} {a} (st : State) : exec (.follow stall a) st = execFollow stall a st := rfl
theorem exec_unfollow {stall} (st : State) : exec (.unfollow stall) st = execUnfollow stall st := rfl
theorem exec_symwait {stall} {d} {a} {y} (st : State) : exec (.symwait stall d a y) st = execSymwait stall d a y st := rfl
theorem exec_symq {stall} {d} {a} (st : State) : exec (.symq stall d a) st = execSymq stall d a st := rfl
theorem exec_time {stall} {d} {g} (st : State) : exec (.time stall d g) st = execTime stall d g st := rfl
theorem exec_setfmt {stall} {d} {a} (st : State) : exec (.setfmt stall d a) st = execSetfmt stall d a st := rfl
theorem exec_rlwait {stall} {a} (st : State) : exec (.rlwait stall a) st = execRlwait stall a st := rfl
theorem exec_tlbinv {stall} {a} {f} {u} (st : State) : exec (.tlbinv stall a f u) st = execTlbinv stall a f u st := rfl
theorem exec_halt {stall} (st : State) : exec (.halt stall) st = execHalt stall st := rfl
theorem exec_cancelLaunch {stall} (st : State) : exec (.cancelLaunch stall) st = execCancelLaunch stall st := rfl
theorem exec_cancelGraph {stall} (st : State) : exec (.cancelGraph stall) st = execCancelGraph stall st := rfl
theorem exec_cancelPhase {stall} (st : State) : exec (.cancelPhase stall) st = execCancelPhase stall st := rfl
theorem exec_cancelJob {stall} (st : State) : exec (.cancelJob stall) st = execCancelJob stall st := rfl
theorem exec_imx {imm} {w} (st : State) : exec (.imx imm w) st = execImx imm w st := rfl
theorem exec_stallCountExpiry {t} (st : State) : exec (.stallCountExpiry t) st = execStallCountExpiry t st := rfl
theorem exec_fixedLatencyDelivery {t} (st : State) : exec (.fixedLatencyDelivery t) st = execFixedLatencyDelivery t st := rfl
theorem exec_dispatch {tile} (st : State) : exec (.dispatch tile) st = execDispatch tile st := rfl
theorem exec_threadKill {t} (st : State) : exec (.threadKill t) st = execThreadKill t st := rfl
theorem exec_levellerSample {tile} (st : State) : exec (.levellerSample tile) st = execLevellerSample tile st := rfl
theorem exec_levellerShipmentArrival {item} (st : State) : exec (.levellerShipmentArrival item) st = execLevellerShipmentArrival item st := rfl
theorem exec_migrantCreate {tile} (st : State) : exec (.migrantCreate tile) st = execMigrantCreate tile st := rfl
theorem exec_fieldOffsetRelease {part} {slot} {field} (st : State) : exec (.fieldOffsetRelease part slot field) st = execFieldOffsetRelease part slot field st := rfl
theorem exec_refreshWindowOpen {berth} {bad} (st : State) : exec (.refreshWindowOpen berth bad) st = execRefreshWindowOpen berth bad st := rfl
theorem exec_refreshWindowClose {berth} (st : State) : exec (.refreshWindowClose berth) st = execRefreshWindowClose berth st := rfl
theorem exec_niSend {berth} (st : State) : exec (.niSend berth) st = execNiSend berth st := rfl
theorem exec_itemArrival {item} (st : State) : exec (.itemArrival item) st = execItemArrival item st := rfl
theorem exec_itemReturn {item} (st : State) : exec (.itemReturn item) st = execItemReturn item st := rfl
theorem exec_spillwayAppend {tile} (st : State) : exec (.spillwayAppend tile) st = execSpillwayAppend tile st := rfl
theorem exec_spillwayReplay {tile} (st : State) : exec (.spillwayReplay tile) st = execSpillwayReplay tile st := rfl
theorem exec_heldMessageMove {tile} (st : State) : exec (.heldMessageMove tile) st = execHeldMessageMove tile st := rfl
theorem exec_accessPerformed {access} {ecc} (st : State) : exec (.accessPerformed access ecc) st = execAccessPerformed access ecc st := rfl
theorem exec_resultDelivery {tile} {core} {entry} (st : State) : exec (.resultDelivery tile core entry) st = execResultDelivery tile core entry st := rfl
theorem exec_peerWriteAck {item} (st : State) : exec (.peerWriteAck item) st = execPeerWriteAck item st := rfl
theorem exec_combiningBufferTimeout {t} (st : State) : exec (.combiningBufferTimeout t) st = execCombiningBufferTimeout t st := rfl
theorem exec_probeEcho {t} {group} (st : State) : exec (.probeEcho t group) st = execProbeEcho t group st := rfl
theorem exec_registrationEnter {tile} {reg} (st : State) : exec (.registrationEnter tile reg) st = execRegistrationEnter tile reg st := rfl
theorem exec_streamFetch {t} {stream} {ecc} (st : State) : exec (.streamFetch t stream ecc) st = execStreamFetch t stream ecc st := rfl
theorem exec_streamDrain {t} {stream} {ecc} (st : State) : exec (.streamDrain t stream ecc) st = execStreamDrain t stream ecc st := rfl
theorem exec_copyAccept {tile} {queue} (st : State) : exec (.copyAccept tile queue) st = execCopyAccept tile queue st := rfl
theorem exec_copyComplete {tile} {queue} (st : State) : exec (.copyComplete tile queue) st = execCopyComplete tile queue st := rfl
theorem exec_sfuStart {tile} (st : State) : exec (.sfuStart tile) st = execSfuStart tile st := rfl
theorem exec_sfuResult {tile} (st : State) : exec (.sfuResult tile) st = execSfuResult tile st := rfl
theorem exec_vectorComplete {tile} {ctx} {bad} (st : State) : exec (.vectorComplete tile ctx bad) st = execVectorComplete tile ctx bad st := rfl
theorem exec_leaseBudgetSpent {tile} (st : State) : exec (.leaseBudgetSpent tile) st = execLeaseBudgetSpent tile st := rfl
theorem exec_planeReloadComplete {tile} {shadow} (st : State) : exec (.planeReloadComplete tile shadow) st = execPlaneReloadComplete tile shadow st := rfl
theorem exec_planeLoadComplete {tile} {bad} (st : State) : exec (.planeLoadComplete tile bad) st = execPlaneLoadComplete tile bad st := rfl
theorem exec_matrixCommandComplete {tile} (st : State) : exec (.matrixCommandComplete tile) st = execMatrixCommandComplete tile st := rfl
theorem exec_mmaOperandFault {tile} (st : State) : exec (.mmaOperandFault tile) st = execMmaOperandFault tile st := rfl
theorem exec_miterStepComplete {tile} (st : State) : exec (.miterStepComplete tile) st = execMiterStepComplete tile st := rfl
theorem exec_weirStep {field} (st : State) : exec (.weirStep field) st = execWeirStep field st := rfl
theorem exec_rampDownEnd {tile} (st : State) : exec (.rampDownEnd tile) st = execRampDownEnd tile st := rfl
theorem exec_wakeTokenTake {field} (st : State) : exec (.wakeTokenTake field) st = execWakeTokenTake field st := rfl
theorem exec_wakeComplete {field} {seg} (st : State) : exec (.wakeComplete field seg) st = execWakeComplete field seg st := rfl
theorem exec_segmentPowerDown {seg} (st : State) : exec (.segmentPowerDown seg) st = execSegmentPowerDown seg st := rfl
theorem exec_doorbell {port} {func} {queue} {tail} (st : State) : exec (.doorbell port func queue tail) st = execDoorbell port func queue tail st := rfl
theorem exec_dispatcherTake {part} {hostError} (st : State) : exec (.dispatcherTake part hostError) st = execDispatcherTake part hostError st := rfl
theorem exec_launch {cmd} (st : State) : exec (.launch cmd) st = execLaunch cmd st := rfl
theorem exec_hostCancelLaunch {cmd} (st : State) : exec (.hostCancelLaunch cmd) st = execHostCancelLaunch cmd st := rfl
theorem exec_hostCancelGraph {cmd} (st : State) : exec (.hostCancelGraph cmd) st = execHostCancelGraph cmd st := rfl
theorem exec_hostCancelPhase {cmd} (st : State) : exec (.hostCancelPhase cmd) st = execHostCancelPhase cmd st := rfl
theorem exec_hostCancelJob {cmd} (st : State) : exec (.hostCancelJob cmd) st = execHostCancelJob cmd st := rfl
theorem exec_phase {cmd} (st : State) : exec (.phase cmd) st = execPhase cmd st := rfl
theorem exec_endjob {cmd} (st : State) : exec (.endjob cmd) st = execEndjob cmd st := rfl
theorem exec_nop {cmd} (st : State) : exec (.nop cmd) st = execNop cmd st := rfl
theorem exec_admission {part} {fit} (st : State) : exec (.admission part fit) st = execAdmission part fit st := rfl
theorem exec_counterQueryJob {part} (st : State) : exec (.counterQueryJob part) st = execCounterQueryJob part st := rfl
theorem exec_counterQueryPhase {part} (st : State) : exec (.counterQueryPhase part) st = execCounterQueryPhase part st := rfl
theorem exec_counterQueryGraph {part} (st : State) : exec (.counterQueryGraph part) st = execCounterQueryGraph part st := rfl
theorem exec_pcauseClear {part} {v} (st : State) : exec (.pcauseClear part v) st = execPcauseClear part v st := rfl
theorem exec_niinv {berth} {slot} {num} (st : State) : exec (.niinv berth slot num) st = execNiinv berth slot num st := rfl
theorem exec_modcapWrite {v} (st : State) : exec (.modcapWrite v) st = execModcapWrite v st := rfl
theorem exec_registerWrite {reg} {v} {secure} (st : State) : exec (.registerWrite reg v secure) st = execRegisterWrite reg v secure st := rfl
theorem exec_sliceEnd {part} {slot} {gang} (st : State) : exec (.sliceEnd part slot gang) st = execSliceEnd part slot gang st := rfl
theorem exec_summons {part} (st : State) : exec (.summons part) st = execSummons part st := rfl
theorem exec_saveComplete {part} {slot} {gang} (st : State) : exec (.saveComplete part slot gang) st = execSaveComplete part slot gang st := rfl
theorem exec_saveAbort {part} {slot} {gang} {berth} (st : State) : exec (.saveAbort part slot gang berth) st = execSaveAbort part slot gang berth st := rfl
theorem exec_restoreComplete {part} {slot} {gang} (st : State) : exec (.restoreComplete part slot gang) st = execRestoreComplete part slot gang st := rfl
theorem exec_checkpointWriteAck {berth} {line} (st : State) : exec (.checkpointWriteAck berth line) st = execCheckpointWriteAck berth line st := rfl
theorem exec_relocationStart {tile} {berth} (st : State) : exec (.relocationStart tile berth) st = execRelocationStart tile berth st := rfl
theorem exec_relocationCutover {tile} (st : State) : exec (.relocationCutover tile) st = execRelocationCutover tile st := rfl
theorem exec_relocationRestore {tile} (st : State) : exec (.relocationRestore tile) st = execRelocationRestore tile st := rfl
theorem exec_relocationEnd {tile} (st : State) : exec (.relocationEnd tile) st = execRelocationEnd tile st := rfl
theorem exec_invalidation {berth} {tile} (st : State) : exec (.invalidation berth tile) st = execInvalidation berth tile st := rfl
theorem exec_walkComplete {field} {walk} (st : State) : exec (.walkComplete field walk) st = execWalkComplete field walk st := rfl
theorem exec_fwResume {t} {clean} (st : State) : exec (.fwResume t clean) st = execFwResume t clean st := rfl
theorem exec_fwForward {t} (st : State) : exec (.fwForward t) st = execFwForward t st := rfl
theorem exec_fwKill {t} (st : State) : exec (.fwKill t) st = execFwKill t st := rfl
theorem exec_pairTimeout {t} (st : State) : exec (.pairTimeout t) st = execPairTimeout t st := rfl
theorem exec_linkItemArrival {link} (st : State) : exec (.linkItemArrival link) st = execLinkItemArrival link st := rfl
theorem exec_remoteWriteAck {link} {id} (st : State) : exec (.remoteWriteAck link id) st = execRemoteWriteAck link id st := rfl
theorem exec_flitCrcFail {link} (st : State) : exec (.flitCrcFail link) st = execFlitCrcFail link st := rfl
theorem exec_linkRetrain {link} {lanes} (st : State) : exec (.linkRetrain link lanes) st = execLinkRetrain link lanes st := rfl
theorem exec_linkFailure {link} (st : State) : exec (.linkFailure link) st = execLinkFailure link st := rfl
theorem exec_remoteWriteAbandon {id} (st : State) : exec (.remoteWriteAbandon id) st = execRemoteWriteAbandon id st := rfl
theorem exec_routerFailure {berth} (st : State) : exec (.routerFailure berth) st = execRouterFailure berth st := rfl
theorem exec_moduleReset {powerOn} {verified} (st : State) : exec (.moduleReset powerOn verified) st = execModuleReset powerOn verified st := rfl
theorem exec_selfTest {field} {failed} (st : State) : exec (.selfTest field failed) st = execSelfTest field failed st := rfl
theorem exec_laneRepair {field} {channels} {granules} (st : State) : exec (.laneRepair field channels granules) st = execLaneRepair field channels granules st := rfl
theorem exec_routeTableBuild {field} (st : State) : exec (.routeTableBuild field) st = execRouteTableBuild field st := rfl
theorem exec_timeCounterStart (st : State) : exec (.timeCounterStart) st = execTimeCounterStart st := rfl
theorem exec_seamMeasurement {lat} (st : State) : exec (.seamMeasurement lat) st = execSeamMeasurement lat st := rfl
theorem exec_worldAssignment (st : State) : exec (.worldAssignment) st = execWorldAssignment st := rfl
theorem exec_timeProbe {field} (st : State) : exec (.timeProbe field) st = execTimeProbe field st := rfl
theorem exec_timeProbeArrival {field} (st : State) : exec (.timeProbeArrival field) st = execTimeProbeArrival field st := rfl
theorem exec_timeReplyArrival {field} (st : State) : exec (.timeReplyArrival field) st = execTimeReplyArrival field st := rfl
theorem exec_defectReinstate {index} {count} {verified} (st : State) : exec (.defectReinstate index count verified) st = execDefectReinstate index count verified st := rfl
theorem exec_attestationReport {nonce} (st : State) : exec (.attestationReport nonce) st = execAttestationReport nonce st := rfl
theorem exec_granuleReassign {granule} {entry} (st : State) : exec (.granuleReassign granule entry) st = execGranuleReassign granule entry st := rfl
theorem exec_firmwareUpdate {part} {version} {verified} (st : State) : exec (.firmwareUpdate part version verified) st = execFirmwareUpdate part version verified st := rfl
theorem exec_coreRestart {tile} {core} (st : State) : exec (.coreRestart tile core) st = execCoreRestart tile core st := rfl
theorem exec_towpathFrame {payload} (st : State) : exec (.towpathFrame payload) st = execTowpathFrame payload st := rfl
theorem exec_hallSettingApply (st : State) : exec (.hallSettingApply) st = execHallSettingApply st := rfl
theorem exec_settingChange {part} {field} (st : State) : exec (.settingChange part field) st = execSettingChange part field st := rfl
theorem exec_budgetCheck {part} {power} (st : State) : exec (.budgetCheck part power) st = execBudgetCheck part power st := rfl
theorem exec_watchdogFeed {field} (st : State) : exec (.watchdogFeed field) st = execWatchdogFeed field st := rfl
theorem exec_watchdogTimeout {field} (st : State) : exec (.watchdogTimeout field) st = execWatchdogTimeout field st := rfl
theorem exec_sensorCheck {field} {readings} (st : State) : exec (.sensorCheck field readings) st = execSensorCheck field readings st := rfl
theorem exec_currentTrip {field} (st : State) : exec (.currentTrip field) st = execCurrentTrip field st := rfl
theorem exec_tripEnd {field} (st : State) : exec (.tripEnd field) st = execTripEnd field st := rfl
theorem exec_stopFlitArrival {flit} (st : State) : exec (.stopFlitArrival flit) st = execStopFlitArrival flit st := rfl
theorem exec_checkpointTimer {part} (st : State) : exec (.checkpointTimer part) st = execCheckpointTimer part st := rfl
theorem exec_checkpointSlotCleared {part} (st : State) : exec (.checkpointSlotCleared part) st = execCheckpointSlotCleared part st := rfl
theorem exec_checkpointCommit {part} (st : State) : exec (.checkpointCommit part) st = execCheckpointCommit part st := rfl
theorem exec_checkpointAbort {part} (st : State) : exec (.checkpointAbort part) st = execCheckpointAbort part st := rfl
theorem exec_itemAcknowledgement {item} (st : State) : exec (.itemAcknowledgement item) st = execItemAcknowledgement item st := rfl
theorem exec_powerLoss (st : State) : exec (.powerLoss) st = execPowerLoss st := rfl
theorem exec_quayTileQueueCompletion {id} (st : State) : exec (.quayTileQueueCompletion id) st = execQuayTileQueueCompletion id st := rfl

end Sys2Proof.Machine
end

