-- ==== Sys2Proof/Laws/Memory.lean ====
section
/-! SUPPORT. The laws of memory: a read after a write, and the canonical form, which every write keeps. -/

namespace Sys2Proof.Machine

/-! ## Reads after writes -/

theorem memGet_below {n a : Nat} {m : List Host.Cell} (h : memWfFrom n m) (ha : a < n) : memGet m a = unlistedByte := by
  induction m generalizing n with
  | nil => rfl
  | cons e m ih =>
    obtain ⟨k, b⟩ := e
    simp only [memWfFrom, Bool.and_eq_true, decide_eq_true_eq] at h
    rw [memGet, if_neg (by omega)]
    exact ih h.2 (by omega)

theorem memGet_memSet_same {m : List Host.Cell} {n : Nat} (h : memWfFrom n m) (a : Nat) (b : Byte) : memGet (memSet m a b) a = b := by
  induction m generalizing n with
  | nil => unfold memSet; split <;> simp_all [memGet]
  | cons e m ih =>
    obtain ⟨k, c⟩ := e
    simp only [memWfFrom, Bool.and_eq_true, decide_eq_true_eq] at h
    unfold memSet
    split
    · rename_i hk
      split
      · rename_i hb
        rw [memGet, if_neg (by omega), hb]
        exact memGet_below h.2 (by omega)
      · simp [memGet]
    · split
      · rename_i hk
        split
        · rename_i hb; rw [hb]; exact memGet_below h.2 (by omega)
        · simp [memGet]
      · rename_i hk
        rw [memGet, if_neg (Ne.symm hk)]
        exact ih h.2

theorem memGet_memSet_other (m : List Host.Cell) {a x : Nat} (b : Byte) (hx : x ≠ a) : memGet (memSet m a b) x = memGet m x := by
  induction m with
  | nil => unfold memSet; split <;> simp [memGet, Ne.symm hx]
  | cons e m ih =>
    obtain ⟨k, c⟩ := e
    unfold memSet
    split
    · split
      · rfl
      · rw [memGet, if_neg (Ne.symm hx)]
    · split
      · rename_i hk
        subst hk
        split <;> simp [memGet, Ne.symm hx]
      · by_cases hkx : k = x <;> simp [memGet, hkx, ih]

/-- A write of n bytes leaves every byte outside them as it was. -/
theorem memGet_memWrite_other (m : List Host.Cell) (a n v : Nat) {x : Nat} (hx : x < a ∨ a + n ≤ x) :
    memGet (memWrite m a n v) x = memGet m x := by
  induction n generalizing m a v with
  | zero => rfl
  | succ n ih => rw [memWrite, ih _ _ _ (by omega), memGet_memSet_other _ _ (by omega)]

theorem memGet_memWriteBytes_other (m : List Host.Cell) (a : Nat) (bs : List Byte) {x : Nat} (hx : x < a ∨ a + bs.length ≤ x) :
    memGet (memWriteBytes m a bs) x = memGet m x := by
  induction bs generalizing m a with
  | nil => rfl
  | cons b bs ih =>
    simp only [List.length_cons] at hx
    rw [memWriteBytes, ih _ _ (by omega), memGet_memSet_other _ _ (by omega)]

/-! ## The canonical form -/

theorem memWfFrom_mono {n k : Nat} {m : List Host.Cell} (h : memWfFrom n m) (hk : k ≤ n) : memWfFrom k m := by
  cases m with
  | nil => rfl
  | cons e m => simp only [memWfFrom, Bool.and_eq_true, decide_eq_true_eq] at h ⊢; exact ⟨⟨by omega, h.1.2⟩, h.2⟩

theorem memSet_wfFrom {n a : Nat} {m : List Host.Cell} (h : memWfFrom n m) (ha : n ≤ a) (b : Byte) : memWfFrom n (memSet m a b) := by
  induction m generalizing n with
  | nil => unfold memSet; split <;> simp_all [memWfFrom]
  | cons e m ih =>
    obtain ⟨k, c⟩ := e
    have h' := h
    simp only [memWfFrom, Bool.and_eq_true, decide_eq_true_eq, bne_iff_ne] at h
    unfold memSet
    split
    · split
      · exact h'
      · simp only [memWfFrom, Bool.and_eq_true, decide_eq_true_eq, bne_iff_ne]
        exact ⟨⟨ha, ‹_›⟩, ⟨⟨by omega, h.1.2⟩, h.2⟩⟩
    · split
      · split
        · exact memWfFrom_mono h.2 (by omega)
        · rename_i hk _
          simp only [memWfFrom, Bool.and_eq_true, decide_eq_true_eq, bne_iff_ne]
          exact ⟨⟨ha, ‹_›⟩, hk ▸ h.2⟩
      · simp only [memWfFrom, Bool.and_eq_true, decide_eq_true_eq, bne_iff_ne]
        exact ⟨h.1, ih h.2 (by omega)⟩

/-- Setting a byte keeps the canonical form. -/
theorem memSet_wf {m : List Host.Cell} (h : Memory.wf m) (a : Nat) (b : Byte) : Memory.wf (memSet m a b) :=
  memSet_wfFrom h (Nat.zero_le a) b

/-- Writing a number keeps the canonical form. -/
theorem memWrite_wf {m : List Host.Cell} (h : Memory.wf m) (a n v : Nat) : Memory.wf (memWrite m a n v) := by
  induction n generalizing m a v with
  | zero => exact h
  | succ n ih => exact ih (memSet_wf h _ _) _ _

/-- Writing bytes keeps the canonical form. -/
theorem memWriteBytes_wf {m : List Host.Cell} (h : Memory.wf m) (a : Nat) (bs : List Byte) : Memory.wf (memWriteBytes m a bs) := by
  induction bs generalizing m a with
  | nil => exact h
  | cons b bs ih => exact ih (memSet_wf h _ _) _

theorem filter_wfFrom {n : Nat} {m : List Host.Cell} (h : memWfFrom n m) (p : Host.Cell → Bool) : memWfFrom n (m.filter p) := by
  induction m generalizing n with
  | nil => rfl
  | cons e m ih =>
    obtain ⟨k, c⟩ := e
    simp only [memWfFrom, Bool.and_eq_true, decide_eq_true_eq, bne_iff_ne] at h
    rw [List.filter_cons]
    split
    · simp only [memWfFrom, Bool.and_eq_true, decide_eq_true_eq, bne_iff_ne]
      exact ⟨h.1, ih h.2⟩
    · exact ih (memWfFrom_mono h.2 (by omega))

/-- Dropping bytes keeps the canonical form. -/
theorem filter_wf {m : List Host.Cell} (h : Memory.wf m) (p : Host.Cell → Bool) : Memory.wf (m.filter p) := filter_wfFrom h p

/-! ## Reading back what was written -/

/-- The first byte of a written number is its low byte. -/
theorem memGet_memWrite_first {m : List Host.Cell} (h : Memory.wf m) (a n v : Nat) :
    memGet (memWrite m a (n + 1) v) a = BitVec.ofNat 8 v := by
  rw [memWrite, memGet_memWrite_other _ _ _ _ (by omega), memGet_memSet_same h]

/-- A number that was written reads back, cut to its bytes. -/
theorem memRead_memWrite {m : List Host.Cell} (h : Memory.wf m) (a n v : Nat) : memRead (memWrite m a n v) a n = v % 256 ^ n := by
  induction n generalizing m a v with
  | zero => simp [memRead, Nat.mod_one]
  | succ n ih =>
    rw [memRead, memGet_memWrite_first h, memWrite, ih (memSet_wf h _ _)]
    rw [BitVec.toNat_ofNat, Nat.pow_succ' (m := 256), Nat.mod_mul]

/-- A read of bytes that a write leaves alone finds what was there. -/
theorem memRead_memWrite_other (m : List Host.Cell) {a b : Nat} (k n v : Nat) (h : b + k ≤ a ∨ a + n ≤ b) :
    memRead (memWrite m a n v) b k = memRead m b k := by
  induction k generalizing b with
  | zero => rfl
  | succ k ih => rw [memRead, memRead, memGet_memWrite_other _ _ _ _ (by omega), ih (by omega)]

end Sys2Proof.Machine
end

