-- ==== Sys2Proof/Laws/Operand.lean ====
section
/-! SUPPORT. Memory operands: register ranges, coordinates, and the tile-local effects of an issue. -/

namespace Sys2Proof.Safety

open Sys2Proof.Machine

theorem checkRanges_ok {th : Thread} {rs : List (XField × Nat)} (h : Ranges th rs) (word : Word) : checkRanges th word rs = .ok () := by
  have hf : rs.find? (fun r => rangeBeyond th.alloc r.1.toNat r.2) = none := by
    rw [List.find?_eq_none]
    intro r hr
    have h2 := h.2 r hr
    have h1 := h.1
    simp only [rangeBeyond, Bool.or_eq_true, Bool.and_eq_true, decide_eq_true_eq]
    omega
  have ha : (rs.any fun r => decide (th.alloc ≤ 120) && decide (120 < r.1.toNat + r.2)) = false := by
    rw [List.any_eq_false]
    intro r hr
    have h2 := h.2 r hr
    simp only [Bool.and_eq_true, decide_eq_true_eq]
    omega
  simp [checkRanges, hf, ha]

theorem Ranges.of_cons {th : Thread} {r : XField × Nat} {rs : List (XField × Nat)} (h : Ranges th (r :: rs)) : Ranges th rs :=
  ⟨h.1, fun x hx => h.2 x (List.mem_cons_of_mem _ hx)⟩

theorem Ranges.named {th : Thread} {d : XField} {n : Nat} (h : d.toNat + n ≤ th.alloc) (hn : 0 < n) : Named th d := .inl (by omega)

/-- Registers that are ready read as their values. -/
theorem needRegs_ready {st : State} {th : Thread} {c n : Nat} {ws : List Word} (hl : ws.length = n)
    (h : ∀ i < ws.length, th.reg (c + i) = .ready (ws.getD i 0#32)) : needRegs st th c n = .ok ws := by
  induction n generalizing c ws with
  | zero => rw [List.length_eq_zero_iff.1 hl]; rfl
  | succ n ih =>
    cases ws with
    | nil => simp at hl
    | cons w ws =>
      have h0 : th.reg c = .ready w := by simpa using h 0 (by simp)
      have hrest := ih (c := c + 1) (ws := ws) (by simpa using hl) fun i hi => by
        have := h (i + 1) (by simpa using hi)
        simpa [Nat.add_assoc, Nat.add_comm 1 i] using this
      simp [needRegs, needReg, h0, hrest, bind, Except.bind]

theorem readCoords_ready {st : State} {th : Thread} {k : Kernel} {kidx : Nat} {c : XField} {ws : List Word}
    (hl : ws.length = coordCount k kidx) (h : ∀ i < ws.length, th.reg (c.toNat + i) = .ready (ws.getD i 0#32)) :
    readCoords st th k c kidx = .ok ((ws.take (k.entryOf kidx).rank).map (·.toInt), (ws.getD (k.entryOf kidx).rank 0#32).toNat) := by
  simp [readCoords, needRegs_ready hl h, bind, Except.bind]

/-- Setting a key to the value it has changes nothing. -/
theorem AMap_update_id {κ ν : Type} [DecidableEq κ] (m : AMap κ ν) (a : κ) (f : ν → ν) (h : ∀ v, m.get? a = some v → f v = v) :
    m.update a f = m := by
  unfold AMap.update
  split
  · rename_i v hv
    rw [h v hv]
    clear h
    induction m with
    | nil => cases hv
    | cons e m ih =>
      obtain ⟨k, w⟩ := e
      unfold AMap.get? at hv
      unfold AMap.set
      split
      · rename_i hk; simp [hk] at hv; rw [hv]
      · rename_i hk; rw [if_neg hk] at hv; rw [ih hv]
  · rfl

/-- Changing a thread by a function that leaves it alone changes nothing. -/
theorem modThread_id (st : State) (t : ThreadId) (f : Thread → Thread) (h : ∀ o, st.thread? t = some o → f o = o) :
    st.modThread t f = st := by
  unfold State.modThread State.modTile
  rw [AMap_update_id]
  intro tl htl
  rw [AMap_update_id]
  intro o ho
  apply h
  simp [State.thread?, State.tile?, htl, ho]

theorem drain_quiet {st : State} {tid : ThreadId} {th : Thread} (ht : st.thread? tid = some th) (hl : th.lines = []) :
    st.drain tid = st := by
  unfold State.drain
  rw [ht]
  simp only [hl, List.flatMap_nil, List.foldl_nil]
  exact modThread_id st tid _ fun o ho => by rw [ht] at ho; cases ho; cases th; cases hl; rfl

/-- A release of a thread that has no access in the performance order puts nothing before anything. -/
theorem markFenced_quiet {st : State} {tid : ThreadId} (h : ∀ a ∈ st.accesses, a.agent.thread? ≠ some tid) : st.markFenced tid = st := by
  have hm : (st.accesses.map fun a => if a.agent.thread? = some tid ∧ a.st ≠ .buffered then { a with fenced := true } else a) = st.accesses :=
    (List.map_congr_left fun a ha => if_neg fun c => h a ha c.1).trans (List.map_id _)
  unfold State.markFenced
  rw [hm]

/-- The writes of a thread without an access in the order are performed. -/
theorem ownWritesDone_quiet {st : State} {tid : ThreadId} (h : ∀ a ∈ st.accesses, a.agent.thread? ≠ some tid) :
    ownWritesDone st tid = true := by
  simp only [ownWritesDone, List.all_eq_true]
  intro a ha
  have := h a ha
  split <;> simp_all

/-- A fence that waits for nothing is complete, and changes nothing. -/
theorem fenceStep_quiet {st : State} {tid : ThreadId} {th : Thread} {release : Bool} {q : Scope} (ht : st.thread? tid = some th)
    (h : Quiet st tid th) : fenceStep st tid th release q = .ok st := by
  obtain ⟨h1, h2, h3, h4, h5, h6, h7, h8, h9⟩ := h
  have hd := drain_quiet ht h3
  have hid : (st.modThread tid fun th => { th with touch := 0#64, fence := none }) = st :=
    modThread_id st tid _ fun o ho => by rw [ht] at ho; cases ho; cases th; cases h1; cases h6; rfl
  unfold fenceStep
  simp only [h1, Option.bind_none, h2, Bool.not_true, Bool.false_eq_true, if_false]
  cases release
  · rfl
  · simp only [Bool.not_true, Bool.false_eq_true, if_false, hd, h4, h5, Bool.and_self]
    split
    · rw [markFenced_quiet h9]
    · have hw := ownWritesDone_quiet h9
      have hg : touchedGroups th.touch = [] := by rw [h6]; decide
      simp [fenceDone, Thread.peerCtr, hg, h7, h8, hw, hid]

end Sys2Proof.Safety
end

