-- ==== Sys2Proof/Laws/Place.lean ====
section
/-! SUPPORT. The quay tiles and their numbers (R510). -/

namespace Sys2Proof.Machine

/-- A quay tile stands beside each link. -/
theorem isQuay_quayBerth : ∀ n < 96, isQuay (quayBerth n) = true := by decide

/-- No other berth is a quay tile's. -/
theorem quayBerth_of_isQuay {b : Nat} (h : isQuay b = true) : ∃ n < 96, quayBerth n = b := by
  simp only [isQuay, Bool.or_eq_true, Bool.and_eq_true, beq_iff_eq, decide_eq_true_eq] at h
  obtain (⟨hy, hx⟩ | ⟨hy, hx⟩) | ⟨⟨⟨hx | hx, hy⟩, h1⟩, h2⟩ := h
  · exact ⟨b / 3, by omega, by rw [quayBerth, if_pos (by omega)]; omega⟩
  · exact ⟨48 + (70 - b % 72) / 3, by omega, by rw [quayBerth, if_neg (by omega), if_neg (by omega), if_pos (by omega)]; omega⟩
  · exact ⟨24 + (b / 72 - 11) / 2, by omega, by rw [quayBerth, if_neg (by omega), if_pos (by omega)]; omega⟩
  · exact ⟨72 + (57 - b / 72) / 2, by omega, by rw [quayBerth, if_neg (by omega), if_neg (by omega), if_neg (by omega)]; omega⟩

end Sys2Proof.Machine
end

