-- ==== Sys2Proof/Tests/Slice0.lean ====
section
/-! SUPPORT. Tests: words of the manual's tables decode to their instructions, ill-formed terms are refused, worked examples of the
manual, and for each statement with hypotheses a small state and operands that meet them. -/

namespace Sys2Proof.Tests

open Sys2Proof Sys2Proof.Machine Sys2Proof.Safety

set_option Elab.async false

/-! ## Decoding: the words are those of the manual's tables -/

/-- Whether words decode to instructions, which are encoded by them. -/
def decodes (l : List (Nat × Instr)) : Bool :=
  l.all fun e => (match decodeWord e.1 with | .ok i => i == e.2 | .error _ => false) && encodeWord e.2 == e.1

/-- Tables 7.10, 20.1, 21.2 and 14.1: integer arithmetic, immediates, shifts and floating point. -/
theorem test_decode_scalar : decodes [
    (0x05140005, .addi 0 10 0 5), (0x0C180345, .li 0 12 0x345), (0xC31A3054, .div 3 13 12 10), (0x030A183C, .div 0 5 6 7),
    (0x9A102455, .fdiv 2 8 9 10), (0x01161440, .add 0 11 5 8), (0x011C2051, .sub 0 14 8 10), (0x03142068, .mul 0 10 8 13),
    (0x061A3007, .andi 0 13 12 7), (0x091C310C, .srli 0 14 12 12), (0x050207FE, .addi 0 1 1 0x3FE)] = true := by decide

/-- Tables 7.10, 13.9, 14.1 and 21.2: branches, jumps and loops. -/
theorem test_decode_control : decodes [
    (0x101A03FA, .beq 0 13 0 0x3FA), (0x11183404, .bne 0 12 13 4), (0x1700000B, .jal 0 11), (0x18000800, .jalr 0 0 2 0),
    (0x19260013, .loop 0 19 0 19)] = true := by decide

/-- Table 8.12 and R247: hint words. -/
theorem test_decode_hints : decodes [(0x1E002428, .pref 0 0 9 5), (0x1F0E2400, .hintFallback 0 7 9 0 0 true)] = true := by decide

/-- Tables 7.10, 10.6, 14.1, 16.2 and 21.2: memory, messages, copies, streams and barriers. -/
theorem test_decode_memory : decodes [
    (0x20122851, .ld 0 9 10 5 false false .ord), (0x200A2835, .ld 0 5 10 3 false true .ord), (0x210C2832, .st 0 6 10 3 .ordw),
    (0x220A2831, .amoRlx 0 5 10 3 .add), (0x25103049, .amoAr 0 8 12 4 .cas), (0x26000012, .fenceRel 0 .grid),
    (0x2600001A, .fenceAlias 0 .grid), (0x26000010, .fenceRel 0 .tile), (0x27103031, .sendRel 0 8 12 3 .w1),
    (0x2730341C, .send 0 24 13 1 .w8), (0x28100031, .recvAcq 0 8 3 .w1), (0x28100004, .recv 0 8 0 .w2), (0x292A1000, .cpy 0 21 4),
    (0x2A044040, .sbindR 0 2 16 4), (0x2A028058, .sbindW 0 1 32 5), (0x2B120022, .sctlPos 0 9 2), (0x2C001820, .barTile 0 6)] = true := by
  decide

/-- Tables 11.11 and 14.1: vector instructions. -/
theorem test_decode_vector : decodes [
    (0x300A1000, .vclaim 0 5 4), (0x33080300, .vsplat 0 1 6 0), (0x33080390, .vins 0 1 0 7 0), (0x35184408, .vrfsum 0 3 1 2 0),
    (0x3300C488, .vextr 0 0 3 9 0), (0x35022030, .vrecvadd 0 0 34), (0x34002288, .vst 0 0 1 10 0)] = true := by decide

/-- R331's worked block: a REPF word. -/
theorem test_decode_repf : decodes [(0x38142014, .repf 0 10 1 1 1 0)] = true := by decide

/-- Tables 12.6 and 16.2: matrix instructions. -/
theorem test_decode_matrix : decodes [
    (0x39000000, .mlease 0), (0x39000001, .mleaseRel 0), (0x3D00001D, .macca 0 3), (0x3DC06003, .mcoef 0 6 12),
    (0x3D002804, .mstatWait 0 5), (0x3A006000, .mloads 0 12 false false), (0x3A08000C, .mloadsFb 0 2 true), (0x3A000001, .mswap 0),
    (0x3B004800, .mma 0 0 9 0 false false false false), (0x3B204AC0, .mma 0 1 9 2 true true false false),
    (0x3B404860, .mma 0 2 9 0 false true true false), (0x3C005008, .miterNs3 0 0 10 true), (0x3C0C5002, .miterInv 0 0 3 10 false),
    (0x3C805003, .mpoly 0 4 10 false), (0x3D404909, .mdrain 0 2 9 1 false false false true), (0x3D005802, .mtov 0 0 11 false false)] =
    true := by decide

/-- Tables 13.9, 14.1 and 16.2: system instructions. -/
theorem test_decode_system : decodes [
    (0x3E180058, .csrr 0 12 0 24), (0x3E18005A, .csrr 0 12 0 26), (0x3E1E0C40, .csrr 0 15 3 0), (0x3E000020, .eret 0), (0x3E0000A0, .texit 0),
    (0x3E003200, .rlwait 0 12), (0x3E2801C0, .time 0 20 false), (0x3E002580, .symwait 0 0 9 false), (0x3E000180, .symwait 0 0 0 false)] =
    true := by decide

/-- Whether words decode to no instruction. -/
def refuses (l : List Nat) : Bool := l.all fun w => match decodeWord w with | .ok _ => false | .error _ => true

/-- Table 8.12, R237, R238, R244 and R249: words that are ILLEGAL. -/
theorem test_decode_illegal : refuses [0, 0xFFFFFFFF, 0x04000007, 0x31000018, 0x2F000000, 0x2E000000, 0x19260000] = true := by decide

/-- Table 7.10: `imx` and `li` at 0x0C are the pair that loads 0x0001_2345, and the bytes behind it are left (R220, R227). -/
theorem test_decode_pair :
    (match decodeBytes [0x48#8, 0x00#8, 0x00#8, 0x3F#8, 0x45#8, 0x03#8, 0x18#8, 0x0C#8, 0x54#8] with
      | .ok (i, rest) => i == .imx 0x48 0x0C180345#32 && rest == [0x54#8]
      | .error _ => false) = true := by decide

/-- Table 8.12: DIV with S = 3 is ILLEGAL in W1 mode, and with S = 0 it is not; REPF is W3's alone (Table 8.11). -/
theorem test_decode_modes :
    modeRejects .w1 0xC31A3054 = true ∧ modeRejects .w1 0x031A3054 = false ∧ modeRejects .w2 0x38142014 = true ∧
    modeRejects .w3 0x38142014 = false := by decide

/-! ## Ill-formed terms, one for each check of WellFormed -/

/-- A tile that no launch slot numbers, and one of a grid too great. -/
def noTile : TileId := ⟨30, 0, 0⟩
/-- A launch slot that does not exist. -/
def noSlot : TileId := ⟨0, 256, 0⟩
/-- A tile number beyond every grid. -/
def noNum : TileId := ⟨0, 0, 2 ^ 24⟩
/-- A tile that may exist. -/
def tile0 : TileId := ⟨0, 0, 0⟩

/-- Field combinations that no encoding admits. -/
theorem test_illformed_fields :
    ([.hintFallback 0 0 0 0 2 false, .loop 0 1 2 0, .loop 0 1 2 0x200, .mma 0 1 9 0 false true true false, .mma 0 0 9 0 false true true true,
      .mma 0 0 9 7 true true false false, .mdrain 0 1 9 1 false false false true, .vquant 0 31 0, .baddq 0 31 0 0, .baddq 0 0 31 0,
      .baddq 0 0 0 31, .vgaddr 0 31 0 0 0] : List Instr).all (fun i => !i.wellFormed) = true := by decide

/-- Subjects of thread and tile events that do not exist. -/
theorem test_illformed_tiles :
    ([.stallCountExpiry ⟨noTile, 0⟩, .stallCountExpiry ⟨tile0, 512⟩, .fixedLatencyDelivery ⟨noSlot, 0⟩, .dispatch noTile, .dispatch noSlot,
      .dispatch noNum, .threadKill ⟨noNum, 0⟩, .levellerSample noTile, .migrantCreate noTile, .spillwayAppend noTile, .spillwayReplay noTile,
      .heldMessageMove noTile, .resultDelivery noTile 0 0, .resultDelivery tile0 8 0, .resultDelivery tile0 0 256,
      .combiningBufferTimeout ⟨noTile, 0⟩, .probeEcho ⟨noTile, 0⟩ 0, .registrationEnter noTile 0, .streamFetch ⟨noTile, 0⟩ 0 .clean,
      .streamFetch ⟨tile0, 0⟩ 8 .clean, .streamDrain ⟨noTile, 0⟩ 0 .clean, .streamDrain ⟨tile0, 0⟩ 8 .clean, .copyAccept noTile 0,
      .copyAccept tile0 4, .copyComplete noTile 0, .copyComplete tile0 4, .sfuStart noTile, .sfuResult noTile, .vectorComplete noTile 0 none,
      .vectorComplete tile0 16 none, .leaseBudgetSpent noTile, .planeReloadComplete noTile true, .planeLoadComplete noTile [],
      .matrixCommandComplete noTile, .mmaOperandFault noTile, .miterStepComplete noTile, .rampDownEnd noTile, .relocationStart noTile 0,
      .relocationStart tile0 5040, .relocationCutover noTile, .relocationRestore noTile, .relocationEnd noTile] : List Instr).all
        (fun i => !i.wellFormed) = true := by decide

/-- Subjects of the events of berths, fields, partitions and launches that do not exist. -/
theorem test_illformed_places :
    ([.fieldOffsetRelease 30 0 0, .fieldOffsetRelease 0 256 0, .fieldOffsetRelease 0 0 30, .refreshWindowOpen 5040 [],
      .refreshWindowClose 5040, .niSend 5040, .weirStep 30, .wakeTokenTake 30, .wakeComplete 30 0, .wakeComplete 0 30240, .segmentPowerDown 30240,
      .doorbell 2 0 0 0, .dispatcherTake 30 false, .admission 30 true, .counterQueryJob 30, .counterQueryPhase 30, .counterQueryGraph 30,
      .pcauseClear 30 0, .niinv 5040 0 0, .niinv 0 256 0, .niinv 0 0 (2 ^ 24), .sliceEnd 30 0 0, .sliceEnd 0 256 0, .sliceEnd 0 0 (2 ^ 24),
      .summons 30, .saveComplete 30 0 0, .saveComplete 0 256 0, .saveAbort 30 0 0 0, .saveAbort 0 0 0 5040, .restoreComplete 30 0 0,
      .checkpointWriteAck 5040 0] : List Instr).all (fun i => !i.wellFormed) = true := by decide

/-- Subjects of the events of firmware, links, boot, power and checkpoints that do not exist. -/
theorem test_illformed_units :
    ([.invalidation 5040 tile0, .invalidation 0 noTile, .walkComplete 30 0, .fwResume ⟨noTile, 0⟩ true, .fwForward ⟨noTile, 0⟩,
      .fwKill ⟨noTile, 0⟩, .pairTimeout ⟨noTile, 0⟩, .linkItemArrival 96, .remoteWriteAck 96 0, .flitCrcFail 96, .linkRetrain 96 0,
      .linkFailure 96, .routerFailure 5040, .selfTest 30 [], .laneRepair 30 [] [], .routeTableBuild 30, .timeProbe 30,
      .timeProbeArrival 30, .timeReplyArrival 30, .granuleReassign 2560 0, .firmwareUpdate 30 0 true, .coreRestart noTile 0,
      .coreRestart tile0 8, .settingChange 30 0, .settingChange 0 30, .budgetCheck 30 0, .watchdogFeed 30, .watchdogTimeout 30,
      .sensorCheck 30 [], .currentTrip 30, .tripEnd 30, .checkpointTimer 30, .checkpointSlotCleared 30, .checkpointCommit 30,
      .checkpointAbort 30] : List Instr).all (fun i => !i.wellFormed) = true := by decide

/-! ## Small states -/

/-- The thread of the small states. -/
def run : ThreadId := ⟨tile0, 0⟩

/-- A thread at the start of the code, with a number of registers. -/
def thread (alloc : Nat) : Thread := { Thread.fresh 0 alloc 0 .w3 with status := .dealt 0, preds := 1 }

/-- A machine with one launch of one tile at berth 0, whose one thread takes this turn; with its thread, its tile and its launch as
given. -/
def small (th : Thread) (tl : Tile → Tile) (la : Launch → Launch) : State :=
  { State.reset with
    cur := some run, berths := [(0, { Berth.reset with state := .moored, moored := some tile0 })]
    tiles := [(tile0, tl { Tile.unplaced [] with
      berth := some 0, threads := [(0, th)]
      cores := { Core.reset with positions := ⟨true, [0], 0⟩ :: List.replicate 7 ⟨true, [], 0⟩ } :: List.replicate 7 Core.reset })]
    launches := [((0, 0), la loadLaunch)] }

/-- A thread of 16 registers, x1 to x3 as given. -/
def regs (x1 x2 x3 : Word) : Thread := (((thread 16).setX 1 x1).setX 2 x2).setX 3 x3

/-- A small machine with such a thread. -/
def plain (x1 x2 x3 : Word) : State := small (regs x1 x2 x3) id id

/-- The value of a register after an instruction of the small machine's thread, when it is ready. -/
def after (i : Instr) (st : State) (n : Nat) : Option Word :=
  match exec i st with
  | .next t => match t.thread? run with
    | some th => match th.reg n with
      | .ready w => some w
      | _ => none
    | none => none
  | _ => none

/-- What an instruction of the small machine's thread puts on its way to a register (R175). -/
def late (i : Instr) (st : State) : Option (Nat × Word × FFlags) :=
  match exec i st with
  | .next t => match t.thread? run with
    | some th => th.inflight.head?.map fun f => (f.reg, f.value, f.flags)
    | none => none
  | _ => none

/-! ## Worked examples of the manual -/

/-- R258: A = −7 and B = 2. -/
theorem test_divisions :
    late (.div 3 4 1 2) (plain 0xFFFFFFF9 2 0) = some (4, 0xFFFFFFFD, 0) ∧ late (.rem 3 4 1 2) (plain 0xFFFFFFF9 2 0) = some (4, 0xFFFFFFFF, 0) ∧
    late (.divn 3 4 1 2) (plain 0xFFFFFFF9 2 0) = some (4, 0x7FFFFFFC, 0) ∧ late (.remn 3 4 1 2) (plain 0xFFFFFFF9 2 0) = some (4, 1, 0) := by decide +kernel

/-- R258: B = 0. -/
theorem test_division_by_zero :
    late (.div 3 4 1 2) (plain 0xFFFFFFF9 0 0) = some (4, 0xFFFFFFFF, 0) ∧
    late (.rem 3 4 1 2) (plain 0xFFFFFFF9 0 0) = some (4, 0xFFFFFFF9, 0) := by decide +kernel

/-- R259: EXTR and INS. -/
theorem test_fields :
    after (.extr 0 4 1 2) (plain 0xDEADBEEF 0xE8 0) 4 = some 0xBE ∧ after (.extr 0 4 1 2) (plain 0xDEADBEEF 0x4E8 0) 4 = some 0xFFFFFFBE ∧
    after (.ins 0 4 1 2) (plain 5 0x44 0) 4 = some 0x50 := by decide +kernel

/-- Table 9.7. -/
theorem test_floating_point :
    late (.fdiv 2 4 1 2) (plain 0x3F800000 0x40400000 0) = some (4, 0x3EAAAAAB, fNX) ∧
    late (.fsqrt 2 4 1) (plain 0xC0800000 0 0) = some (4, 0x7FC00000, fNV) ∧ after (.fcvtif 0 4 1) (plain 0x40200000 0 0) 4 = some 2 ∧
    after (.fcvtifz 0 4 1) (plain 0xC0200000 0 0) 4 = some 0xFFFFFFFE ∧ after (.fcvtif 0 4 1) (plain 0x4F32D05E 0 0) 4 = some 0x7FFFFFFF ∧
    after (.fbf 0 4 1) (plain 0x3F808000 0 0) 4 = some 0x3F80 ∧ after (.fle 0 4 1 2) (plain 0x80000000 0 0) 4 = some 1 := by decide +kernel

/-- R165: exact order and folds. -/
theorem test_late_float :
    ((PendKind.exact [(.add, 0x3F800000), (.sub, 0x4B800000)]).resolve 0x4B800000).bits = 0#32 ∧
    ((PendKind.folded 0x3F800000 0xCB7FFFFF 0).resolve 0x4B800000).bits = 0x3F800000#32 := by decide +kernel

/-- R138: the product of codes 0x11 and 0x11. -/
theorem test_l6_product : l6Product 0x11 0x11 = some 0xB50500 := by decide +kernel

/-- R139: a block whose largest magnitude is 6.0 has scale code 126; 6.0 becomes 0x1E and −3.0 becomes 0x3A. -/
theorem test_l6_quantise :
    let r := l6Quantise (0x40C00000#32 :: 0xC0400000#32 :: List.replicate 30 0#32)
    r.1.take 3 = [0x1E, 0x3A, 0] ∧ r.2.1 = 126 := by decide +kernel

/-- R71: offset 0x1_0214 lies in stripe 16 and, with z = 3, in bank 20. -/
theorem test_swizzle : swizzle 3 0x10214 = 16 * 4096 + 20 * 128 + 20 ∧ swizzle 0 0x10214 = 0x10214 := by decide +kernel

/-- R15: tile (9, 5) of a grid of 10 by 6 in gangs of 4 by 4 lies in gang 5, which has four tiles. -/
theorem test_gangs :
    let k := { loadKernel with vx := 10, vy := 6, gx := 4, gy := 4 }
    k.gangOf 0x5009 = 5 ∧ (k.tilesOfGang 5).length = 4 := by decide +kernel

/-- The kernel of the worked layout (R511). -/
def layoutKernel : Kernel :=
  { loadKernel with layout := List.replicate 5 0 ++
      (0#64 ++ 0x0000040000000100#64 ++ 0x000000001F003F00#64 ++ 0x000001000001E289#64) :: List.replicate 58 0 }

/-- An answer is a value. -/
def gives {ε α : Type} [DecidableEq α] (r : Except ε α) (v : α) : Bool := match r with | .ok x => x == v | .error _ => false

/-- R68, R70: the entry of the worked layout, its index and a coordinate outside it. -/
theorem test_layout :
    gives (resolveLoc layoutKernel 0 0 false 5 .read [5, 2] 0 0) (.byte 0 1 0x10214 1) = true ∧
    gives (resolveLoc layoutKernel 0 0 false 5 .read [5, 40] 0 0) .discard = true := by decide +kernel

/-- The kernel of the worked distribution (R278). -/
def distKernel : Kernel :=
  { loadKernel with
    vx := 3, vy := 3
    layout := List.replicate 7 0 ++ BitVec.ofNat 256 (2 + 2 ^ 3 + 4 * 2 ^ 5 + 3 * 2 ^ 13 + 2 * 2 ^ 20 + 7 * 2 ^ 72 + 15 * 2 ^ 88 + 2 ^ 136 +
      8 * 2 ^ 164) :: List.replicate 56 0
    dist := [0, 0, BitVec.ofNat 128 (2 ^ 126 + 2 ^ 93 + 2 * 2 ^ 52 + 3 * 2 ^ 20)] }

/-- R278: the GADDR of the worked distribution: its word, its result, and no result on the coordinate 24. -/
theorem test_gaddr :
    decodes [(0x2D182870, .gaddr 0 12 10 7)] = true ∧ gives (gaddrValue distKernel 0x2000 7 0 [17, 3] 0) (0x2001, 29) = true ∧
    (match gaddrValue distKernel 0x2000 7 0 [24, 3] 0 with
      | .error (c, v) => c == .bounds && v == 7
      | .ok _ => false) = true := by decide +kernel

/-! ## What meets the hypotheses of the statements -/

/-- The small machine's thread takes the turn. -/
theorem runs (th : Thread) (tl : Tile → Tile) (la : Launch → Launch) (h : th.step = false)
    (ht : ∀ x : Tile, (tl x).threads = x.threads) : Runs (small th tl la) run th := by
  refine ⟨rfl, ?_, h⟩
  simp [small, run, State.thread?, State.tile?, AMap.get?, tile0, ht]

/-- With nothing on its way no read is early. -/
theorem notEarly {th : Thread} (h : th.inflight = []) (cs : List XField) : NotEarly th cs := by
  intro c _ _ he
  simp [Thread.isEarly, h] at he

/-- A register of the allocation that is ready reads. -/
theorem reads {th : Thread} {c : XField} {w : Word} (h : c.toNat < th.alloc) (hr : th.reg c.toNat = .ready w) : Reads th c w th :=
  .inl ⟨h, hr, rfl⟩

/-- A register of the allocation takes a word. -/
theorem puts {st : State} {th : Thread} {d : XField} (h : d.toNat < th.alloc) (w : Word) : Puts st run th d w (th.setX d.toNat w) :=
  .inl ⟨h, rfl⟩

/-- A register of the allocation takes a word late, and so does x0. -/
theorem putsLate {st : State} {th : Thread} {d : XField} (h : d.toNat < th.alloc) (w : Word) (f : FFlags) (g : Nat) :
    PutsLate st run th d w f g { th with inflight := th.inflight ++ [⟨d.toNat, w, f, st.cycleOf run.tile + 8 * (g + 1)⟩] } := .inl ⟨h, rfl⟩

/-- Ranges by evaluation. -/
theorem ranges {th : Thread} {rs : List (XField × Nat)} (h : th.alloc ≤ 128 ∧ ∀ r ∈ rs, r.1.toNat + r.2 ≤ th.alloc) : Ranges th rs := h

/-- Nothing outstanding, by evaluation. -/
theorem quiet {st : State} {th : Thread} (h : th.fence = none ∧ loadsResolved st run = true ∧ th.lines = [] ∧ streamsIssued st run th = true ∧
    vectorsIssued st run = true ∧ th.touch = 0#64 ∧ th.peerOut = [] ∧ hostWritesDone st run = true ∧
    ∀ a ∈ st.accesses, a.agent.thread? ≠ some run) : Quiet st run th := h

/-- The read stream s0 with words fetched, or the write stream s1 with room. -/
def bound (write : Bool) (queue : List Elem) : Stream :=
  ⟨write, 1, [0], [[1]], [8], 0, 0, queue.length, queue, []⟩

/-- A scratchpad entry of 64 elements of four bytes at byte 4,096, read and written (Table 2.2), as the codes of its fields. -/
def scratchEntry (elem : Nat) : BitVec 256 := BitVec.ofNat 256 (1 + elem * 2 ^ 5 + 3 * 2 ^ 13 + 4096 * 2 ^ 24 + 63 * 2 ^ 72 + 2 ^ 136)

/-- The launch's layout with that entry as L1, of F32, and as L2, of S32. -/
def withScratch (la : Launch) : Launch :=
  { la with kernel := { la.kernel with layout := 0 :: scratchEntry 4 :: scratchEntry 2 :: List.replicate 61 0 } }

/-- A thread with the streams s0, of words 5 and 7, and s1. -/
def streaming : Thread :=
  { thread 16 with streams := some (bound false [.word 5, .word 7]) :: some (bound true []) :: List.replicate 6 none }

/-- It after a pop and after two. -/
def popped (queue : List Elem) (pos : Nat) (th : Thread) : Thread := th.setStream 0 (some { bound false queue with pos := pos, fetched := 2 })

/-- IntegerForms: registers as operands. The fields a and b may be the same register, and d may be one of them or x0. -/
theorem meets_IntegerForms : ∀ w, let st := plain 5 7 9; let th := regs 5 7 9
    Runs st run th ∧ NotEarly th [1, 2, 3] ∧ Reads th 1 5 th ∧ Reads th 2 7 th ∧ (3#7).toNat < th.alloc ∧ th.reg 3 = .ready 9 ∧
    Puts st run th 1 w (th.setX 1 w) ∧ Puts st run th 0 w (th.setX 0 w) :=
  fun w => ⟨runs _ _ _ rfl fun _ => rfl, notEarly rfl _, reads (by decide) rfl, reads (by decide) rfl, by decide, rfl,
    puts (by decide) w, puts (by decide) w⟩

/-- IntegerForms: streams as operands. a is popped, then b, and d is pushed. -/
theorem meets_IntegerForms_streams : let st := small streaming id withScratch
    let th1 := popped [.word 7] 1 streaming; let th2 := popped [] 2 th1
    Runs st run streaming ∧ NotEarly streaming [120, 120] ∧ Reads streaming 120 5 th1 ∧ Reads th1 120 7 th2 ∧
    Puts st run th2 121 12 (th2.setStream 1 (some { bound true [.store 12 (some (.scratch tile0 4096, 0))] with pos := 1, fetched := 0 })) := by
  refine ⟨runs _ _ _ rfl fun _ => rfl, notEarly rfl _, ?_, ?_, ?_⟩
  · exact .inr ⟨by decide, by decide, bound false [.word 5, .word 7], [.word 7], rfl, rfl, rfl, by decide, rfl, rfl⟩
  · exact .inr ⟨by decide, by decide, { bound false [.word 7] with pos := 1, fetched := 2 }, [], rfl, rfl, rfl, by decide, rfl, rfl⟩
  · exact .inr ⟨by decide, by decide, bound true [], some (.scratch tile0 4096, 0), small streaming id withScratch, rfl, rfl, rfl,
      by decide, by decide, by rfl, rfl⟩

/-- Divisions: a divisor of zero, another, and d = x0. -/
theorem meets_Divisions : ∀ w, let st := plain 5 7 0; let th := regs 5 7 0
    Runs st run th ∧ NotEarly th [1, 2] ∧ Reads th 1 5 th ∧ Reads th 2 7 th ∧ Reads th 3 0 th ∧
    (∃ th3, PutsLate st run th 4 w 0 3 th3) ∧ ∃ th3, PutsLate st run th 0 w 0 3 th3 :=
  fun w => ⟨runs _ _ _ rfl fun _ => rfl, notEarly rfl _, reads (by decide) rfl, reads (by decide) rfl, reads (by decide) rfl,
    ⟨_, putsLate (by decide) w 0 3⟩, _, putsLate (by decide) w 0 3⟩

/-- ImmediateAndPredicateForms, ControlTransfers, FloatForms: registers as operands, and the link's destination x0. -/
theorem meets_ImmediateAndPredicateForms : ∀ w, let st := plain 5 7 9; let th := regs 5 7 9
    Runs st run th ∧ NotEarly th [1, 2, 3] ∧ Reads th 1 5 th ∧ Reads th 2 7 th ∧ th.reg 3 = .ready 9 ∧ Puts st run th 4 w (th.setX 4 w) ∧
    Puts st run th 0 w (th.setX 0 w) ∧ ∃ th3, PutsLate st run th 4 w 0 2 th3 :=
  fun w => ⟨runs _ _ _ rfl fun _ => rfl, notEarly rfl _, reads (by decide) rfl, reads (by decide) rfl, rfl, puts (by decide) w,
    puts (by decide) w, _, putsLate (by decide) w 0 2⟩

/-- A thread inside loop levels. -/
def looping (count : Word) (ls : List LoopLevel) : Thread := { regs count 0 0 with loops := ls }

/-- A level from 4 to an end, with iterations left. -/
def level (stop : Word) (left : Nat) : LoopLevel := ⟨4, stop, left, 0, 5⟩

/-- Loops: a LOOP with a count and with a count of 0, inside no level, inside one that ends later, and inside one that ends at the same
place, with iterations left (2) and none (1). -/
theorem meets_Loops : ∀ n ∈ [0#32, 1#32], ∀ ls ∈ [[], [level 80 1], [level 40 2], [level 40 1]],
    let th := looping n ls; let st := small th id id
    Runs st run th ∧ NotEarly th [1] ∧ Reads th 1 n th ∧ (4#7).toNat < th.alloc ∧
    0 < (10#10).toInt ∧ (th.loops = [] ∨ ∃ l, th.loops = [l] ∧ th.pc + 4 * (10#10).signExtend 32 ≤ l.stop) := by
  intro n hn ls hl
  refine ⟨runs _ _ _ rfl fun _ => rfl, notEarly rfl _, ?_, (by decide : 4 < 16), by decide, ?_⟩
  · simp only [List.mem_cons, List.not_mem_nil, or_false] at hn
    rcases hn with rfl | rfl <;> exact reads (th := looping _ ls) (by simp [looping]; decide) rfl
  · simp only [List.mem_cons, List.not_mem_nil, or_false] at hl
    rcases hl with rfl | rfl | rfl | rfl
    · exact .inl rfl
    · exact .inr ⟨_, rfl, (by decide : (40#32) ≤ 80#32)⟩
    all_goals exact .inr ⟨_, rfl, (by decide : (40#32) ≤ 40#32)⟩

/-- ControlTransfers, Loops: a ready count of 1 outside every level; inside two levels, and inside one that ends before the new level would. -/
theorem meets_Loops_traps : ∀ ls ∈ [[], [level 16 2, level 80 2], [level 39 2]], let th := looping 1 ls; let st := small th id id
    Runs st run th ∧ NotEarly th [1] ∧ (1#7).toNat < th.alloc ∧ th.reg 1 = .ready 1 ∧ (4#7).toNat < th.alloc ∧
    (2 ≤ th.loops.length ∨ (∃ l, th.loops = [l] ∧ l.stop < th.pc + 4 * (10#10).signExtend 32) ↔ ls ≠ []) := by
  intro ls hl
  simp only [List.mem_cons, List.not_mem_nil, or_false] at hl
  rcases hl with rfl | rfl | rfl
  · exact ⟨runs _ _ _ rfl fun _ => rfl, notEarly rfl _, (by decide : 1 < 16), rfl, (by decide : 4 < 16),
      ⟨fun h => (by rcases h with h | ⟨l, h, -⟩ <;> cases h), fun h => absurd rfl h⟩⟩
  · exact ⟨runs _ _ _ rfl fun _ => rfl, notEarly rfl _, (by decide : 1 < 16), rfl, (by decide : 4 < 16), ⟨fun _ => by decide, fun _ => .inl (by decide)⟩⟩
  · exact ⟨runs _ _ _ rfl fun _ => rfl, notEarly rfl _, (by decide : 1 < 16), rfl, (by decide : 4 < 16),
      ⟨fun _ => by decide, fun _ => .inr ⟨_, rfl, (by decide : 39#32 < 40#32)⟩⟩⟩

/-- Loops: an instruction at the end of a level, with iterations left and none, and of two that share the end. -/
theorem meets_Loops_end : ∀ ls ∈ [[level 0 2], [level 0 1], [level 0 1, level 0 2]], ∃ l os,
    (looping 0 ls).loops = l :: os ∧ (looping 0 ls).pc ≤ l.stop ∧ l.stop < (looping 0 ls).pc + BitVec.ofNat 32 4 := by
  intro ls hl
  simp only [List.mem_cons, List.not_mem_nil, or_false] at hl
  rcases hl with rfl | rfl | rfl <;> exact ⟨_, _, rfl, by decide, by decide⟩

/-- Loops: a transfer that stays inside both levels, and one that leaves the inner level only. -/
theorem meets_Loops_leave : let inside := fun (l : LoopLevel) (a : Word) => l.start ≤ a ∧ a ≤ l.stop
    let th := { looping 0 [level 16 2, level 40 2] with pc := 8 }
    (∀ l ∈ th.loops, inside l th.pc → inside l 12) ∧ th.loops = [] ++ level 16 2 :: [level 40 2] ∧ inside (level 16 2) th.pc ∧
    ¬ inside (level 16 2) 20 ∧ ∀ o ∈ [level 40 2], inside o th.pc → inside o 20 := by decide

/-- ImmediatePairs: registers as operands of the second word, whose LI destination may be x0. -/
theorem meets_ImmediatePairs : ∀ w, let st := plain 5 7 9; let th := regs 5 7 9
    Runs st run th ∧ NotEarly th [1, 2] ∧ Reads th 1 5 th ∧ Reads th 2 7 th ∧ Puts st run th 4 w (th.setX 4 w) ∧
    Puts st run th 0 w (th.setX 0 w) :=
  fun w => ⟨runs _ _ _ rfl fun _ => rfl, notEarly rfl _, reads (by decide) rfl, reads (by decide) rfl, puts (by decide) w, puts (by decide) w⟩

/-- A thread with a pending register x1 and the value 3 in x2. -/
def awaiting (k : PendKind) : Thread := { (thread 16).setX 2 3 with regs := ((thread 16).setX 2 3).regs.set 1 (.pending 6 0 k false) }

/-- PendingValues: x1 is 2 × v + 1 of the symbol 6, or an exact log of two entries. -/
theorem meets_PendingValues : ∀ k ∈ [PendKind.int 2 1, .exact [(.add, 0x3F800000), (.mul, 0x40000000)]],
    let th := awaiting k; let st := small th id id
    Runs st run th ∧ NotEarly th [1, 2, 4] ∧ (1#7).toNat < th.alloc ∧ (2#7).toNat < th.alloc ∧ (4#7).toNat < th.alloc ∧ th.fold = false ∧
    th.reg 1 = .pending 6 0 k false ∧ th.reg 2 = .ready 3 ∧ (2#32) * 3 ≠ 0 := by
  intro k _
  have h : ∀ n < 16, n < (awaiting k).alloc := by simp [awaiting]; decide
  exact ⟨runs _ _ _ rfl fun _ => rfl, notEarly rfl _, h 1 (by decide), h 2 (by decide), h 4 (by decide), rfl, rfl, rfl, by decide⟩

/-- SpecialFunctions: the tile of the small machine, whose thread has all symbols free; d = x0 is one of the destinations. -/
theorem meets_SpecialFunctions : let st := plain 5 7 9; let th := regs 5 7 9
    Runs st run th ∧ NotEarly th [1] ∧ Reads th 1 5 th ∧ (0#7).toNat < th.alloc ∧ (4#7).toNat < th.alloc ∧
    (∃ tl, st.tile? run.tile = some tl ∧ tl.sfuFifo.length < 16) ∧ ∃ n, symbolSlot st run = .ok n :=
  ⟨runs _ _ _ rfl fun _ => rfl, notEarly rfl _, reads (by decide) rfl, by decide, by decide, ⟨_, rfl, by decide⟩, _, rfl⟩

/-- HintsCopy: in W1 mode and in another, with a or d at the end of the allocation and beyond it. -/
theorem meets_HintsCopy : ∀ m ∈ [DMode.w1, .w3], let th := { regs 5 7 9 with mode := m }; let st := small th id id
    Runs st run th ∧ (th.mode = .w1 → th.isEarly 15 = false ∧ th.isEarly 2 = false) ∧ th.alloc = 16 := by
  intro m _
  exact ⟨runs _ _ _ rfl fun _ => rfl, fun _ => ⟨rfl, rfl⟩, rfl⟩

/-- The kernel of the launches with the scratchpad entries. -/
def scratchKernel : Kernel := (withScratch loadLaunch).kernel

/-- MemoryIssue: the last element of L1, by the coordinate in x1, for a load to x4, a store and an atomic of x2 (and x3, for CAS), whose
entry is L2; no lock, a free symbol, nothing outstanding. The same destination may be x0 or the coordinate's register. -/
theorem meets_MemoryIssue : let st := small (regs 63 5 9) id withScratch; let th := regs 63 5 9; let k := scratchKernel
    Runs st run th ∧ (∃ la, st.launchOf tile0 = some la ∧ la.kernel = k) ∧ (k.entryOf 1).packed = false ∧ (k.entryOf 1).space = 1 ∧
    (k.entryOf 1).size = 4 ∧ Ranges th [(1, coordCount k 1), (4, 1)] ∧ Ranges th [(1, coordCount k 2), (2, 2)] ∧ MayAccess th [1, 2, 3] ∧
    (∀ u, Located run th k 1 1 u (.byte 0 1 4348 3) ∧ Located run th k 2 1 u (.byte 0 1 4348 3)) ∧
    th.reg 2 = .ready 5 ∧ th.reg 3 = .ready 9 ∧
    (∀ r w, placeOf st run th k 1 0 0 1 4348 r w = .ok (.scratch tile0 4348, st) ∧ placeOf st run th k 2 0 0 1 4348 r w = .ok (.scratch tile0 4348, st)) ∧
    (∀ w, checkLock st run (.scratch tile0 4348) 4 0 w = .ok ()) ∧ symbolSlot st run = .ok 0 ∧ Quiet st run th ∧ th.lines = [] ∧
    amoAllowed .cas (k.entryOf 2) = true ∧ amoAllowed .add (k.entryOf 2) = true ∧ amoAllowed .fadd (k.entryOf 1) = true := by
  refine ⟨runs _ _ _ rfl fun _ => rfl, ⟨_, rfl, rfl⟩, rfl, rfl, rfl, ranges (by decide +kernel), ranges (by decide +kernel), ⟨notEarly rfl _, rfl, rfl⟩,
    fun u => ⟨?_, ?_⟩, rfl, rfl, fun r w => ⟨rfl, rfl⟩, fun w => ?_, rfl, quiet (by decide +kernel), rfl, by decide +kernel, by decide +kernel, by decide +kernel⟩
  · exact ⟨[63], rfl, by decide, by cases u <;> rfl⟩
  · exact ⟨[63], rfl, by decide, by cases u <;> rfl⟩
  · cases w <;> rfl

/-- An access of the small machine's thread to the first word of L1. -/
def access (kind : AccKind) (data : Option Word) : Access :=
  ⟨7, .thread run, .scratch tile0 4096, 4, kind, data, widenOf 2 false, none, none, .arrived, false⟩

/-- AccessesPerform: a load, a store, a CAS that succeeds on the unwritten word 0, and one that fails. -/
theorem meets_AccessesPerform : ∀ a ∈ [access .load none, access .store (some 9), access (.amo .cas 4) (some 0), access (.amo .cas 4) (some 1)],
    let st := { plain 5 7 9 with accesses := [a] }
    Memory.wf st.mem = true ∧ st.accesses.find? (·.id = 7) = some a ∧ st.mayPerform a = true ∧
    (match a.kind with | .amo _ _ => a.size = 4 | _ => True) ∧
    (∀ ecc, a.place.refused ecc = false) ∧ ∃ la, st.launchOf a.agent.tile = some la ∧ la.arrived = [] ∧ la.cancelled = false ∧ la.counter = none ∧
      ∃ e ∈ st.tilesOf a.agent.tile.part a.agent.tile.slot, e.2.threads ≠ [] := by
  intro a ha
  simp only [List.mem_cons, List.not_mem_nil, or_false] at ha
  rcases ha with rfl | rfl | rfl | rfl <;>
    exact ⟨by decide +kernel, by decide +kernel, by decide +kernel, by first | rfl | trivial, fun _ => rfl, _, rfl, rfl, rfl, rfl, by decide +kernel⟩

/-- AccessesPerform: a store to host memory, which the host refuses, in a launch with a counter block in rim store. -/
theorem meets_AccessesPerform_host : let a := { access .store (some 9) with place := .host 0 64 }
    let st := { small (regs 5 7 9) id (fun la => { la with counter := some 0x10000 }) with accesses := [a] }
    Memory.wf st.mem = true ∧ st.accesses.find? (·.id = 7) = some a ∧ st.mayPerform a = true ∧ a.place.refused .refused = true ∧
    (memKey 2 0 0x10000 + 64 ≤ a.place.key) ∧ ∃ la, st.launchOf tile0 = some la ∧ la.counter = some 0x10000 :=
  ⟨rfl, rfl, by decide +kernel, rfl, by decide +kernel, _, rfl, rfl⟩

/-- A symbol-table entry of the small machine's thread whose load has not resolved. -/
def unresolved (tl : Tile) : Tile := tl.modCore 0 fun c => { c with symbols := [(0, ⟨0, .load, none, 0, false, false⟩)] }

/-- Fences: a thread with nothing outstanding, and one with an unresolved load. -/
theorem meets_Fences : Runs (plain 5 7 9) run (regs 5 7 9) ∧ Quiet (plain 5 7 9) run (regs 5 7 9) ∧
    Runs (small (regs 5 7 9) unresolved id) run (regs 5 7 9) ∧ (regs 5 7 9).fence = none ∧
    loadsResolved (small (regs 5 7 9) unresolved id) run = false :=
  ⟨runs _ _ _ rfl fun _ => rfl, quiet (by decide +kernel), runs _ _ _ rfl fun _ => rfl, rfl, by decide +kernel⟩

/-- TensorAddresses: an element of L1, whose owner is the tile itself; d = x0 and d = x4. -/
theorem meets_TensorAddresses : let st := small (regs 63 5 9) id withScratch; let th := regs 63 5 9; let k := scratchKernel
    Runs st run th ∧ (∃ la, st.launchOf tile0 = some la ∧ la.kernel = k) ∧ Ranges th [(1, coordCount k 1), (4, 2), (0, 2)] ∧
    NotEarly th (rangeFields 1 (coordCount k 1)) ∧ coordCount k 1 = 1 ∧ th.reg 1 = .ready 63 ∧
    gaddrValue k 0 1 0 (([63#32].take (k.entryOf 1).rank).map (·.toInt)) 0 = .ok (0, 63) :=
  ⟨runs _ _ _ rfl fun _ => rfl, ⟨_, rfl, rfl⟩, ranges (by decide +kernel), notEarly rfl _, rfl, rfl, rfl⟩

/-- Messages: a SEND of four words x4 to x7, and a RECV, to tile 0, in a grid of one tile, and to tile 1, which is outside it. -/
theorem meets_Messages : ∀ dst ∈ [0#32, 1#32], let st := plain dst 0 0; let th := regs dst 0 0
    Runs st run th ∧ (∃ la, st.launchOf tile0 = some la ∧ (dst.toNat % 4096 < la.kernel.vx ∧ dst.toNat / 4096 < la.kernel.vy ↔ dst = 0)) ∧
    (∃ tl, st.tile? tile0 = some tl ∧ tl.inbox = [] ∧ (tl.core 0).outbound = []) ∧ Ranges th [(1, 1), (4, 4), (8, 8)] ∧
    MayAccess th (1 :: rangeFields 4 4) ∧ th.reg 1 = .ready dst ∧ (∀ i < 4, th.reg (4 + i) = .ready ([0#32, 0, 0, 0].getD i 0#32)) ∧
    Quiet st run th ∧ symbolSlot st run = .ok 0 := by
  intro dst hd
  simp only [List.mem_cons, List.not_mem_nil, or_false] at hd
  rcases hd with rfl | rfl <;>
    exact ⟨runs _ _ _ rfl fun _ => rfl, ⟨_, rfl, by decide +kernel⟩, ⟨_, rfl, rfl, rfl⟩, ranges (by decide +kernel), ⟨notEarly rfl _, rfl, rfl⟩, rfl,
      by decide +kernel, quiet (by decide +kernel), rfl⟩

/-- A thread with the words of a descriptor or a pattern from x1 on. -/
def words (alloc : Nat) (ws : List Word) : Thread := (ws.zipIdx).foldl (fun th x => th.setX (x.2 + 1) x.1) (thread alloc)

/-- The words of a pattern of eight elements of L1. -/
def patternWords : List Word := [0, 0, 0, 0, 1, 0, 0, 0, 0, 0, 7, 0]

/-- CopiesAndStreams: a CPY of the queue 3; a binding of each kind to s1 of L1; s0 unbound, and drained. -/
theorem meets_CopiesAndStreams :
    (let ws : List Word := [0x30000, 0, 0, 0, 0, 0, 0, 0]; let th := words 16 ws; let st := small th id id
      Runs st run th ∧ (∃ la, st.launchOf tile0 = some la) ∧ Ranges th [(1, 8), (9, 1)] ∧ MayAccess th (rangeFields 1 8) ∧ ws.length = 8 ∧
      (∀ i < 8, th.reg (1 + i) = .ready (ws.getD i 0#32)) ∧ Quiet st run th ∧ symbolSlot st run = .ok 0 ∧
      ∃ tl, st.tile? tile0 = some tl ∧ (tl.copyQ.getD 3 []).length < 16) ∧
    (let th := words 16 patternWords; let st := small th id withScratch; let k := scratchKernel
      Runs st run th ∧ (∃ la, st.launchOf tile0 = some la ∧ la.kernel = k) ∧ (k.entryOf 1).space = 1 ∧ Ranges th [(1, 12)] ∧
      MayAccess th (rangeFields 1 12) ∧ patternWords.length = 12 ∧ (∀ i < 12, th.reg (1 + i) = .ready (patternWords.getD i 0#32)) ∧
      ∀ w, (sbindCheck st run th k 1 (patternOf w 1 (k.entryOf 1).rank patternWords)).isNone = true) ∧
    (let th := thread 16; let st := small th id id
      Runs st run th ∧ th.stream? 0 = none ∧ th.streamDrained 0 = true ∧ ∀ w, Puts st run th 0 w (th.setX 0 w)) ∧
    Runs (small { streaming with streams := some { bound false [] with pos := 8, counts := [8] } :: List.replicate 7 none } id withScratch) run
      { streaming with streams := some { bound false [] with pos := 8, counts := [8] } :: List.replicate 7 none } ∧
    ({ streaming with streams := some { bound false [] with pos := 8, counts := [8] } :: List.replicate 7 none } : Thread).streamDrained 0 = true := by
  refine ⟨⟨runs _ _ _ rfl fun _ => rfl, ⟨_, rfl⟩, ranges (by decide +kernel), ⟨notEarly rfl _, rfl, rfl⟩, rfl, by decide +kernel, quiet (by decide +kernel), rfl,
    _, rfl, by decide⟩, ⟨runs _ _ _ rfl fun _ => rfl, ⟨_, rfl, rfl⟩, rfl, ranges (by decide +kernel), ⟨notEarly rfl _, rfl, rfl⟩, rfl, by decide +kernel,
    by decide +kernel⟩, ⟨runs _ _ _ rfl fun _ => rfl, rfl, rfl, fun w => puts (by decide) w⟩, runs _ _ _ rfl fun _ => rfl, by decide +kernel⟩

/-- A launch of two tiles, of which tile 1 has not arrived at the grid barrier. -/
def twoTiles (la : Launch) : Launch := { la with kernel := { la.kernel with vx := 2 } }

/-- A registration of a copy for the first word of L1. -/
def registration : Registration := ⟨9, .copy tile0 3, ⟨.scratch tile0, 4096, 4099, 0⟩, false⟩

/-- A tile with that registration in entry 1 of its range-lock table. -/
def locked (tl : Tile) : Tile := { tl with rlt := none :: some registration :: List.replicate 30 none }

/-- Barriers: counts of 1, 2, 64 and 511 in x1 to x3 at idle instances, the grid barrier of two tiles, and entry 1 of the range-lock table
free and held. -/
theorem meets_Barriers :
    (∀ n ∈ [1#32, 2#32, 64#32, 511#32], let st := plain n 0 0; let th := regs n 0 0
      Runs st run th ∧ NotEarly th [1] ∧ (1#7).toNat < th.alloc ∧ th.reg 1 = .ready n ∧ Quiet st run th ∧ Reads th 1 n th ∧
      ∃ tl, st.tile? tile0 = some tl ∧ (tl.core 0).bar = none ∧ tl.barTile = none ∧ tl.rlt.getD (n.toNat % 32) none = none) := by
  intro n hn
  simp only [List.mem_cons, List.not_mem_nil, or_false] at hn
  rcases hn with rfl | rfl | rfl | rfl <;>
    exact ⟨runs _ _ _ rfl fun _ => rfl, notEarly rfl _, (by decide : 1 < 16), rfl, quiet (by decide +kernel), reads (by decide) rfl, _, rfl, rfl, rfl, rfl⟩

/-- Barriers: the grid barrier of two tiles. -/
theorem meets_Barriers_grid : let st := small (regs 1 0 0) id twoTiles; let th := regs 1 0 0
    Runs st run th ∧ Quiet st run th ∧ ∃ la, st.launchOf tile0 = some la ∧ la.arrived.contains 0 = false ∧
      ∃ n ∈ la.kernel.tiles, n ≠ 0 ∧ st.countsArrived 0 0 la n = false :=
  ⟨runs _ _ _ rfl fun _ => rfl, quiet (by decide +kernel), _, rfl, rfl, 1, by decide +kernel, by decide, rfl⟩

/-- Barriers: an RLWAIT on an entry that is held. -/
theorem meets_Barriers_rlwait : let st := small (regs 33 0 0) locked id; let th := regs 33 0 0
    Runs st run th ∧ NotEarly th [1] ∧ Reads th 1 33 th ∧
      ∃ tl, st.tile? tile0 = some tl ∧ tl.rlt.getD ((33#32).toNat % 32) none = some registration :=
  ⟨runs _ _ _ rfl fun _ => rfl, notEarly rfl _, reads (by decide) rfl, _, rfl, by decide +kernel⟩

/-- A launch with a trap vector at byte 16 of its code. -/
def withTvec (la : Launch) : Launch := { la with kernel := { la.kernel with tvec := 16 } }

/-- A thread inside a handler. -/
def inHandler (x1 : Word) : Thread := { regs x1 0 0 with tstat := 5, tepc := 8 }

/-- A thread with a single step asked for. -/
def stepping (x1 x2 : Word) : Thread := { regs x1 x2 0 with step := true }

/-- TrapInstructions: a TRAP, an instruction of a single step, an ERET inside a handler and one outside, in a launch with a TVEC. -/
theorem meets_TrapInstructions :
    (∃ la, (small (regs 5 7 0) id withTvec).launchOf tile0 = some la ∧ la.kernel.tvec ≠ 0xFFFFFFFF#32) ∧
    Runs (small (regs 5 7 0) id withTvec) run (regs 5 7 0) ∧ NotEarly (regs 5 7 0) [1] ∧ Reads (regs 5 7 0) 1 5 (regs 5 7 0) ∧
    (regs 5 7 0).tstat.getLsbD 0 = false ∧
    (let th := stepping 5 7; let st := small th id withTvec;
      st.cur = some run ∧ st.thread? run = some th ∧ th.step = true ∧ th.tstat.getLsbD 0 = false ∧ NotEarly th [1, 2] ∧ Reads th 1 5 th ∧
      Reads th 2 7 th ∧ ∀ w, Puts st run th 3 w (th.setX 3 w)) ∧
    Runs (small (inHandler 0) id withTvec) run (inHandler 0) ∧ (inHandler 0).tstat.getLsbD 0 = true :=
  ⟨⟨_, rfl, by decide⟩, runs _ _ _ rfl fun _ => rfl, notEarly rfl _, reads (by decide) rfl, rfl,
    ⟨rfl, rfl, rfl, rfl, notEarly rfl _, reads (by decide) rfl, reads (by decide) rfl, fun w => puts (by decide) w⟩,
    runs _ _ _ rfl fun _ => rfl, rfl⟩

/-- IllegalWords: a word that is no instruction, an IMX before a SEND, operands at the end of the allocation of 16 registers and beyond it,
in a launch with a TVEC, in a handler of it and in a launch without one. -/
theorem meets_IllegalWords :
    Runs (small (regs 0 0 0) id withTvec) run (regs 0 0 0) ∧ Runs (small (inHandler 0) id withTvec) run (inHandler 0) ∧
    Runs (plain 0 0 0) run (regs 0 0 0) ∧ acceptsImx (encodeWord (.send 0 1 2 3 .w1)) = false ∧
    Named (regs 0 0 0) 15 ∧ ¬ Named (regs 0 0 0) 16 ∧ ¬ Named (regs 0 0 0) 119 ∧ Named (regs 0 0 0) 120 ∧
    (∃ la, (small (regs 0 0 0) id withTvec).launchOf tile0 = some la ∧ la.kernel.tvec = 16 ∧ la.cancelled = false ∧ la.detail = 0) ∧
    ∃ la, (plain 0 0 0).launchOf tile0 = some la ∧ la.kernel.tvec = 0xFFFFFFFF#32 ∧ la.cancelled = false ∧ la.detail = 0 := by
  refine ⟨runs _ _ _ rfl fun _ => rfl, runs _ _ _ rfl fun _ => rfl, runs _ _ _ rfl fun _ => rfl, by decide +kernel, ?_, ?_, ?_, ?_,
    ⟨_, rfl, rfl, rfl, rfl⟩, _, rfl, rfl, rfl, rfl⟩ <;> unfold Named <;> decide +kernel

/-- A thread of privileged code. -/
def privThread (x1 : Word) : Thread := { regs x1 0 0 with priv := true }

/-- SpecialRegisters: a user thread and a privileged one; the numbers 0, 0x80, 0x801 and 0x7FF as {a, sub}; nothing outstanding. -/
theorem meets_SpecialRegisters : ∀ th ∈ [regs 0x1000000 0 0, privThread 0x1000000], let st := small th id id;
    Runs st run th ∧ NotEarly th [1] ∧ Reads th 1 0x1000000 th ∧ (∀ w, Puts st run th 4 w (th.setX 4 w)) ∧
    (∃ la, st.launchOf tile0 = some la) ∧ (∃ tl, st.tile? tile0 = some tl ∧ tl.berth = some 0) ∧ st.flagsPending run th = false ∧
    (0#7).toNat * 32 + (0#5).toNat = 0 ∧ (4#7).toNat * 32 + (0#5).toNat = 0x80 ∧ (64#7).toNat * 32 + (1#5).toNat = 0x801 ∧
    (63#7).toNat * 32 + (31#5).toNat = 0x7FF := by
  intro th hth
  simp only [List.mem_cons, List.not_mem_nil, or_false] at hth
  rcases hth with rfl | rfl <;>
    exact ⟨runs _ _ _ rfl fun _ => rfl, notEarly rfl _, reads (by decide) rfl, fun w => puts (by decide) w, ⟨_, rfl⟩, ⟨_, rfl, rfl⟩, rfl, rfl,
      rfl, rfl, rfl⟩

/-- TimeAndFormat: registers of the allocation, the last two of it among them, and x0. -/
theorem meets_TimeAndFormat : ∀ w, let st := plain 5 7 9; let th := regs 5 7 9;
    Runs st run th ∧ (∃ tl, st.tile? tile0 = some tl ∧ tl.berth = some 0) ∧ Ranges th [(0, 2), (14, 2)] ∧ NotEarly th [1] ∧ Reads th 1 5 th ∧
    Puts st run th 1 w (th.setX 1 w) ∧ Puts st run th 0 w (th.setX 0 w) :=
  fun w => ⟨runs _ _ _ rfl fun _ => rfl, ⟨_, rfl, rfl⟩, ranges (by decide), notEarly rfl _, reads (by decide) rfl, puts (by decide) w,
    puts (by decide) w⟩

/-- A block of TSPAWN for core 5: an entry, arguments and 16 registers. -/
def spawnWords : List Word := [32, 1, 2, 3, 4, 0x01000500]

/-- A tile whose core 5 has a thread in each of its slots. -/
def crowded (tl : Tile) : Tile := { tl with threads := tl.threads ++ (List.range 64).map fun i => (320 + i, thread 16) }

/-- A tile with another thread. -/
def another (tl : Tile) : Tile := { tl with threads := tl.threads ++ [(1, thread 16)] }

/-- ThreadLife: a TSPAWN on a core with room and on one without; a TEXIT beside another thread; a TYIELD to an enabled position. -/
theorem meets_ThreadLife :
    (let th := words 16 spawnWords;
      (∃ la, (small th id id).launchOf tile0 = some la ∧ la.cancelled = false) ∧ Ranges th [(1, 6)] ∧ NotEarly th (rangeFields 1 6) ∧
      (7#7).toNat < th.alloc ∧ (∀ i < 6, th.reg (1 + i) = .ready (spawnWords.getD i 0#32)) ∧ (spawnWords.getD 5 0#32).getLsbD 11 = false ∧
      Runs (small th id id) run th ∧ Quiet (small th id id) run th ∧
      (∃ tl, (small th id id).tile? tile0 = some tl ∧ tl.canTake 16 5 = true) ∧
      Runs (small th crowded id) run th ∧ Quiet (small th crowded id) run th ∧
      (∃ tl, (small th crowded id).tile? tile0 = some tl ∧ tl.canTake 16 5 = false)) ∧
    (let th := { thread 16 with task := some ⟨1, 2⟩ }; let st := small th another id;
      Runs st run th ∧ (∃ la, st.launchOf tile0 = some la ∧ GoesOnRunning la) ∧
      ∃ tl e, st.tile? tile0 = some tl ∧ e ∈ tl.threads ∧ e.1 ≠ 0) ∧
    (let st := plain 0 0 0;
      Runs st run (regs 0 0 0) ∧ ∃ tl, st.tile? tile0 = some tl ∧ (tl.core 0).deal < 8 ∧ (tl.core 0).positions.length = 8 ∧
        ((tl.core 0).positions.getD (tl.core 0).deal ⟨false, [], 0⟩).enabled = true) := by
  refine ⟨⟨⟨_, rfl, rfl⟩, ranges (by decide +kernel), notEarly rfl _, by decide +kernel, by decide +kernel, rfl, runs _ _ _ rfl fun _ => rfl,
    quiet (by decide +kernel), ⟨_, rfl, by decide +kernel⟩, ⟨rfl, rfl, rfl⟩, quiet (by decide +kernel), _, rfl, by decide +kernel⟩,
    ⟨⟨rfl, rfl, rfl⟩, ⟨_, rfl, rfl, rfl⟩, _, (1, thread 16), rfl, by decide +kernel, by decide⟩,
    runs _ _ _ rfl fun _ => rfl, _, rfl, by decide +kernel, rfl, by decide +kernel⟩

/-- ThreadLife, Tasks: nothing is left that a TEXIT or a TASKGET waits for. -/
theorem meets_NothingLeft : NothingLeft (small { thread 16 with task := some ⟨1, 2⟩ } another id) run { thread 16 with task := some ⟨1, 2⟩ } := by
  refine ⟨by decide +kernel, ?_, by decide +kernel, by decide +kernel, rfl, ?_, ?_⟩
  · intro n c h; cases h
  · intro a h; cases h
  · intro tl h e he
    have : tl.threads = [(0, { thread 16 with task := some ⟨1, 2⟩ }), (1, thread 16)] := by injection h with h; rw [← h]; rfl
    simp only [this, List.mem_cons, List.not_mem_nil, or_false] at he
    rcases he with rfl | rfl <;> decide +kernel

/-- A packet of 16 registers, that starts at byte 32. -/
def packet : Packet := [32, 1, 2, 3, 4, 0, 0, 0x01000000, 5, 0, 6, 0, 0, 0, 0, 0]

/-- A tile whose work list holds it. -/
def withWork (tl : Tile) : Tile := { tl with work := [packet], threads := tl.threads ++ [(1, thread 16)] }

/-- The machine with the packet in the first sixteen words of L2. -/
def withPacket (entry flags : Word) (st : State) : State :=
  { st with mem := memWrite (memWrite st.mem (Place.scratch tile0 4096).key 4 entry.toNat) (Place.scratch tile0 4124).key 4 flags.toNat }

/-- Tasks: a TASKGET of a packet that fits 16 registers and not 8, and of an empty list, by a root thread, and a TASKGET of a spawned one;
a TASKPUT of a packet that is well formed, one with a reserved bit, and one whose entry lies outside the code. -/
theorem meets_Tasks :
    (∀ n ∈ [8, 16], let th := thread n; let st := small th withWork id;
      Runs st run th ∧ (∃ la, st.launchOf tile0 = some la ∧ GoesOnRunning la) ∧ th.parent = none ∧ (4#7).toNat < n ∧
      (∃ tl, st.tile? tile0 = some tl ∧ tl.work = [packet]) ∧ packet.length = 16 ∧
      (((packet.getD 7 0#32).extractLsb' 24 4).toNat + 1) * 8 = 16) ∧
    (let th := { thread 16 with parent := some 1 }; Runs (small th id withTvec) run th ∧ Named th 4 ∧ th.parent.isSome = true) ∧
    (∀ x ∈ [(32#32, 0x01000000#32), (32#32, 0x11000000#32), (64#32, 0x01000000#32)],
      let th := regs 0 2 0; let st := withPacket x.1 x.2 (small th id withScratch); let k := scratchKernel;
      Runs st run th ∧ (∃ la, st.launchOf tile0 = some la ∧ la.kernel = k) ∧ (∃ tl, st.tile? tile0 = some tl) ∧
      Ranges th [(1, 3)] ∧ NotEarly th (rangeFields 1 3) ∧ (4#7).toNat < th.alloc ∧ th.paired = none ∧
      (∀ i < 3, th.reg (1 + i) = .ready ([0#32, 2, 0].getD i 0#32)) ∧ Quiet st run th ∧ (k.entryOf 2).space = 1 ∧ (k.entryOf 2).elem = 2 ∧
      (∃ ps, putPlaces k run th 2 0 16 = .ok ps ∧ ps.length = 16 ∧ ps.head? = some 4096 ∧ ∀ o, checkLock st run (.scratch tile0 o) 4 0 false = .ok ()) ∧
      BitVec.ofNat 32 (memRead st.mem (Place.scratch tile0 4096).key 4) = x.1 ∧
      BitVec.ofNat 32 (memRead st.mem (Place.scratch tile0 4124).key 4) = x.2) := by
  refine ⟨?_, ⟨runs _ _ _ rfl fun _ => rfl, .inl (by decide +kernel), rfl⟩, ?_⟩
  · intro n hn
    simp only [List.mem_cons, List.not_mem_nil, or_false] at hn
    rcases hn with rfl | rfl <;> exact ⟨⟨rfl, rfl, rfl⟩, ⟨_, rfl, rfl, rfl⟩, rfl, by decide, ⟨_, rfl, rfl⟩, rfl, by decide⟩
  · intro x hx
    simp only [List.mem_cons, List.not_mem_nil, or_false] at hx
    rcases hx with rfl | rfl | rfl <;>
      exact ⟨⟨rfl, rfl, rfl⟩, ⟨_, rfl, rfl⟩, ⟨_, rfl⟩, ranges (by decide +kernel), notEarly rfl _, by decide, rfl, by decide +kernel,
        quiet (by decide +kernel), rfl, rfl, ⟨_, rfl, rfl, rfl, fun _ => rfl⟩, by decide +kernel, by decide +kernel⟩
/-- A thread that may migrate, with a target tile in x1. -/
def migratable (x1 : Word) : Thread := { regs x1 0 0 with migok := true }

/-- MigrateAndFollow: an eligible thread and one without MIGOK, with the tile itself, another tile of the grid of two and one outside it as
targets. -/
theorem meets_MigrateAndFollow : ∀ x ∈ [0#32, 1#32, 2#32],
    (let th := migratable x; let st := small th id twoTiles
      Runs st run th ∧ (∃ la, st.launchOf tile0 = some la ∧ GoesOnRunning la ∧ (x.toNat % 4096 < la.kernel.vx ∧ x.toNat / 4096 < la.kernel.vy ↔ x ≠ 2)) ∧
      NotEarly th [1] ∧ (1#7).toNat < th.alloc ∧ th.reg 1 = .ready x ∧ Eligible st run th ∧ (∀ n < th.alloc, (th.reg n).isPending = false) ∧
      th.inflight = [] ∧ Quiet st run th) ∧
    (let th := regs x 0 0; let st := small th id fun la => withTvec (twoTiles la);
      Runs st run th ∧ ¬ Eligible st run th ∧ ∃ tl, st.tile? tile0 = some tl ∧ ∀ e ∈ tl.threads, e.1 < 512) := by
  intro x hx
  simp only [List.mem_cons, List.not_mem_nil, or_false] at hx
  have el : ∀ y, Eligible (small (migratable y) id twoTiles) run (migratable y) := fun y => by
    refine ⟨rfl, rfl, rfl, rfl, rfl, by simp [migratable, regs, thread, Thread.fresh, Thread.setX, Thread.setReg], rfl, by simp [migratable, regs, thread, Thread.fresh, Thread.setX, Thread.setReg], fun tl h => ?_⟩
    injection h with h
    subst h
    refine ⟨fun e he => ?_, fun n t f ht hf => ?_⟩
    · have : e = (0, migratable y) := by simpa using he
      subst this; simp [migratable, regs, thread, Thread.fresh, Thread.setX, Thread.setReg]
    · have := AMap.mem_of_get? ht
      simp at this
      obtain ⟨-, rfl⟩ := this
      cases hf
  rcases hx with rfl | rfl | rfl <;>
    exact ⟨⟨⟨rfl, rfl, rfl⟩, ⟨_, rfl, ⟨rfl, rfl⟩, by decide +kernel⟩, notEarly rfl _, by decide, rfl, el _, by decide +kernel, rfl,
      quiet (by decide +kernel)⟩, ⟨rfl, rfl, rfl⟩, fun h => absurd h.2.1 (by decide), _, rfl, by decide +kernel⟩

/-- MigrateAndFollow: a FOLLOW of thread 1, of the privileged slot 511, and of the slot 2, which has no thread. -/
theorem meets_MigrateAndFollow_follow : ∀ x ∈ [1#32, 2#32, 511#32], let th := regs x 0 0; let st := small th another withTvec;
    Runs st run th ∧ NotEarly th [1] ∧ Reads th 1 x th ∧ th.follow = none ∧ ∃ tl, st.tile? tile0 = some tl ∧ tl.threads.get? 2 = none ∧
      (∃ o, tl.threads.get? 1 = some o ∧ o.mode = th.mode ∧ (o.follow.map (·.leader)).getD 1 ≠ 0) ∧ (tl.followers 1).length < 15 := by
  intro x hx
  simp only [List.mem_cons, List.not_mem_nil, or_false] at hx
  rcases hx with rfl | rfl | rfl <;>
    exact ⟨⟨rfl, rfl, rfl⟩, notEarly rfl _, reads (by decide) rfl, rfl, _, rfl, rfl, ⟨_, rfl, rfl, by decide⟩, by decide +kernel⟩

/-- SymbolWaits: a thread without symbols, ready and x0; one with a pending register, poisoned and not. -/
theorem meets_SymbolWaits :
    (∀ w, let st := plain 5 7 9; let th := regs 5 7 9
      Runs st run th ∧ st.symCount run = 0 ∧ 0 < th.alloc ∧ NotEarly th [1] ∧ Reads th 1 5 th ∧ Puts st run th 4 w (th.setX 4 w) ∧
      Puts st run th 0 w (th.setX 0 w)) ∧
    ∀ p w, let th := { awaiting .neutral with regs := (awaiting .neutral).regs.set 1 (.pending 6 0 .neutral p) }; let st := small th id id;
      Runs st run th ∧ st.symCount run < 8 ∧ NotEarly th [1] ∧ Named th 4 ∧ (1#7).toNat < th.alloc ∧ th.reg 1 = .pending 6 0 .neutral p ∧
      Puts st run th 4 w (th.setX 4 w) := by
  refine ⟨fun w => ⟨runs _ _ _ rfl fun _ => rfl, by decide +kernel, by decide, notEarly rfl _, reads (by decide) rfl, puts (by decide) w,
    puts (by decide) w⟩, fun p w => ⟨⟨rfl, rfl, rfl⟩, (by decide : 0 < 8), notEarly rfl _, .inl (by decide : 4 < 16), (by decide : 1 < 16), rfl, .inl ⟨(by decide : 4 < 16), rfl⟩⟩⟩

/-- A berth whose µTLB holds a page at 0 and one at 65,536. -/
def withUtlb (st : State) : State :=
  { st with berths := [(0, { Berth.reset with state := .moored, moored := some tile0, utlb := [⟨0, 0, 65536, 0, true, true, false⟩, ⟨0, 65536, 65536, 0, true, true, false⟩] })] }

/-- PrivilegedFunctions: a user thread in a launch with a TVEC, and a privileged one with the page of byte 65,536 in x1. -/
theorem meets_PrivilegedFunctions :
    Runs (small (regs 0 0 0) id withTvec) run (regs 0 0 0) ∧ (regs 0 0 0).priv = false ∧
    (let th := privThread 1; let st := withUtlb (small th id id)
      Runs st run th ∧ th.priv = true ∧ NotEarly th [1] ∧ Reads th 1 1 th ∧ (∃ tl, st.tile? tile0 = some tl ∧ tl.berth = some 0) ∧
      ∀ c ∈ st.accesses, ∀ va pa, c.place ≠ .rim va pa) :=
  ⟨runs _ _ _ rfl fun _ => rfl, rfl, ⟨rfl, rfl, rfl⟩, rfl, notEarly rfl _, reads (by decide) rfl, ⟨_, rfl, rfl⟩, fun c h => nomatch h⟩

/-- The partition of the small machine with a running job, phase and graph. -/
def withLevels (st : State) : State :=
  let v : Level := ⟨.running, false, 0, 0, 0⟩
  st.modPart 0 fun p => { p with jobs := [(0, ⟨v, false, some 0⟩)], phases := [((0, 0), v)], graphs := [((0, 0), ⟨v, false, some 0, []⟩)] }

/-- Cancels: a user thread of the one launch of its node, and a privileged thread, with running levels. -/
theorem meets_Cancels : ∀ th ∈ [regs 0 0 0, privThread 0], let st := withLevels (small th id id);
    Runs st run th ∧ (∃ la, st.launchOf tile0 = some la ∧ la.cancelled = false ∧ OnlyLaunch st run la ∧
      (∃ g, (st.part 0).graphs.get? (la.job, la.graph) = some g ∧ g.level.closed = false ∧ g.acted = false) ∧
      (∃ v, (st.part 0).phases.get? (la.job, la.phase) = some v ∧ v.closed = false ∧ v.state ≠ .cancelled) ∧
      ∃ j, (st.part 0).jobs.get? la.job = some j ∧ j.level.closed = false ∧ j.level.state ≠ .cancelled) ∧
    (∃ tl, st.tile? tile0 = some tl ∧ tl.berth = some 0) ∧ (st.part 0).waiting = [] := by
  intro th hth
  simp only [List.mem_cons, List.not_mem_nil, or_false] at hth
  rcases hth with rfl | rfl <;>
    exact ⟨⟨rfl, rfl, rfl⟩, ⟨_, rfl, rfl, ⟨by decide +kernel, by decide +kernel⟩, ⟨_, rfl, rfl, rfl⟩, ⟨_, rfl, rfl, by decide⟩,
      _, rfl, rfl, by decide⟩, ⟨_, rfl, rfl⟩, rfl⟩

/-! ### Vector instructions -/

/-- A vector context of thread 0 with G 16, VL 8, the slots 1 to 16 in every register and k1 of the even slots. -/
def vctx (queue : List VItem) : VCtx :=
  ⟨0, 1, 1, 16, 8, List.replicate 32 ((List.range 16).map fun i => BitVec.ofNat 32 (i + 1)), 0 :: 0x5555 :: List.replicate 6 0, queue, none, none, false⟩

/-- A tile that holds it. -/
def withVec (c : VCtx) (tl : Tile) : Tile := { tl with vecs := some c :: List.replicate 15 none }

/-- A thread that holds the claim. -/
def claimant (x1 : Word) : Thread := { regs x1 0 0 with claim := some 0 }

/-- An instruction in a claim's queue. -/
def queued (i : Instr) : VItem := ⟨1, [⟨5, i, [], 8, [], false, 0, none⟩]⟩

/-- The claim of the small machine. -/
theorem claims {th : Thread} {tl : Tile → Tile} {la : Launch → Launch} {c : VCtx} (h : th.claim = some 0) (hc : ∀ x : Tile, (tl x).vecs.getD 0 none = some c)
    (hb : ∀ x : Tile, (tl x).berth = x.berth) (hm : c.mark = none) (hs : c.stop = none) (hr : c.reneg = false) : Claims (small th tl la) run th 0 c := by
  refine ⟨h, ?_, hm, hs, hr, fun t b ht hb' => ?_⟩
  · have : ∀ x : Tile, (small th (fun _ => tl x) la).vec? run.tile 0 = some c := fun x => hc x
    exact this _
  · have : (some (tl _)) = some t := ht
    cases this
    rw [hb] at hb'
    cases hb'
    show Berth.reset.dark / 4 % 2 = 0
    decide

/-- VectorClaims: a free context and none; a claimant with KEEP set and clear, with an empty queue and one with an instruction; no claim. -/
theorem meets_VectorClaims :
    (∀ w, let st := plain 0x80011 0 0; let th := regs 0x80011 0 0
      Runs st run th ∧ NotEarly th [1] ∧ Reads th 1 0x80011 th ∧ th.claim = none ∧ Puts st run th 4 w (th.setX 4 w) ∧
      ∃ tl, st.tile? tile0 = some tl ∧ tl.berth = some 0 ∧ tl.vecs.idxOf? none = some 0) ∧
    (let st := small (regs 0 0 0) (fun tl => { tl with vecs := List.replicate 16 (some (vctx [])) }) withTvec; let th := regs 0 0 0;
      Runs st run th ∧ th.claim = none ∧ ∃ tl, st.tile? tile0 = some tl ∧ tl.vecs.idxOf? none = none) ∧
    (∀ w ∈ [0x80200#32, 0x80000#32], ∀ q ∈ [[], [queued (.vadd 0 1 2 3 .b32 0)]], let th := claimant w; let st := small th (withVec (vctx q)) id;
      Runs st run th ∧ NotEarly th [1] ∧ Reads th 1 w th ∧ Holds st run th 0 (vctx q) ∧ (w.getLsbD 9 = true ↔ w = 0x80200#32) ∧
      (∃ tl, st.tile? tile0 = some tl ∧ tl.berth = some 0) ∧ ((vctx q).queue = [] ↔ q = []) ∧ (1#7).toNat < th.alloc) := by
  refine ⟨fun w => ⟨runs _ _ _ rfl fun _ => rfl, notEarly rfl _, reads (by decide) rfl, rfl, puts (by decide) w, _, rfl, rfl, rfl⟩,
    ⟨runs _ _ _ rfl fun _ => rfl, rfl, _, rfl, by decide +kernel⟩, fun w hw q hq => ?_⟩
  simp only [List.mem_cons, List.not_mem_nil, or_false] at hw hq
  rcases hw with rfl | rfl <;> rcases hq with rfl | rfl <;>
    exact ⟨⟨rfl, rfl, rfl⟩, notEarly rfl _, reads (by decide) rfl, ⟨rfl, rfl, rfl⟩, by decide, ⟨_, rfl, rfl⟩,
      Iff.rfl, by decide⟩

/-- VectorIssue: a claimant with VL 32, 8 and 9 and a queue with one free entry; one with an instruction in its queue, and one with an empty
queue; no claim, and a pending renegotiation trap. -/
theorem meets_VectorIssue :
    (∀ vl ∈ [32, 8, 9], ∀ q ∈ [[], List.replicate 15 (queued (.vadd 0 1 2 3 .b32 0))],
      let c := { vctx q with vl := vl }; let th := claimant 7; let st := small th (withVec c) withTvec;
      Runs st run th ∧ Claims st run th 0 c ∧ inQueue c < 16 ∧ NotEarly th [1] ∧ Reads th 1 7 th ∧ MayAccess th [1] ∧ (1#7).toNat < th.alloc ∧
      th.reg 1 = .ready 7 ∧ Puts st run th 4 0 (th.setX 4 0)) ∧
    (Runs (small (regs 0 0 0) id withTvec) run (regs 0 0 0) ∧ (regs 0 0 0).claim = none) ∧
    (let c := { vctx [] with reneg := true }; let th := claimant 7; let st := small th (withVec c) withTvec;
      Runs st run th ∧ th.claim = some 0 ∧ st.vec? tile0 0 = some c ∧ c.mark = none ∧ c.stop = none ∧ c.reneg = true) := by
  refine ⟨fun vl hv q hq => ?_, ⟨⟨rfl, rfl, rfl⟩, rfl⟩, ⟨rfl, rfl, rfl⟩, rfl, rfl, rfl, rfl, rfl⟩
  simp only [List.mem_cons, List.not_mem_nil, or_false] at hv hq
  rcases hv with rfl | rfl | rfl <;> rcases hq with rfl | rfl <;>
    exact ⟨⟨rfl, rfl, rfl⟩, claims rfl (fun _ => rfl) (fun _ => rfl) rfl rfl rfl, by decide +kernel, notEarly rfl _, reads (by decide) rfl,
      ⟨notEarly rfl _, rfl, rfl⟩, by decide, rfl, puts (by decide) 0⟩

/-- VectorIssue: a VGADDR through L1, of rank 1, whose coordinates are the slots 1 to 8. -/
theorem meets_VectorIssue_gaddr : let th := claimant 1; let st := small th (withVec (vctx [])) withScratch; let k := scratchKernel;
    Runs st run th ∧ Claims st run th 0 (vctx []) ∧ (∃ la, st.launchOf tile0 = some la ∧ la.kernel = k) ∧ NotEarly th [1] ∧ Reads th 1 1 th ∧
    (k.entryOf 1).rank = 1 ∧ (k.entryOf 1).space = 1 ∧
    ∃ ls, vgaddrLanes k 0 1 4 1 false (vctx []) ((List.range 8).filter fun i => ((vctx []).mask 0).getLsbD i) = .ok ls ∧ ls.length = 16 :=
  ⟨⟨rfl, rfl, rfl⟩, claims rfl (fun _ => rfl) (fun _ => rfl) rfl rfl rfl, ⟨_, rfl, rfl⟩, notEarly rfl _, reads (by decide) rfl, rfl, rfl, _, rfl, rfl⟩

/-- VectorMemoryIssue: a claimant with the streams s0, of 8 elements, and s1, whose VL is what they hold, and one more. -/
theorem meets_VectorMemoryIssue : ∀ vl ∈ [8, 9],
    let th := { claimant 0 with streams := some { bound false [] with counts := [8] } :: some { bound true [] with counts := [8] } :: List.replicate 6 none }
    let c := { vctx [] with vl := vl }; let st := small th (withVec c) fun la => withTvec (withScratch la);
    Runs st run th ∧ Claims st run th 0 c ∧ inQueue c < 16 ∧ th.acqHold = [] ∧ th.stream? 2 = none ∧
    (∃ b, th.stream? 0 = some b ∧ b.write = false ∧ (b.pos + c.projected 0 + c.vl ≤ b.length ↔ vl = 8)) ∧
    ∃ b, th.stream? 1 = some b ∧ b.write = true ∧ (b.pos + c.projected 1 + c.vl ≤ b.length ↔ vl = 8) := by
  intro vl hv
  simp only [List.mem_cons, List.not_mem_nil, or_false] at hv
  rcases hv with rfl | rfl <;>
    exact ⟨⟨rfl, rfl, rfl⟩, claims rfl (fun _ => rfl) (fun _ => rfl) rfl rfl rfl, by decide +kernel, rfl, rfl,
      ⟨_, rfl, rfl, by decide +kernel⟩, _, rfl, rfl, by decide +kernel⟩

/-- VectorMemoryIssue: loads and stores of eight elements of L1 from the coordinate 0, all forms; and a gather behind an instruction. -/
theorem meets_VectorMemoryIssue_lanes : ∀ e ∈ vmemForms,
    let th := claimant 0; let st := small th (withVec (vctx [])) withScratch; let k := scratchKernel; let en := k.entryOf 1;
    Runs st run th ∧ Claims st run th 0 (vctx []) ∧ (∃ la, st.launchOf tile0 = some la ∧ la.kernel = k) ∧ Ranges th [(1, 2)] ∧
    MayAccess th (rangeFields 1 2) ∧ coordCount k 1 = 1 ∧ (∀ i < 2, th.reg (1 + i) = .ready 0) ∧ en.packed = false ∧ en.space = 1 ∧ th.lines = [] ∧
    (∀ w, ∃ places, vecResolve st run th k w 1 0 (decide (e.2 % 2 = 1))
      ((⟨e.2, 4, 1, 1, 1⟩ : VMem).elements (vctx []) en [0] 0) = .ok (places, st) ∧ places.length = 4) ∧
    Claims (small th (withVec (vctx [queued (.vadd 0 1 2 3 .b32 0)])) withScratch) run th 0 (vctx [queued (.vadd 0 1 2 3 .b32 0)]) := by
  intro e he
  simp only [vmemForms, List.mem_cons, List.not_mem_nil, or_false] at he
  rcases he with rfl | rfl | rfl | rfl | rfl | rfl <;>
    exact ⟨⟨rfl, rfl, rfl⟩, claims rfl (fun _ => rfl) (fun _ => rfl) rfl rfl rfl, ⟨_, rfl, rfl⟩, ranges (by decide), ⟨notEarly rfl _, rfl, rfl⟩, rfl,
      by decide, rfl, rfl, rfl, fun _ => ⟨_, rfl, rfl⟩, claims rfl (fun _ => rfl) (fun _ => rfl) rfl rfl rfl⟩

/-- VectorResults: any instruction at the head of the queue. -/
theorem meets_VectorResults : ∀ i, let st := small (claimant 0) (withVec (vctx [queued i])) id;
    st.vec? tile0 0 = some (vctx [queued i]) ∧ st.thread? ⟨tile0, (vctx [queued i]).owner⟩ = some (claimant 0) ∧
    (vctx [queued i]).queue = ⟨1, [⟨5, i, [], 8, [], false, 0, none⟩]⟩ :: [] ∧ 0 < (vctx [queued i]).g := fun _ => ⟨rfl, rfl, rfl, (by decide : 0 < 16)⟩

/-- ReceiveAdds: with nothing left to add, and with a message of one word taken and two words left. -/
theorem meets_ReceiveAdds : ∀ x ∈ [(0#32, none), (0x02030002#32, some ⟨0, 0, 4, [9], 0, 5⟩)],
    let i : Instr := .vrecvadd 0 3 1; let th := claimant x.1; let c := vctx [⟨1, [⟨5, i, [], 8, [], false, 0, x.2⟩]⟩]; let st := small th (withVec c) id;
    st.vec? tile0 0 = some c ∧ st.thread? ⟨tile0, c.owner⟩ = some th ∧ th.step = false ∧ c.queue = ⟨1, [⟨5, i, [], 8, [], false, 0, x.2⟩]⟩ :: [] ∧
    th.reg 1 = .ready x.1 ∧ (x.2 = none ↔ x.1.toNat % 65536 = 0) ∧ (x.2.isSome = true → x.1.getLsbD 25 = true ∧ 1 < x.1.toNat % 65536) := by
  intro x hx
  simp only [List.mem_cons, List.not_mem_nil, or_false] at hx
  rcases hx with rfl | rfl <;> exact ⟨rfl, rfl, rfl, rfl, rfl, by decide, by decide⟩

/-- The machine with a VADD behind the word at the code's start. -/
def withBlock (st : State) : State := { st with mem := memWrite st.mem (codeKey 0 0 4) 4 (encodeWord (.vadd 0 4 1 2 .b32 0)) }

/-- RepeatBlocks: counts of 0, 2, 4,096 and 4,097 of a block of one VADD. -/
theorem meets_RepeatBlocks : ∀ v ∈ [0#32, 2#32, 4096#32, 4097#32], let th := claimant v; let st := withBlock (small th (withVec (vctx [])) withTvec);
    Runs st run th ∧ (∃ la, st.launchOf tile0 = some la ∧ 8 < la.kernel.codeSize) ∧ NotEarly th [1] ∧ Reads th 1 v th ∧
    Claims st run th 0 (vctx []) ∧ inQueue (vctx []) + 1 ≤ 16 := by
  intro v hv
  simp only [List.mem_cons, List.not_mem_nil, or_false] at hv
  have h : ∀ w, Claims (withBlock (small (claimant w) (withVec (vctx [])) withTvec)) run (claimant w) 0 (vctx []) := fun w =>
    claims (th := claimant w) (tl := withVec (vctx [])) (la := withTvec) rfl (fun _ => rfl) (fun _ => rfl) rfl rfl rfl
  rcases hv with rfl | rfl | rfl | rfl <;>
    exact ⟨⟨rfl, rfl, rfl⟩, ⟨_, rfl, by decide⟩, notEarly rfl _, reads (by decide) rfl, h _, by decide⟩

/-- RepeatBlocks: two runs of that block decode, with the fields that their step moves. -/
theorem meets_RepeatBlocks_words : ∀ r ∈ [0, 1], ∃ op, repfDecode (memRead (withBlock (plain 0 0 0)).mem (codeKey 0 0 4) 4) 1 0 0 r = .ok op ∧
    vecFields op = [] ∧ vecStream op = none ∧ vecEntryTrap op 8 = none := by
  intro r hr
  simp only [List.mem_cons, List.not_mem_nil, or_false] at hr
  rcases hr with rfl | rfl <;> exact ⟨_, rfl, rfl, rfl, rfl⟩

/-! ### Matrix instructions -/

/-- A command of thread 0 in its core's queue. -/
def command (i : Instr) (x : Word) : MatCmd := ⟨5, 0, i, x, 0, none, ⟨[], [], []⟩, [], none, [], [], 0, true, [], none, 0, 0⟩

/-- A tile whose core 0 holds the lease, with commands. -/
def holding (cmds : List MatCmd) (tl : Tile) : Tile :=
  { tl.modCore 0 (fun c => { c with mcmds := cmds }) with arr := { tl.arr with holder := some 0 } }

/-- A lease member with the accumulators 0 to 3. -/
def member (x1 : Word) : Thread := { regs x1 0 0 with member := true, accGroup := some (0, 4) }

/-- A tile another thread of which has the accumulators 1 to 7. -/
def accsTaken (tl : Tile) : Tile := { tl with threads := tl.threads ++ [(1, { thread 16 with accGroup := some (1, 7) })] }

/-- MatrixContext: no member and no holder; a member of the holding core with no command and with one; groups of 1 (free at 0) and 8 (none
free) accumulators, and a thread that has a group. -/
theorem meets_MatrixContext :
    (∀ w, let st := small (regs 5 0 0) accsTaken withTvec; let th := regs 5 0 0;
      Runs st run th ∧ th.matMark = false ∧ th.member = false ∧ th.accGroup = none ∧ NotEarly th [1] ∧ Reads th 1 5 th ∧
      Puts st run th 4 w (th.setX 4 w) ∧ st.cmdsOf run = [] ∧
      ∃ tl, st.tile? tile0 = some tl ∧ tl.arr.holder = none ∧ tl.accFree 0 1 = true ∧ (∀ b, b + 8 ≤ 8 → tl.accFree b 8 = false) ∧
        (tl.core 0).mcmds = []) ∧
    (∀ q ∈ [[], [command (.mswap 0) 0]], let th := member 5; let st := small th (holding q) withTvec;
      Runs st run th ∧ th.matMark = false ∧ th.member = true ∧ (st.cmdsOf run = [] ↔ q = []) ∧ th.accGroup.isSome = true ∧ Named th 4 ∧
      ∃ tl, st.tile? tile0 = some tl ∧ tl.arr.holder = some 0 ∧ tl.hasMember 0 = true) ∧
    (let th := { regs 0 0 0 with matMark := true }; Runs (small th id id) run th ∧ 0 < th.alloc ∧ th.matMark = true) := by
  refine ⟨fun w => ⟨⟨rfl, rfl, rfl⟩, rfl, rfl, rfl, notEarly rfl _, reads (by decide) rfl, puts (by decide) w, rfl, _, rfl, rfl, by decide +kernel,
    fun b hb => ?_, rfl⟩, fun q hq => ?_, ⟨rfl, rfl, rfl⟩, (by decide : 0 < 16), rfl⟩
  · obtain rfl : b = 0 := by omega
    decide +kernel
  · simp only [List.mem_cons, List.not_mem_nil, or_false] at hq
    rcases hq with rfl | rfl <;>
      exact ⟨⟨rfl, rfl, rfl⟩, rfl, rfl, by decide +kernel, rfl, .inl (by decide), _, rfl, rfl, by decide +kernel⟩

/-- The holding core's array takes a command of a member when no budget is spent. -/
theorem takes {th : Thread} {tl : Tile → Tile} {la : Launch → Launch} {q : List MatCmd} {x : Tile} (hx : (small th tl la).tile? tile0 = some x)
    (hm : th.member = true) (hk : th.matMark = false) (hh : x.arr.holder = some 0) (hr : (x.core 0).reload = []) (hq : (x.core 0).mcmds = q)
    (hl : q.length < 8) (hc : x.arr.cmds < 32) (hy : x.arr.cyc < 16384) (hb : x.berth = some 0) : TakesCommand (small th tl la) run th x :=
  ⟨hx, hm, hk, hh, hr, by show (x.core 0).mcmds.length < 8; rw [hq]; exact hl, hc, hy, fun b h => by
    rw [hb] at h; cases h; show Berth.reset.dark / 2 % 2 = 0; decide⟩

/-- A launch with a plane of BF16 as L1 (64 columns of 64 elements), code elements of L6 as L2, scale codes as L3, and FP32 elements as L4. -/
def withPlanes (la : Launch) : Launch :=
  let e (elem rank : Nat) : BitVec 256 := BitVec.ofNat 256
    (1 + (rank - 1) * 2 ^ 3 + elem * 2 ^ 5 + 3 * 2 ^ 13 + 63 * 2 ^ 72 + 63 * 2 ^ 88 + 2 ^ 136 + 64 * 2 ^ 164)
  { la with kernel := { la.kernel with tvec := 16, layout := 0 :: e 3 2 :: e 5 1 :: e 6 1 :: e 4 1 :: List.replicate 59 0 } }

/-- The tile of the small machine under a change of it. -/
def tileOf (th : Thread) (tl : Tile → Tile) : Tile := (((small th tl id).tile? tile0).getD (Tile.unplaced []))

/-- MatrixIssue: a member of the holding core, whose queue has seven commands; row counts of 0, 1, 64 and 65; planes empty and with a dense
BF16 record; the accumulators 3, within the group, and 4, beyond it; and a thread that is no member. -/
theorem meets_MatrixIssue :
    (∀ v ∈ [0#32, 1#32, 64#32, 65#32], ∀ code ∈ [0, 1, 2],
      let th := member v
      let tl := fun tl => (holding (List.replicate 7 (command (.mzero 0 0) 0)) tl).modCore 0 fun c => { c with active := { PlaneSrc.empty with code := code } }
      let st := small th tl withPlanes;
      Runs st run th ∧ TakesCommand st run th (tileOf th tl) ∧ th.matCmd = none ∧ (∃ la, st.launchOf tile0 = some la) ∧
      th.accGroup = some (0, 4) ∧ (3#3).toNat < 4 ∧ ¬ (4#3).toNat < 4 ∧ NotEarly th [1] ∧ Reads th 1 v th ∧ (st.planesOf run).1.1.code = code ∧
      (st.planesOf run).1.2 = none) ∧
    (Runs (small (regs 0 0 0) id withPlanes) run (regs 0 0 0) ∧ (regs 0 0 0).member = false) := by
  refine ⟨fun v hv code hc => ?_, ⟨rfl, rfl, rfl⟩, rfl⟩
  simp only [List.mem_cons, List.not_mem_nil, or_false] at hv hc
  rcases hv with rfl | rfl | rfl | rfl <;> rcases hc with rfl | rfl | rfl <;>
    exact ⟨⟨rfl, rfl, rfl⟩, takes rfl rfl rfl rfl rfl rfl (by decide) (by decide +kernel) (by decide +kernel) rfl, rfl, ⟨_, rfl⟩, rfl, by decide,
      by decide, notEarly rfl _, reads (by decide) rfl, rfl, rfl⟩

/-- The descriptor of a plane from L1 at the coordinates (0, 0). -/
def planeWords : List Word := [1, 0, 0]

/-- MatrixIssue: an MLOADS of a dense BF16 plane. -/
theorem meets_MatrixIssue_loads : let th := { words 16 planeWords with member := true }; let st := small th (holding []) withPlanes;
    let k := (withPlanes loadLaunch).kernel
    Runs st run th ∧ TakesCommand st run th (tileOf th (holding [])) ∧ st.tile? tile0 = some (tileOf th (holding [])) ∧ th.member = true ∧
    th.acqHold = [] ∧ (∃ la, st.launchOf tile0 = some la ∧ la.kernel = k) ∧ coordCount k 1 = 2 ∧ (k.entryOf 1).rank = 2 ∧ Ranges th [(1, 3)] ∧ NotEarly th (rangeFields 1 3) ∧
    (∀ i < 3, th.reg (1 + i) = .ready (planeWords.getD i 0#32)) := by
  refine ⟨⟨rfl, rfl, rfl⟩, takes rfl rfl rfl rfl rfl rfl (by decide) (by decide +kernel) (by decide +kernel) rfl, rfl, rfl, rfl, ⟨_, rfl, rfl⟩, rfl, rfl,
    ranges (by decide), notEarly rfl _, by decide⟩

/-- The kernel of the launches with the planes. -/
def planeKernel : Kernel := (withPlanes loadLaunch).kernel

/-- An element of the plane has its location. -/
theorem plane_element (i : Nat) (h : i < 4096) :
    ∃ n, resolveLoc planeKernel 0 0 false 1 .read (planeCoords [0, 0] (i / 64) (i % 64)) 0 (i % 64) = .ok (.byte 0 1 n (i % 4)) := by
  have h1 : planeKernel.entryOf 1 = ⟨1, 2, 3, 0, 0, 3, 0, 0, 0, [63, 63, 0, 0], [1, 64, 0, 0]⟩ := rfl
  have c1 : ¬ ((i : Int) % 64 < 0 ∨ ((63 : Nat) : Int) < (i : Int) % 64) := by omega
  have c2 : ¬ ((i : Int) / 64 < 0 ∨ ((63 : Nat) : Int) < (i : Int) / 64) := by omega
  refine ⟨2 * i, ?_⟩
  unfold resolveLoc
  simp only [h1, planeCoords, Int.zero_add]
  have hb : applyBounds ⟨1, 2, 3, 0, 0, 3, 0, 0, 0, [63, 63, 0, 0], [1, 64, 0, 0]⟩ true 1 (i % 64) 0 [63, 63]
      [(i : Int) % 64, (i : Int) / 64] = .ok (some [(i : Int) % 64, (i : Int) / 64]) := by
    rw [applyBounds, if_neg c1, applyBounds, if_neg c2]; rfl
  simp only [List.take, decide_true]
  simp [hb, Entry.permits, Entry.index, Entry.packed, Entry.size, spaceLimit, pure, bind, Except.bind, Except.pure]
  rw [if_neg (by omega)]
  simp
  omega

/-- The source of that plane. -/
def planeSrc : PlaneSrc := ⟨1, 1, [0, 0], 0, 0, (0, 0), 0, 0, false⟩

/-- The elements of the plane, resolved. -/
def planeRes : List (Nat × Except LocTrap Loc) := resolveAll planeKernel 0 planeSrc 1 planeSrc.elements

theorem plane_res : ∀ r ∈ planeRes, ∃ n c, r.2 = .ok (.byte 0 1 n c) := by
  intro r hr
  simp only [planeRes, resolveAll, PlaneSrc.elements, List.mem_map, List.mem_range] at hr
  obtain ⟨e, ⟨i, hi, rfl⟩, rfl⟩ := hr
  obtain ⟨n, hn⟩ := plane_element i (by simpa [PlaneSrc.kept, PlaneSrc.l6, planeSrc] using hi)
  exact ⟨n, _, hn⟩

theorem plane_place (rs : List (Nat × Except LocTrap Loc)) (st : State) (th : Thread) (h : ∀ r ∈ rs, ∃ n c, r.2 = .ok (.byte 0 1 n c)) :
    ∃ ps, placeAll st run th planeKernel 1 rs = .ok (ps, st) := by
  induction rs with
  | nil => exact ⟨[], rfl⟩
  | cons r rs ih =>
    obtain ⟨n, c, hr⟩ := h r (by simp)
    obtain ⟨ps, hps⟩ := ih fun x hx => h x (List.mem_cons_of_mem _ hx)
    obtain ⟨lane, r⟩ := r
    cases hr
    simp [placeAll, placeOf, hps, bind, Except.bind]

theorem plane_first (word : Word) (pick : Cause → Bool) (rs : List (Nat × Except LocTrap Loc)) (h : ∀ r ∈ rs, ∃ n c, r.2 = .ok (.byte 0 1 n c)) :
    firstTrap word pick rs = .ok () := by
  unfold firstTrap
  rw [List.findSome?_eq_none_iff.2]
  intro r hr
  obtain ⟨n, c, h⟩ := h r hr
  simp [h]

/-- MatrixIssue: the check of that plane passes, in any state. -/
theorem meets_MatrixIssue_check (st : State) (th : Thread) (w : Word) :
    ∃ places, planeCheck st run th planeKernel w planeSrc false = .ok (places, st) := by
  obtain ⟨ps, hps⟩ := plane_place planeRes st th plane_res
  have h1 : planeKernel.entryOf 1 = ⟨1, 2, 3, 0, 0, 3, 0, 0, 0, [63, 63, 0, 0], [1, 64, 0, 0]⟩ := rfl
  have h2 := fun pick => plane_first w pick planeRes plane_res
  have s1 : planeSrc.scaleElements planeKernel = [] := rfl
  have s2 : planeSrc.maskElements planeKernel = [] := rfl
  have s3 : planeSrc.entry = 1 := rfl
  have s4 : planeSrc.l6 = false := rfl
  have s5 : planeSrc.sparse = false := rfl
  have s6 : resolveAll planeKernel run.tile.num planeSrc 1 planeSrc.elements = planeRes := rfl
  refine ⟨⟨ps, [], []⟩, ?_⟩
  unfold planeCheck
  simp only [s1, s2, s3, s4, s5, s6, h1, h2, hps]
  simp [resolveAll, firstTrap, placeAll, bind, Except.bind]
/-- A stream of an entry with a number of elements. -/
def ofEntry (write : Bool) (entry n : Nat) (queue : List Elem) : Stream := ⟨write, entry, [0], [[1]], [n], 0, 0, 0, queue, []⟩

/-- A lease member with the streams s0 of BF16 or code elements, s1 of scale codes and s2 of FP32 elements to write. -/
def fed (x1 : Word) (entry n : Nat) : Thread :=
  { member x1 with streams := some (ofEntry false entry n []) :: some (ofEntry false 3 n []) :: some (ofEntry true 4 n []) :: List.replicate 5 none }

/-- MatrixIssue: an MMA of 2 rows of stream BF16 and of stream L6 (with 64 and 128 elements a row), and an MDRAIN of 2 rows, of the
accumulators 0 and 1; the streams hold exactly what they need. -/
theorem meets_MatrixIssue_streams : ∀ l : Bool, let n := if l then 256 else 128
    let th := fed 2 (if l then 2 else 1) n; let st := small th (holding []) withPlanes;
    Runs st run th ∧ TakesCommand st run th (tileOf th (holding [])) ∧ th.matCmd = none ∧ th.acqHold = [] ∧ (∃ la, st.launchOf tile0 = some la ∧ la.kernel = planeKernel) ∧
    th.accGroup = some (0, 4) ∧ NotEarly th [1] ∧ Reads th 1 2 th ∧ (st.planesOf run).1.1.code = 0 ∧ (st.planesOf run).1.2 = none ∧
    planeDepth l 0 = n / 2 ∧ Serves st run th planeKernel 0 false (if l then 5 else 3) n ∧ Serves st run th planeKernel 1 false 6 8 ∧
    Serves st run th planeKernel 2 true 4 128 := by
  intro l
  cases l <;>
    exact ⟨⟨rfl, rfl, rfl⟩, takes rfl rfl rfl rfl rfl rfl (by decide) (by decide +kernel) (by decide +kernel) rfl, rfl, rfl, ⟨_, rfl, rfl⟩, rfl,
      notEarly rfl _, reads (by decide) rfl, rfl, rfl, rfl, ⟨_, rfl, rfl, rfl, by decide +kernel⟩, ⟨_, rfl, rfl, rfl, by decide +kernel⟩,
      _, rfl, rfl, rfl, by decide +kernel⟩

/-- MatrixIssue: threads held at a command that has ended, and at one whose data has all been popped or pushed. -/
theorem meets_MatrixIssue_held : let th := { fed 1 1 64 with matCmd := some 5 }
    let c := { command (.mma 0 0 1 0 false false false false) 1 with data := List.replicate 64 0, prog := 64 }
    (Runs (small th (holding []) withPlanes) run th ∧ ((small th (holding []) withPlanes).cmdsOf run).find? (·.id = 5) = none) ∧
    (Runs (small th (holding [c]) withPlanes) run th ∧ ((small th (holding [c]) withPlanes).cmdsOf run).find? (·.id = 5) = some c ∧
      1 * planeDepth false 0 ≤ c.data.length ∧ 64 * (c.x.toNat % 128) ≤ c.prog) := by
  refine ⟨⟨⟨rfl, rfl, rfl⟩, by decide +kernel⟩, ⟨rfl, rfl, rfl⟩, by decide +kernel, by decide +kernel, by decide +kernel⟩

/-- MLS of a form that ended with STAT 2, of the accumulators from a. -/
def mlsOf (form a stat : Nat) : BitVec 64 := BitVec.ofNat 64 (stat * 2 ^ 29 + form * 2 ^ 24 + a * 2 ^ 21)

/-- Iterations: operands of each form at the bounds of their checks, accepted from a member with eight accumulators. -/
theorem meets_Iterations : ∀ e ∈ iterForms, ∀ v ∈ [0x00010001#32, 0x00400001#32],
    let th := { member v with accGroup := some (0, 8) }; let st := small th (holding []) withTvec;
    Runs st run th ∧ TakesCommand st run th (tileOf th (holding [])) ∧ th.accGroup = some (0, 8) ∧ e.2.2 0 7 < 8 ∧ NotEarly th [1] ∧ Reads th 1 v th ∧
    e.2.1 v 0 7 := by
  intro e he v hv
  simp only [iterForms, List.mem_cons, List.not_mem_nil, or_false] at he hv
  rcases he with rfl | rfl | rfl | rfl <;> rcases hv with rfl | rfl <;>
    exact ⟨⟨rfl, rfl, rfl⟩, takes rfl rfl rfl rfl rfl rfl (by decide) (by decide +kernel) (by decide +kernel) rfl, rfl, by decide, notEarly rfl _,
      reads (by decide) rfl, by decide⟩

/-- Iterations: the array begins an MITER.ns3 with a cap of 0, an MPOLY of degree 0, and a reissue of each with STAT 2. -/
theorem meets_Iterations_begin : ∀ x ∈ [(Instr.miterNs3 0 0 1 true, 0x00400000#32, mlsOf 0 0 0), (.mpoly 0 0 1 true, 0, mlsOf 3 0 0),
      (.miterNs3 0 0 1 false, 0x00400000#32, mlsOf 0 0 2), (.mpoly 0 0 1 false, 0, mlsOf 3 0 2)],
    let th := { member 0 with mls := x.2.2, status := .off .matrix 0 }; let c := command x.1 x.2.1; let st := small th (holding [c]) id;
    st.running tile0 = some (tileOf th (holding [c]), 0, c) ∧ c.started = none ∧ c.thr / 64 = 0 ∧ st.thread? ⟨tile0, c.thr⟩ = some th ∧ th.step = false ∧
    c.x.toNat % 8 = 0 ∧ c.x.toNat % 65536 = 0 := by
  intro x hx
  simp only [List.mem_cons, List.not_mem_nil, or_false] at hx
  rcases hx with rfl | rfl | rfl | rfl <;> exact ⟨rfl, rfl, rfl, rfl, rfl, by decide, by decide⟩

/-- MatrixToVector: an MTOV of a claimant for the rows 63 (one group) and 63 to 64 (two); and one whose rows the array has delivered. -/
theorem meets_MatrixToVector :
    (∀ v ∈ [63#32, 0x1003F#32], let th := { member v with claim := some 0 }
      let tl := fun tl => withVec (vctx []) (holding [] tl); let st := small th tl withTvec;
      Runs st run th ∧ TakesCommand st run th (tileOf th tl) ∧ th.accGroup = some (0, 4) ∧ Claims st run th 0 (vctx []) ∧ inQueue (vctx []) < 16 ∧
      NotEarly th [1] ∧ Reads th 1 v th) ∧
    (let i : Instr := .mtov 0 0 1 false false
      let c := vctx [⟨1, [⟨5, i, [0], 8, ([3#32, 4#32].zipIdx.map fun w => ⟨w.2, 0, none, some w.1, false⟩), false, 0, none⟩]⟩]
      (small (claimant 0) (withVec c) id).vec? tile0 0 = some c ∧
      (small (claimant 0) (withVec c) id).thread? ⟨tile0, c.owner⟩ = some (claimant 0)) := by
  refine ⟨fun v hv => ?_, rfl, rfl⟩
  simp only [List.mem_cons, List.not_mem_nil, or_false] at hv
  rcases hv with rfl | rfl <;>
    exact ⟨⟨rfl, rfl, rfl⟩, takes rfl rfl rfl rfl rfl rfl (by decide) (by decide +kernel) (by decide +kernel) rfl, rfl,
      claims rfl (fun _ => rfl) (fun _ => rfl) rfl rfl rfl, by decide, notEarly rfl _, reads (by decide) rfl⟩

/-- A tile at cycle 512, whose array has been warm since cycle 0. -/
def warm (cmds : List MatCmd) (tl : Tile) : Tile :=
  let t := holding cmds { tl with cycle := 512 }
  { t with arr := { t.arr with ramp := .up 0 } }

/-- The array of the small machine executes a command. -/
theorem executing {th : Thread} {c : MatCmd} {tl : Tile → Tile} {la : Launch → Launch} (hx : (small th tl la).running tile0 = some (tileOf th tl, 0, c))
    (hc : c.thr = 0) (ht : (small th tl la).thread? run = some th) (hq : ((tileOf th tl).core 0).mcmds = [c]) :
    Executing (small th tl la) tile0 (tileOf th tl) 0 c th := by
  refine ⟨hx, by rw [hc], by rw [hc]; exact ht, fun o ho _ => ?_⟩
  rw [hq] at ho
  simpa using ho

/-- MatrixResults: an MZERO that has not started and one that has run its 16 tile cycles, an MSWAP, an MLOADS.fb (and .t), a feedback MMA of
64 rows whose rows are taken in, and an MDRAIN of one row at its first element. -/
theorem meets_MatrixResults :
    (∀ c ∈ [command (.mzero 0 3) 0, { command (.mzero 0 3) 0 with started := some 496 }, command (.mswap 0) 0,
        { command (.mloadsFb 0 2 false) 0 with src := some { PlaneSrc.empty with code := 5, acc := 2 } },
        { command (.mloadsFb 0 2 true) 0 with src := some { PlaneSrc.empty with code := 6, acc := 2 } },
        { command (.mmaFb 0 1 2 1 false false) 64 with src := some PlaneSrc.empty, started := some 0 },
        { command (.mdrain 0 0 1 2 false false false false) 1 with started := some 0 }],
      let th := fed 0 1 64; let st := small th (warm [c]) withPlanes;
      Executing st tile0 (tileOf th (warm [c])) 0 c th ∧ th.mode ≠ .w2 ∧ 0 + c.paid ≤ (tileOf th (warm [c])).cycle) ∧
    (tileOf (fed 0 1 64) (warm [])).arr.ramp = .up 0 ∧ 496 + 16 ≤ (tileOf (fed 0 1 64) (warm [])).cycle ∧
    64 ≤ ({ command (.mmaFb 0 1 2 1 false false) 64 with started := some 0 } : MatCmd).slots 0 512 ∧
    (∃ q, (fed 0 1 64).stream? 2 = some q ∧ q.queue.length < 16 ∧
      streamTarget (small (fed 0 1 64) (warm []) withPlanes) run false q q.pos =
        .ok (some (.scratch tile0 0, 0), small (fed 0 1 64) (warm []) withPlanes)) := by
  refine ⟨fun c hc => ?_, rfl, by decide +kernel, by decide +kernel, _, rfl, by decide, rfl⟩
  simp only [List.mem_cons, List.not_mem_nil, or_false] at hc
  rcases hc with rfl | rfl | rfl | rfl | rfl | rfl | rfl <;> exact ⟨executing rfl rfl rfl rfl, by decide, by decide +kernel⟩

/-- A dense BF16 plane whose elements are all discarded. -/
def discarded : PlanePlaces := ⟨List.replicate 4096 none, [], []⟩

/-- An MLOADS of it, with its source. -/
def loading : MatCmd := { command (.mloads 0 1 false false) 0 with src := some { PlaneSrc.empty with code := 1, entry := 1 }, places := discarded }

/-- PlanesAndLeases: an MLOADS at the head of the holder's queue that can be filled, not begun and begun 64 tile cycles ago. -/
theorem meets_PlanesAndLeases : ∀ s ∈ [none, some 448], let c := { loading with started := s }
    let st := small (member 0) (warm [c]) withPlanes; let tl := tileOf (member 0) (warm [c]);
    st.tile? tile0 = some tl ∧ (∃ la, st.launchOf tile0 = some la) ∧ tl.arr.holder = some 0 ∧ (tl.core 0).mcmds = c :: [] ∧ (tl.core 0).reload = [] ∧
    isEntryLoad c.instr = true ∧ c.src = some { PlaneSrc.empty with code := 1, entry := 1 } ∧ st.entered c.regs = true ∧
    planeReady st tile0 (.plane tile0 c.id) c.places = true ∧ c.places.elems.length = 4096 ∧ poisonedElems st c.places = [] ∧
    ∀ s0, c.started = some s0 → s0 + 64 ≤ tl.cycle := by
  intro s hs
  have none4096 : ∀ x ∈ discarded.elems, x = none := fun x hx => List.eq_of_mem_replicate hx
  have ready : planeReady (small (member 0) (warm [{ loading with started := s }]) withPlanes) tile0 (.plane tile0 loading.id) discarded = true := by
    show (discarded.elems ++ [] ++ []).all _ = true
    rw [List.all_eq_true]
    intro x hx
    simp only [List.append_nil] at hx
    rw [none4096 x hx]
  have clean : ∀ st : State, poisonedElems st discarded = [] := fun st => by
    unfold poisonedElems
    rw [List.filterMap_eq_nil_iff]
    intro x hx
    have hn : x.1 = none := by
      rcases List.mem_append.1 (List.fst_mem_of_mem_zipIdx hx) with h | h
      · rcases List.mem_append.1 h with h | h
        · exact none4096 x.1 h
        · exact absurd h List.not_mem_nil
      · exact absurd h List.not_mem_nil
    simp [hn]
  simp only [List.mem_cons, List.not_mem_nil, or_false] at hs
  rcases hs with rfl | rfl
  · exact ⟨rfl, ⟨_, rfl⟩, rfl, rfl, rfl, rfl, rfl, rfl, ready, List.length_replicate, clean _, fun s0 h => nomatch h⟩
  · refine ⟨rfl, ⟨_, rfl⟩, rfl, rfl, rfl, rfl, rfl, rfl, ready, List.length_replicate, clean _, fun s0 h => ?_⟩
    cases h
    decide +kernel

/-- PlanesAndLeases: reloads of the shadow plane, transposed, and of the active one, the last, not begun and begun 64 tile cycles ago. -/
theorem meets_PlanesAndLeases_reload : ∀ x ∈ [([true, false], 6), ([false], 5)], ∀ s ∈ [none, some 448],
    let tl := fun tl => (warm [] tl).modCore 0 fun c =>
      { c with reload := x.1, reloadAt := s, active := { PlaneSrc.empty with code := 5, acc := 1 }, shadow := { PlaneSrc.empty with code := 6, acc := 1 } }
    let st := small (member 0) tl id;
    st.tile? tile0 = some (tileOf (member 0) tl) ∧ (∃ la, st.launchOf tile0 = some la) ∧ (tileOf (member 0) tl).arr.holder = some 0 ∧
    ((tileOf (member 0) tl).core 0).reload = x.1 ∧ ((tileOf (member 0) tl).core 0).reloadAt = s ∧ 448 + 64 ≤ (tileOf (member 0) tl).cycle ∧
    (if x.1.head? = some true then ((tileOf (member 0) tl).core 0).shadow else ((tileOf (member 0) tl).core 0).active).code = x.2 := by
  intro x hx s hs
  simp only [List.mem_cons, List.not_mem_nil, or_false] at hx hs
  rcases hx with rfl | rfl <;> rcases hs with rfl | rfl <;> exact ⟨rfl, ⟨_, rfl⟩, rfl, rfl, rfl, by decide +kernel, rfl⟩

/-- A tile whose lease is spent, with another core that asks, or none. -/
def spent (asks : Bool) (tl : Tile) : Tile :=
  let t := holding [] tl
  { t with arr := { t.arr with cmds := 32 }, threads := t.threads ++ if asks then [(64, { thread 16 with member := true })] else [] }

/-- PlanesAndLeases: a lease that has taken 32 commands, with no core that asks and with core 1. -/
theorem meets_PlanesAndLeases_spent : ∀ asks, let tl := tileOf (member 0) (spent asks)
    (small (member 0) (spent asks) id).tile? tile0 = some tl ∧ tl.arr.holder = some 0 ∧ tl.arr.cmds = 32 ∧
    tl.requestersFrom 1 = (if asks then [1] else []) ∧ (tl.core 0).mcmds = [] := by
  intro asks; cases asks <;> exact ⟨rfl, rfl, rfl, by decide +kernel, rfl⟩

/-- An MMA that has popped one element. -/
def popping : MatCmd := { command (.mma 0 0 1 0 false false false false) 1 with started := some 0, data := [0], marks := [0], src := some PlaneSrc.empty }

/-- A member that is held at it, whose s0 holds a fault. -/
def faulted : Thread := { member 1 with streams := some (ofEntry false 1 64 [.fault .bounds]) :: List.replicate 7 none, matCmd := some 5 }

/-- PlanesAndLeases: an MMA whose stream meets a fault, in a launch with a TVEC; a Weir step with three waiting arrays; a ramp-down at its
end. -/
theorem meets_PlanesAndLeases_faults :
    (let st := small faulted (warm [popping]) withPlanes;
      Executing st tile0 (tileOf faulted (warm [popping])) 0 popping faulted ∧ popping.marks = [0] ∧ popping.started.isSome = true ∧
      popping.data.length < (popping.x.toNat % 128) * 64 ∧ (∃ q, faulted.stream? 0 = some q ∧ q.queue = .fault .bounds :: []) ∧
      Cause.bounds.toFirmware = false ∧ (∃ la, st.launchOf tile0 = some la ∧ la.kernel.tvec = 16) ∧ faulted.tstat.getLsbD 0 = false) ∧
    (let tl := fun tl : Tile => { tl with arr := { tl.arr with ramp := .requested } }
      let st := { small (thread 16) tl id with fields := [(0, { Field.reset 0 with time := 100, weirStep := 9, weirQueue := [(9, 0, tile0), (9, 1, ⟨0, 0, 1⟩), (9, 2, ⟨0, 0, 2⟩)] })] };
      (st.field 0).weirLimit = 0 ∧ (st.field 0).weirQueue = (9, 0, tile0) :: (9, 1, ⟨0, 0, 1⟩) :: [(9, 2, ⟨0, 0, 2⟩)] ∧
      (st.field 0).weirStep < (st.field 0).time * 9 / 16 ∧ 9 ≤ (st.field 0).weirStep ∧ (st.tiles.map (·.1)).Nodup ∧
      (∃ tl, st.tile? tile0 = some tl ∧ tl.arr.ramp = .requested)) ∧
    (let tl := fun tl : Tile => { tl with cycle := 40, arr := { tl.arr with ramp := .down 7 8 } };
      (small (thread 16) tl id).tile? tile0 = some (tileOf (thread 16) tl) ∧ (tileOf (thread 16) tl).arr.ramp = .down 7 8 ∧
      8 + 4 * (7 + 1) ≤ (tileOf (thread 16) tl).cycle) := by
  refine ⟨⟨executing rfl rfl rfl rfl, rfl, rfl, by decide, ⟨_, rfl, rfl⟩, rfl, ⟨_, rfl, rfl⟩, rfl⟩, ⟨rfl, rfl, by decide, by decide, by decide +kernel, _, rfl, rfl⟩, rfl, rfl, by decide +kernel⟩

/-! ### Events of threads, and the traffic between tiles -/

/-- Tile 1 of the launch. -/
def tile1 : TileId := ⟨0, 0, 1⟩

/-- A launch of two tiles in one gang, moored at the berths 0 and 1. -/
def bothTiles (la : Launch) : Launch :=
  { la with kernel := { la.kernel with vx := 2, gx := 2 }, table := [(0, ⟨some 0, false, 0, 1⟩), (1, ⟨some 1, false, 0, 4⟩)], moorBytes := 4096 }

/-- A machine of those two tiles. -/
def two (th : Thread) (a : Tile → Tile) (b : Tile → Tile) (la : Launch → Launch) : State :=
  let st := small th a fun l => la (bothTiles l)
  { st with
    berths := st.berths ++ [(1, { Berth.reset with state := .moored, moored := some tile1 })]
    tiles := st.tiles ++ [(tile1, b { Tile.unplaced [] with berth := some 1, threads := [(0, thread 16)] })] }

/-- ThreadEvents: a thread on the wheel and one off it, at cycle 7, with a stall count, a bubble, neither, and moved until cycle 8; with results
that are due then and later. -/
theorem meets_ThreadEvents_turns : ∀ s ∈ [RunStatus.dealt 3, .off .matrix 0], ∀ x ∈ [(2, false, 0), (0, true, 7), (0, false, 0), (2, false, 8)],
    let th := { regs 0 0 0 with status := s, stall := x.1, bubble := x.2.1, notBefore := x.2.2, inflight := [⟨4, 1, 0, 6⟩, ⟨4, 2, 3, 7⟩, ⟨5, 3, 4, 8⟩] }
    let tl := fun tl : Tile => { tl with cycle := 7 }; let st := small th tl id;
    st.thread? run = some th ∧ st.tile? tile0 = some (tileOf th tl) ∧
    (th.inflight.filter fun f => decide (f.due ≤ (tileOf th tl).cycle)).length = 2 ∧ (th.notBefore ≤ (tileOf th tl).cycle ↔ x.2.2 ≠ 8) := by
  intro s hs x hx
  simp only [List.mem_cons, List.not_mem_nil, or_false] at hs hx
  rcases hs with rfl | rfl <;> rcases hx with rfl | rfl | rfl | rfl <;> exact ⟨rfl, rfl, rfl, by decide +kernel⟩

/-- A core that R39 chooses, by evaluation. -/
theorem chooses {tl : Tile} {n core : Nat} (h : core < 8 ∧ tl.canTake n core = true ∧
    ∀ c < 8, tl.canTake n c = true → tl.freeSlots c < tl.freeSlots core ∨ (tl.freeSlots c = tl.freeSlots core ∧ core ≤ c)) : Chooses tl n core := h

/-- A migrating thread that has arrived. -/
def migrant : Migrant := ⟨48, List.replicate 16 7, 5, 1, true, false, true, some ⟨1, 2⟩, .w3, false, none, []⟩

/-- ThreadEvents: a dispatch, without and with an arrived thread for which there is no room, and an arrived thread, which go to core 1 beside the
thread of core 0, once core 7 has had its turn. -/
theorem meets_ThreadEvents_creations : ∀ ms ∈ [[], [migrant]], let tl := fun tl : Tile => { tl with work := [packet], migrants := ms }
    let st := { small (thread 16) tl id with focus := (tile0, 7) };
    st.cycleOver tile0 = true ∧ (∃ la, st.launchOf tile0 = some la ∧ (tileOf (thread 16) tl).threads.length < la.kernel.threads) ∧ st.tile? tile0 = some (tileOf (thread 16) tl) ∧ (∃ la, st.launchOf tile0 = some la ∧ la.cancelled = false) ∧ (tileOf (thread 16) tl).berth = some 0 ∧
    (tileOf (thread 16) tl).stopped = false ∧ (tileOf (thread 16) tl).work = packet :: [] ∧ packet.length = 16 ∧
    (tileOf (thread 16) tl).migrants = ms ∧ migrant.regs.length = 16 ∧ Chooses (tileOf (thread 16) tl) 16 1 := by
  intro ms hm
  simp only [List.mem_cons, List.not_mem_nil, or_false] at hm
  rcases hm with rfl | rfl <;>
    exact ⟨by decide +kernel, ⟨_, rfl, by decide +kernel⟩, rfl, ⟨_, rfl, rfl⟩, rfl, rfl, rfl, rfl, rfl, rfl, chooses (by decide +kernel)⟩

/-- ThreadEvents: a dispatch of a packet of 8 registers beside an arrived thread, when every core has one free range of 8 registers. -/
theorem meets_ThreadEvents_full :
    let big := thread 128
    let tl := fun tl : Tile => { tl with migrants := [migrant], threads := (List.range 8).flatMap fun c => (List.range 16).map fun i =>
      (64 * c + i, { big with base := 128 * i, alloc := if i = 15 then 120 else 128 }) }
    ∀ c < 8, (tileOf big tl).canTake 16 c = false ∧ (tileOf big tl).canTake 8 c = true := by decide +kernel

/-- ThreadEvents: a killed thread beside another one. -/
theorem meets_ThreadEvents_kills : let th := { thread 16 with kill := true, task := some ⟨1, 2⟩ }; let st := small th another id;
    st.thread? run = some th ∧ th.kill = true ∧ th.rerun = false ∧ st.tile? tile0 = some (tileOf th another) ∧ (∃ la, st.launchOf tile0 = some la ∧ la.arrived = []) ∧
    st.cmdsOf run = [] ∧ (∀ b ∈ th.streams, b = none) ∧ (1, thread 16) ∈ (tileOf th another).threads ∧ th.task.isSome = true ∧ th.parent = none := by
  refine ⟨rfl, rfl, rfl, rfl, ⟨_, rfl, rfl⟩, rfl, fun b hb => ?_, by decide +kernel, rfl, rfl⟩
  simpa [thread, Thread.fresh] using hb

/-- A packet that may not leave its tile. -/
def pinnedPacket : Packet := packet.set 7 0x01010000

/-- ThreadEvents: a work list of four packets (and of one), one of them pinned, beside an empty neighbour, in the first interval of 4 us, at its
end and before; and the same beside no neighbour. -/
theorem meets_ThreadEvents_balance : ∀ ps ∈ [[packet, pinnedPacket, packet, packet], [packet]], ∀ time ∈ [3999, 4000],
    let tl := fun tl : Tile => { tl with work := ps }
    let st := { two (thread 16) tl id id with fields := [(0, { Field.reset 0 with time := time })] };
    let s := st.modTile tile0 fun x => { x with sampled := x.sampled + 1, sampledLen := x.work.length };
    (∃ la, st.launchOf tile0 = some la ∧ la.cancelled = false ∧ la.moored = [] ∧ s.neighbours tile0 la.kernel = [(tile1, 0)] ∧
      (st.field 0).time / (1000 * max 1 la.kernel.balanceUs) = (if time = 4000 then 1 else 0)) ∧
    (∃ t, st.tile? tile0 = some t ∧ t.berth = some 0 ∧ t.work = ps ∧ t.sampled = 0 ∧ t.stopped = false) ∧ st.gangState tile0 = .resident ∧
    ∃ la, (small (thread 16) tl id).launchOf tile0 = some la ∧ (small (thread 16) tl id).neighbours tile0 la.kernel = [] := by
  intro ps hp time ht
  simp only [List.mem_cons, List.not_mem_nil, or_false] at hp ht
  rcases hp with rfl | rfl <;> rcases ht with rfl | rfl <;>
    exact ⟨⟨_, rfl, rfl, rfl, rfl, rfl⟩, ⟨_, rfl, rfl, rfl, rfl, rfl⟩, rfl, _, rfl, rfl⟩

/-- An item on its way from tile 0 to tile 1. -/
def item (p : Payload) : Item := ⟨3, tile0, tile1, p, 0, 1, false⟩

/-- The machine of two tiles with items on their way. -/
def carrying (its : List Item) (b : Tile → Tile) : State := { two (thread 16) id b id with items := its }

/-- ThreadEvents: a shipment of two packets for a tile with room for both, for one and for none. -/
theorem meets_ThreadEvents_shipment : ∀ n ∈ [0, 1023, 1024], let it := item (.shipment [packet, packet])
    let tl := fun tl : Tile => { tl with work := List.replicate n packet }; let st := carrying [it] tl;
    st.items.find? (·.id = 3) = some it ∧ it.back = false ∧ it.payload = .shipment [packet, packet] ∧ it.src ≠ it.dst ∧
    (∃ src, st.tile? it.src = some src ∧ src.work.length + 2 ≤ 1024) ∧ st.inOrder it = true ∧ st.mooredPackets it.src = [] ∧ ∃ t, st.tile? it.dst = some t ∧ t.work = List.replicate n packet ∧ t.berth.isSome = true ∧
      st.gangState it.dst = .resident := by
  intro n _
  exact ⟨by rfl, rfl, rfl, by decide, ⟨_, rfl, by decide +kernel⟩, by rfl, by rfl, _, rfl, rfl, rfl, rfl⟩

/-- ThreadEvents: a thread that waits at the grid barrier of generation 0, of a launch whose generation 1 began at 100 ns, and one of
generation 1; at 19 and at 20 ns after that, in a field of the code 5. -/
theorem meets_ThreadEvents_release : ∀ g ∈ [0, 1], ∀ now ∈ [119, 120], let th := { thread 16 with status := .off (.barGrid g) 0 }
    let st := { small th id fun la => { la with gen := 1, genTime := 100 } with now := now, fields := [(0, { Field.reset 0 with code := 5 })] };
    (∃ la, st.launches.get? (0, 0) = some la ∧ th.releaseFrom la = (if g = 0 then some 100 else none)) ∧ (st.tiles.map (·.1)).Nodup ∧
    (∀ e ∈ st.tiles, (e.2.threads.map (·.1)).Nodup) ∧ st.thread? run = some th ∧ st.gangState tile0 = .resident ∧
    (tileOf th id).berth.map fieldOf = some 0 ∧ ((100 : Int) + 4 * ((st.field 0).code : Int) ≤ st.now ↔ now = 120) := by
  intro g hg now hn
  simp only [List.mem_cons, List.not_mem_nil, or_false] at hg hn
  rcases hg with rfl | rfl <;> rcases hn with rfl | rfl <;>
    exact ⟨⟨_, rfl, by decide +kernel⟩, by decide +kernel, by decide +kernel, rfl, rfl, by decide +kernel, by decide +kernel⟩

/-- No launch waits for an item, by evaluation. -/
theorem unawaited {st : State} (h : ∀ l ∈ st.launches, l.2.retiring = [] ∧ ((st.tilesOf l.1.1 l.1.2).any fun e => !e.2.threads.isEmpty) = true) (n : Nat) :
    Unawaited st n := fun l hl => by
  obtain ⟨h1, h2⟩ := h l hl
  refine ⟨fun r hr => by rw [h1] at hr; exact absurd hr List.not_mem_nil, ?_⟩
  obtain ⟨e, he, h3⟩ := List.any_eq_true.1 h2
  exact ⟨e, he, fun h4 => by simp [h4] at h3⟩

/-- Traffic: a queued item for tile 1, whose entry is cached, present and cleared, at an interface with nothing unacknowledged. -/
theorem meets_Traffic : let it := item (.packet packet); let tl := fun tl : Tile => { tl with niq := [it] }
    (∀ la ∈ [id, fun la : Launch => { la with table := [(1, ⟨none, false, 0, 4⟩)] }], let st := two (thread 16) tl id la;
      (st.berth 0).moored = some tile0 ∧ (∃ t, st.tile? tile0 = some t ∧ t.berth = some 0 ∧ (∀ c ∈ t.cores, c.outbound = []) ∧ t.niq = it :: []) ∧
      (st.berth 0).unacked = [] ∧ (st.berth 0).cache = [] ∧ st.moorRoom 0 0 = true ∧ Unawaited st it.id ∧ (∀ ps, it.payload ≠ .shipment ps) ∧
      ∃ l v, st.launchOf it.dst = some l ∧ l.cancelled = false ∧ l.table.get? 1 = some v) ∧
    (let st := { two (thread 16) tl id id with berths := [(0, { Berth.reset with moored := some tile0, cache := [⟨tile1, 1, 4⟩] })] };
      (st.berth 0).moored = some tile0 ∧ (st.berth 0).cache.find? (fun e => e.tile = it.dst) = some ⟨tile1, 1, 4⟩) := by
  refine ⟨fun la hl => ?_, rfl, rfl⟩
  simp only [List.mem_cons, List.not_mem_nil, or_false] at hl
  rcases hl with rfl | rfl <;> exact ⟨rfl, ⟨_, rfl, rfl, by decide +kernel, rfl⟩, rfl, rfl, by decide +kernel, unawaited (by decide +kernel) 3, nofun, _, _, rfl, rfl, rfl⟩

/-- Traffic: a shipment whose target is not moored, and whose sender's list has room. -/
theorem meets_Traffic_returned : let it := item (.shipment [packet]); let tl := fun tl : Tile => { tl with niq := [it] }
    let st := two (thread 16) tl id fun la => { la with table := [(1, ⟨none, false, 0, 4⟩)] };
    it.src = tile0 ∧ st.mooredPackets tile0 = [] ∧ (∃ t, st.tile? tile0 = some t ∧ t.niq = it :: [] ∧ t.work.length + 1 ≤ 1024) ∧
    ∃ l v, st.launchOf it.dst = some l ∧ l.table.get? 1 = some v ∧ v.berth = none :=
  ⟨rfl, rfl, ⟨_, rfl, rfl, by decide +kernel⟩, _, _, rfl, rfl, rfl⟩

/-- Traffic: core 3 has a message for tile 1, and the cores 0 to 2 have none. -/
theorem meets_Traffic_message : let m : Message := ⟨0, 1, 4, [9], 0, 5⟩
    let tl := fun tl : Tile => tl.modCore 3 fun c => { c with outbound := [m] }
    let st := { two (thread 16) tl id id with berths := [(0, { Berth.reset with moored := some tile0, cache := [⟨tile1, 1, 4⟩] })] };
    (st.berth 0).moored = some tile0 ∧ (∃ t, st.tile? tile0 = some t ∧ t.berth = some 0 ∧ t.niq = [] ∧
      (∀ j < (3 + 8 - t.nextCore % 8) % 8, (t.core ((t.nextCore + j) % 8)).outbound = []) ∧ (t.core 3).outbound = m :: []) ∧
    (st.berth 0).unacked = [] ∧ (st.berth 0).cache.find? (fun e => e.tile = { tile0 with num := m.dst.toNat }) = some ⟨tile1, 1, 4⟩ :=
  ⟨rfl, ⟨_, rfl, rfl, rfl, by decide +kernel, rfl⟩, rfl, rfl⟩

/-- Traffic: items of every kind for tile 1: resident, with an empty inbox, with one that has 2,048 slots in use, with one RECV posted; being
restored; of a gang that is absent; and at a berth that forwards them, and at one that does not. -/
theorem meets_Traffic_arrivals :
    (∀ p ∈ [Payload.message ⟨0, 1, 4, [9], 0, 5⟩, .packet packet, .migrant migrant, .access 5],
      let it := item p; let st := carrying [it] id;
      st.items.find? (·.id = it.id) = some it ∧ it.back = false ∧ st.inOrder it = true ∧ st.mooredPackets it.dst = [] ∧ (st.berth 1).moored = some it.dst ∧ (st.berth 1).state ≠ .restoring ∧
      st.gangState it.dst = .resident ∧ ∃ t, st.tile? it.dst = some t ∧ t.heap = [] ∧ t.held = [] ∧ t.overflow = [] ∧ t.inbox = [] ∧ t.recvs = [] ∧
        t.work = []) ∧
    (let tl := fun tl : Tile => { tl with inbox := List.replicate 2048 ⟨0, 1, 4, [9], 0, 5⟩ }; let st := carrying [item (.message ⟨0, 1, 4, [9], 0, 5⟩)] tl;
      ∃ t, st.tile? tile1 = some t ∧ 2048 < slotsOf t.inbox + (⟨0, 1, 4, [9], 0, 5⟩ : Message).slots) ∧
    (let tl := fun tl : Tile => { unresolved tl with recvs := [⟨4, 1, 0, 0, none⟩] }; let st := carrying [item (.message ⟨0, 1, 4, [9], 0, 5⟩)] tl;
      ∃ t s, st.tile? tile1 = some t ∧ t.recvs = [⟨4, 1, 0, 0, none⟩] ∧ (t.core 0).symbols.get? 0 = some s) ∧
    (let st := { carrying [item (.packet packet)] id with berths := [(1, { Berth.reset with state := .restoring, moored := some tile1 })] };
      (st.berth 1).moored = some tile1 ∧ (st.berth 1).state = .restoring ∧ st.gangState tile1 = .resident) ∧
    (let st := { two (thread 16) id id fun la => { la with gangs := la.gangs.map fun g => { g with state := .absent } } with items := [item (.packet packet)] };
      (st.berth 1).moored = some tile1 ∧ st.gangState tile1 ≠ .resident ∧ (∃ la, st.launchOf tile1 = some la ∧ la.cancelled = false) ∧
      st.moorRoom 0 0 = true) ∧
    (∀ f ∈ [some (2, 1), some (2, 5), none],
      let st := { carrying [item (.packet packet)] id with berths := [(1, { Berth.reset with fwdr := f })] };
      (st.berth 1).moored ≠ some tile1 ∧ (st.berth 1).fwdr = f) := by
  refine ⟨fun p hp => ?_, ⟨_, rfl, by decide +kernel⟩, ⟨_, _, rfl, rfl, rfl⟩, ⟨rfl, rfl, rfl⟩, ⟨rfl, by decide +kernel, ⟨_, rfl, rfl⟩, by decide +kernel⟩,
    fun f _ => ⟨by decide +revert, rfl⟩⟩
  simp only [List.mem_cons, List.not_mem_nil, or_false] at hp
  rcases hp with rfl | rfl | rfl | rfl <;>
    exact ⟨rfl, rfl, rfl, rfl, rfl, by decide +kernel, rfl, _, rfl, rfl, rfl, rfl, rfl, rfl, rfl⟩

/-- Traffic: an item that comes back, whose tile has moved; an acknowledgement; and a tile that is being relocated. -/
theorem meets_Traffic_entries :
    (let it := { item (.packet packet) with back := true }; let st := carrying [it] id;
      st.items.find? (·.id = it.id) = some it ∧ it.back = true ∧ st.inOrder it = true ∧
      ∃ la v, st.launchOf it.dst = some la ∧ la.table.get? 1 = some v ∧ v.berth = some 1) ∧
    (({ plain 0 0 0 with itemAcks := [(3, 0)] } : State).itemAcks.find? (·.1 = 3) = some (3, 0) ∧
      Unawaited (plain 0 0 0) 3) ∧
    (let r : Reloc := { old := 0, new := 5, stage := .streaming, acks := [0, 1] }; let tl := fun tl : Tile => { tl with reloc := some r };
      (small (thread 16) tl id).tile? tile0 = some (tileOf (thread 16) tl) ∧ (tileOf (thread 16) tl).reloc = some r) :=
  ⟨⟨rfl, rfl, rfl, _, _, rfl, rfl, rfl⟩, ⟨rfl, unawaited (by decide +kernel) 3⟩, rfl, rfl⟩

/-- A message. -/
def message : Message := ⟨0, 0, 4, [9], 0, 5⟩

/-- Traffic: a message that waits behind a full inbox, one in the heap, and one that is held, with a heap of 1,024 bytes and with none. -/
theorem meets_Traffic_spillway : ∀ n ∈ [0, 1024],
    let la := fun la : Launch => { la with kernel := { la.kernel with spill := n }, moorBytes := 4096 }
    let tl := fun tl : Tile => { tl with overflow := [message] }; let tl2 := fun tl : Tile => { tl with heap := [message] }
    let tl3 := fun tl : Tile => { tl with held := [message] };
    MemoryOk (small (thread 16) tl la) ∧ (∃ l, (small (thread 16) tl la).launchOf tile0 = some l ∧ l.kernel.spill = n) ∧ n ≤ 0x300000 ∧ (small (thread 16) tl la).tile? tile0 = some (tileOf (thread 16) tl) ∧
    (tileOf (thread 16) tl).overflow = message :: [] ∧ (tileOf (thread 16) tl).held = [] ∧
    ((slotsOf (tileOf (thread 16) tl).heap + message.slots) * 32 ≤ n ↔ n = 1024) ∧ (small (thread 16) tl la).moorRoom 0 0 = true ∧
    (tileOf (thread 16) tl2).heap = message :: [] ∧ (tileOf (thread 16) tl2).recvs = [] ∧ slotsOf (tileOf (thread 16) tl2).inbox + message.slots ≤ 2048 ∧
    (tileOf (thread 16) tl3).held = message :: [] ∧ (tileOf (thread 16) tl3).recvs = [] := by
  intro n hn
  simp only [List.mem_cons, List.not_mem_nil, or_false] at hn
  rcases hn with rfl | rfl <;>
    exact ⟨rfl, ⟨_, rfl, rfl⟩, by decide, rfl, rfl, rfl, by decide +kernel, by decide +kernel, rfl, rfl, by decide +kernel, rfl, rfl⟩

/-! ### Results, engines and the host's commands -/

/-- A thread whose x1 and x2 are pending on entry 0, word 0, x2 poisoned, and x3 on entry 1. -/
def waiting : Thread :=
  { thread 16 with regs := (((thread 16).regs.set 1 (.pending 0 0 (.int 2 1) false)).set 2 (.pending 0 0 .neutral true)).set 3 (.pending 1 0 .neutral false) }

/-- A tile with a resolved entry 0, and requests at its special function unit. -/
def resolved (discard bad : Bool) (busy : List (SfuReq × Nat)) (tl : Tile) : Tile :=
  { tl.modCore 0 (fun c => { c with symbols := [(0, ⟨0, .load, some [9], 0, bad, discard⟩)] }) with
    cycle := 20, sfuFifo := [⟨.exp2, 0, 0, 0⟩], sfuBusy := busy }

/-- Engines: a result that is good, uncorrectable and abandoned; a unit that is free, one that started a request 2 tile cycles ago, and one that
did so 1 tile cycle ago; and a request that is due. -/
theorem meets_Engines :
    (∀ d b, let st := small waiting (resolved d b []) id; let tl := tileOf waiting (resolved d b []);
      st.tile? tile0 = some tl ∧ (tl.core 0).symbols.get? 0 = some ⟨0, .load, some [9], 0, b, d⟩ ∧ st.thread? run = some waiting ∧
      ∀ ch n, SymSource.load ≠ .recv ch n) ∧
    (∀ x ∈ [([], 1), ([((⟨.exp2, 0, 0, 0⟩ : SfuReq), 34)], 1), ([(⟨.exp2, 0, 0, 0⟩, 35)], 0)],
      let tl := tileOf waiting (resolved false false x.1);
      (small waiting (resolved false false x.1) id).tile? tile0 = some tl ∧ tl.sfuFifo = ⟨.exp2, 0, 0, 0⟩ :: [] ∧ tl.stopped = false ∧
      ((∀ b ∈ tl.sfuBusy, b.2 + 2 ≤ tl.cycle + 16) ↔ x.2 = 1)) ∧
    (let tl := tileOf waiting (resolved false false [(⟨.exp2, 0, 0, 0⟩, 20)]);
      tl.sfuBusy = (⟨.exp2, 0, 0, 0⟩, 20) :: [] ∧ 20 ≤ tl.cycle ∧ ∃ s, (tl.core 0).symbols.get? 0 = some s ∧ s.thr = 0 ∧ s.discard = false) := by
  refine ⟨fun d b => ⟨rfl, rfl, rfl, nofun⟩, fun x hx => ?_, rfl, by decide +kernel, _, rfl, rfl, rfl⟩
  simp only [List.mem_cons, List.not_mem_nil, or_false] at hx
  rcases hx with rfl | rfl | rfl <;> exact ⟨rfl, rfl, rfl, by decide +kernel⟩

/-- Engines: no error has struck the words of the entries of the small machine. -/
theorem meets_Engines_clean (th : Thread) (f : Tile → Tile) (g : Launch → Launch) (c e : Nat) : (small th f g).resultEcc tile0 c e = .clean := rfl

/-- Engines: two RECVs of one channel whose messages are there, the first of which resolves first, and an abandoned one before them. -/
theorem meets_Engines_order :
    let tl := fun tl : Tile => tl.modCore 0 fun c => { c with
      symbols := [(1, ⟨0, .recv 5 1, some [3], 0, false, true⟩), (0, ⟨0, .recv 5 2, some [9], 0, false, false⟩), (2, ⟨0, .recv 5 4, some [8], 0, false, false⟩)] }
    (small waiting tl id).tile? tile0 = some (tileOf waiting tl) ∧ ((tileOf waiting tl).core 0).symbols.get? 0 = some ⟨0, .recv 5 2, some [9], 0, false, false⟩ ∧
    (tileOf waiting tl).cores.all (fun o => o.symbols.all fun x => match x.2.source with
      | .recv 5 m => x.2.discard || decide (2 ≤ m)
      | _ => true) = true := ⟨rfl, rfl, by decide +kernel⟩

/-- A thread with a store to rim byte 256 in its combining buffer since cycle 0, and a fence whose probe is at group 0. -/
def buffering : Thread := { thread 16 with lines := [⟨2, [7], 0⟩], fence := some ⟨true, .grid, some [(0, 9), (1, 9)]⟩, peerOut := [3] }

/-- The store. -/
def buffered : Access := ⟨7, .thread run, .rim 256 256, 4, .store, some 5, .w32, none, none, .buffered, false⟩

/-- Engines: an acknowledgement, the timeout of a buffered line, and the echo of a probe. -/
theorem meets_Engines_completions : let tl := fun tl : Tile => { tl with cycle := 512 }
    let st := { small buffering tl id with accesses := [buffered], acks := [(3, run)] };
    st.acks.find? (·.1 = 3) = some (3, run) ∧ st.thread? run = some buffering ∧ (∃ t, st.tile? tile0 = some t ∧ 0 + 512 ≤ t.cycle) ∧
    buffering.lines = [⟨2, [7], 0⟩] ∧ st.accesses = [buffered] ∧ st.acks = [(3, run)] ∧ st.accesses.find? (·.id = 7) = some buffered ∧ buffered.place = .rim 256 256 ∧
    ∃ r, buffering.fence = some r ∧ r.probes = some [(0, 9), (1, 9)] :=
  ⟨rfl, rfl, ⟨_, rfl, by decide +kernel⟩, rfl, rfl, rfl, rfl, rfl, _, rfl, rfl⟩

/-- Engines, Traffic: the echo of a probe when no access is outstanding, and a registration at an empty table. -/
theorem meets_Engines_empty : let tl := fun tl : Tile => { tl with regWait := [registration] }; let st := small buffering tl id
    st.thread? run = some buffering ∧ st.accesses = [] ∧ (∃ r, buffering.fence = some r ∧ r.probes = some [(0, 9), (1, 9)]) ∧
    st.tile? tile0 = some (tileOf buffering tl) ∧ (tileOf buffering tl).regWait = [registration] ∧
    (tileOf buffering tl).rlt = List.replicate 32 none := ⟨rfl, rfl, ⟨_, rfl, rfl⟩, rfl, rfl, rfl⟩

/-- Engines: a registration that waits, beside an entered one that it does not conflict with, and one that it does. -/
theorem meets_Engines_registrations : ∀ w, let r : Registration := ⟨10, .copy tile0 4, ⟨.scratch tile0, 4096, 4099, 0⟩, w⟩
    let tl := fun tl : Tile => { tl with regWait := [r], rlt := some registration :: List.replicate 31 none };
    (small (thread 16) tl id).tile? tile0 = some (tileOf (thread 16) tl) ∧ (tileOf (thread 16) tl).regWait = [r] ∧
    (tileOf (thread 16) tl).rlt.idxOf? none = some 1 ∧ r.conflicts registration = w := by
  intro w; cases w <;> exact ⟨rfl, rfl, by decide +kernel, by decide +kernel⟩

/-- A read stream of L1 from a coordinate on, with two elements. -/
def reading (x : Int) : Stream := { bound false [] with origin := [x], counts := [2] }

/-- Engines: a stream whose next element lies in its entry, and one whose element lies outside it and holds a fault. -/
theorem meets_Engines_fetch : ∀ x ∈ [63, 64], let th := { thread 16 with streams := some (reading x) :: List.replicate 7 none }
    let st := small th id withScratch;
    st.thread? run = some th ∧ (∃ la, st.launchOf tile0 = some la ∧ la.kernel = scratchKernel) ∧ th.stream? 0 = some (reading x) ∧
    (reading x).mayFetch = true ∧ st.entered (reading x).regs = true ∧
    streamTarget st run false (reading x) 0 = (if x = 63 then .ok (some (.scratch tile0 4348, 3), st) else .error .bounds) ∧
    engineReady st tile0 (.stream run 0) (.scratch tile0 4348) 4 false = true ∧ threadOverlaps st run (.scratch tile0 4348) 4 false = false ∧
    st.poisoned (.scratch tile0 4348) 4 = false := by
  intro x hx
  simp only [List.mem_cons, List.not_mem_nil, or_false] at hx
  rcases hx with rfl | rfl <;>
    exact ⟨rfl, ⟨_, rfl, rfl⟩, rfl, by decide +kernel, by decide +kernel, by rfl, by decide +kernel, by decide +kernel, by decide +kernel⟩

/-- Engines: a pushed element of a write stream. -/
theorem meets_Engines_drain : let b := bound true [.store 9 (some (.scratch tile0 4096, 0))]
    let th := { thread 16 with streams := some b :: List.replicate 7 none }; let st := small th id withScratch;
    MemoryOk st ∧ st.thread? run = some th ∧ (∃ la, st.launchOf tile0 = some la ∧ la.kernel = scratchKernel) ∧ th.stream? 0 = some b ∧ b.write = true ∧
    b.queue = .store 9 (some (.scratch tile0 4096, 0)) :: [] ∧ st.entered b.regs = true ∧
    engineReady st tile0 (.stream run 0) (.scratch tile0 4096) 4 true = true ∧ threadOverlaps st run (.scratch tile0 4096) 4 true = false :=
  ⟨rfl, rfl, ⟨_, rfl, rfl⟩, rfl, rfl, rfl, by decide +kernel, by decide +kernel, by decide +kernel⟩

/-- A copy of two elements of L1 from the coordinate 0 to the coordinate 8, which does not overlap, and to 1, which does. -/
def copying (dst : Word) : CopyCmd := ⟨6, 0, 0, [0x101, 0, 0, dst, 0, 1, 0, 0], false, [], 0, none, none, false⟩

/-- A tile with a copy in queue 0, and its token's entry. -/
def withCopy (c : CopyCmd) (tl : Tile) : Tile :=
  { tl.modCore 0 (fun x => { x with symbols := [(0, ⟨0, .cpy, none, 0, false, false⟩)] }) with copyQ := [c] :: List.replicate 3 [] }

/-- A layout whose L1 discards what lies outside its coordinates. -/
def withDiscard (la : Launch) : Launch :=
  { la with kernel := { la.kernel with layout := 0 :: BitVec.ofNat 256 (1 + 4 * 2 ^ 5 + 2 ^ 9 + 3 * 2 ^ 13 + 4096 * 2 ^ 24 + 63 * 2 ^ 72 + 2 ^ 136) :: List.replicate 62 0 } }

/-- CopiesAndStreams: a stream whose next element is discarded, and a pushed word that is. -/
theorem meets_EnginesStart : let b := bound true [.store 9 none]
    let th := { thread 16 with streams := some (reading 64) :: some b :: List.replicate 6 none }; let st := small th id withDiscard;
    st.thread? run = some th ∧ (st.launchOf tile0).isSome = true ∧ th.stream? 0 = some (reading 64) ∧ (reading 64).mayFetch = true ∧
    st.entered (reading 64).regs = true ∧ streamTarget st run false (reading 64) 0 = .ok (none, st) ∧ th.stream? 1 = some b ∧ b.write = true ∧
    st.entered b.regs = true ∧ b.queue = .store 9 none :: [] :=
  ⟨rfl, rfl, rfl, by decide +kernel, by decide +kernel, rfl, rfl, rfl, by decide +kernel, rfl⟩

/-- Engines: copies at the head of two queues, of which that of the lesser THRID is accepted first. -/
theorem meets_Engines_copies_order : let c := copying 8; let d := { copying 8 with id := 7, thr := 1 }
    let tl := fun tl : Tile => { withCopy c tl with copyQ := [c] :: [d] :: List.replicate 2 [] }
    (tileOf (thread 16) tl).copyQ.zipIdx.all (fun x => x.2 == 0 || match x.1.find? (fun d => !d.accepted) with
      | some d => decide (c.thr < d.thr ∨ (c.thr = d.thr ∧ 0 < x.2))
      | none => true) = true := by decide +kernel

/-- Engines: a copy that passes the checks, and one that fails them. -/
theorem meets_Engines_copies : ∀ x ∈ [8#32, 1#32], let c := copying x; let st := small (thread 16) (withCopy c) withScratch;
    st.tile? tile0 = some (tileOf (thread 16) (withCopy c)) ∧ (∃ la, st.launchOf tile0 = some la ∧ la.kernel = scratchKernel) ∧
    ((tileOf (thread 16) (withCopy c)).copyQ.getD 0 []).find? (fun c => !c.accepted) = some c ∧
    (match copyCheck st tile0 scratchKernel 0 c.desc with
      | .ok rs => x == 8 && rs.length == 2
      | .error s => x == 1 && s == 2) = true := by
  intro x hx
  simp only [List.mem_cons, List.not_mem_nil, or_false] at hx
  rcases hx with rfl | rfl <;> exact ⟨rfl, ⟨_, rfl, rfl⟩, rfl, by decide +kernel⟩

/-- Engines: a running copy at its first element, before its read and before its write. -/
theorem meets_Engines_copy : ∀ v ∈ [none, some 9#32], let c := { copying 8 with accepted := true, held := v }; let st := small (thread 16) (withCopy c) withScratch;
    MemoryOk st ∧ st.tile? tile0 = some (tileOf (thread 16) (withCopy c)) ∧ st.accesses = [] ∧ st.findCopy 6 = some (tile0, c) ∧
    c.doneBox scratchKernel = false ∧ (let b := copyBox c.desc
      resolveLoc scratchKernel 0 0 false b.src .read (boxCoords (b.so.take 1) (b.n.take 1) 0) b.num 0 = .ok (.byte 0 1 4096 0) ∧
      resolveLoc scratchKernel 0 0 false b.dst .write (boxCoords (b.d0.take 1) (b.n.take 1) 0) b.num 0 = .ok (.byte 0 1 4128 0) ∧
      enginePlace st tile0 (scratchKernel.entryOf b.src) 0 1 4096 true false = .ok (.scratch tile0 4096, st) ∧
      enginePlace st tile0 (scratchKernel.entryOf b.dst) 0 1 4128 false true = .ok (.scratch tile0 4128, st)) ∧
    engineReady st tile0 (.copy tile0 6) (.scratch tile0 4096) 4 false = true ∧ engineReady st tile0 (.copy tile0 6) (.scratch tile0 4128) 4 true = true ∧
    st.poisoned (.scratch tile0 4096) 4 = false := by
  intro v hv
  simp only [List.mem_cons, List.not_mem_nil, or_false] at hv
  rcases hv with rfl | rfl <;>
    exact ⟨rfl, rfl, rfl, rfl, by decide +kernel, ⟨rfl, rfl, rfl, rfl⟩, by decide +kernel, by decide +kernel, by decide +kernel⟩

/-- Engines: a copy whose box is done, and one that met an error. -/
theorem meets_Engines_completes : ∀ c ∈ [{ copying 8 with accepted := true, pos := 2 }, { copying 1 with accepted := true, ended := some 2 }],
    let st := small (thread 16) (withCopy c) withScratch; let tl := tileOf (thread 16) (withCopy c);
    st.tile? tile0 = some tl ∧ (∃ la, st.launchOf tile0 = some la ∧ la.kernel = scratchKernel) ∧ Unawaited st c.id ∧ tl.copyQ.getD 0 [] = c :: [] ∧
    c.accepted = true ∧ st.entered c.regs = true ∧ c.cancelled = false ∧ (∃ x, (tl.core 0).symbols.get? 0 = some x) ∧ tl.threads ≠ [] ∧
    (c.ended = some 2 ∨ (c.ended = none ∧ c.doneBox scratchKernel = true)) := by
  intro c hc
  simp only [List.mem_cons, List.not_mem_nil, or_false] at hc
  rcases hc with rfl | rfl <;>
    exact ⟨rfl, ⟨_, rfl, rfl⟩, unawaited (by decide +kernel) 6, rfl, rfl, by decide +kernel, rfl, ⟨_, rfl⟩, by decide, by decide +kernel⟩

/-- A command's words, with an opcode, a queue of group 0, and words 5 and 8. -/
def hostCmd (op w5 w8 : Word) : HostCmd := ⟨3, [op, 0, 0, 0, 0, w5, 0, 0, w8, 0, 0, 0, 0, 0, 0, 0]⟩

/-- Group 0 of host port 0 is given to function 5 and partition 0; queue 3 is enabled, with two commands in its ring. -/
def withQueue (st : State) : State :=
  { st with
    qmap := [((0, 0), 0x80000005)], numVfs := [5, 0], boot := { st.boot with stage := 7 }
    queues := [(3, { HostQueue.reset with qctl := 0x80000006, tail := 2 })] }

/-- HostCommands: writes of TAIL up to the ring's size of 64, beyond it, and of a queue with EN clear; two functions' queues. -/
theorem meets_HostCommands : let st := withQueue (plain 0 0 0)
    st.localQueue 0 5 3 = some 3 ∧ (st.queue 3).qctl.getLsbD 31 = true ∧ st.localQueue 0 5 4 = some 4 ∧ (st.queue 4).qctl.getLsbD 31 = false ∧
    (64#32) ≠ (st.queue 3).head ∧ (64#32 - (st.queue 3).head).toNat ≤ 2 ^ 6 ∧ 2 ^ 6 < (65#32 - (st.queue 3).head).toNat ∧
    qmapGiven (st.qmapOf 0 0) = some (5, 0) := by
  refine ⟨by decide +kernel, by decide +kernel, by decide +kernel, by decide +kernel, by decide +kernel, by decide +kernel, by decide +kernel,
    by decide +kernel⟩

/-- The machine with a command at the head of queue 3. -/
def withCommand (op : Nat) : State :=
  let st := withQueue (plain 0 0 0)
  { st with mem := memWrite st.mem (memKey 3 0 0) 4 op }

/-- HostCommands: the dispatcher serves queue 3, whose head is a LAUNCH, a PHASE, and an unknown opcode. -/
theorem meets_HostCommands_dispatcher : ∀ op ∈ [1, 2, 9], let st := withCommand op; let x := st.queue 3;
    Serving st 0 3 x ∧ st.boot.stage = 7 ∧ memRead st.mem (memKey 3 0 0) 4 = op ∧ (st.part 0).parked.length < 4096 := by
  intro op ho
  simp only [List.mem_cons, List.not_mem_nil, or_false] at ho
  have m : ∀ o, (withCommand o).queues = [(3, { HostQueue.reset with qctl := 0x80000006, tail := 2 })] := fun _ => rfl
  rcases ho with rfl | rfl | rfl <;>
    refine ⟨⟨by decide +kernel, List.mem_singleton.2 rfl, by decide +kernel, by decide +kernel, by decide +kernel, fun e he => ?_⟩, rfl,
      by decide +kernel, by decide +kernel⟩ <;>
    (rw [m] at he
     obtain rfl := List.mem_singleton.1 he
     exact ⟨by decide, fun _ _ => .inr ⟨rfl, Nat.le_refl _⟩⟩)

/-- The machine with a graph of job 0 whose node 1 stands so, of the open phase 0. -/
def withGraph (s : LevelState) : State :=
  let st := withQueue (plain 0 0 0)
  let v : Level := ⟨.running, false, 0, 0, 0⟩
  st.modPart 0 fun p => { p with jobs := [(0, ⟨v, false, some 0⟩)], phases := [((0, 0), v)], graphs := [((0, 0), ⟨v, false, some 0, [(1, s)]⟩)] }

/-- HostCommands: a LAUNCH of node 2 behind node 1, which has completed DONE, is running, or was refused; the same LAUNCH of a job that has
ended, and of a cancelled one with a cancelled graph. -/
theorem meets_HostCommands_launches :
    (∀ s ∈ [LevelState.done, .running, .refused], let c := hostCmd 1 0x10002 1; let st := withGraph s;
      st.queuePart c.queue = some 0 ∧ (st.part 0).parked = [] ∧ st.jobGone 0 (word c 1) = false ∧ (st.part 0).phaseGone (word c 1) = false ∧
      cmdPreds c = [1] ∧ word c 5 % 65536 = 2 ∧ (∃ g, (st.part 0).graphs.get? (word c 1, word c 4) = some g ∧ g.acted = false) ∧
      (st.part 0).nodeState (word c 1) (word c 4) 1 = s) ∧
    ((withGraph .done).modPart 0 fun p => { p with jobs := [(0, ⟨⟨.running, false, 0, 0, 0⟩, true, none⟩)] }).jobEnded 0 0 = true ∧
    (let st := (withGraph .done).modPart 0 fun p => { p with
        jobs := [(0, ⟨⟨.cancelled, false, 0, 0, 0⟩, false, none⟩)], graphs := p.graphs.update (0, 0) fun g => { g with acted := true } };
      st.jobEnded 0 0 = false ∧ st.jobGone 0 0 = true ∧ ∃ g, (st.part 0).graphs.get? (0, 0) = some g ∧ g.acted = true) := by
  refine ⟨fun s hs => ?_, rfl, rfl, rfl, _, rfl, rfl⟩
  simp only [List.mem_cons, List.not_mem_nil, or_false] at hs
  rcases hs with rfl | rfl | rfl <;>
    exact ⟨by rfl, by rfl, by rfl, by rfl, by rfl, by decide +kernel, ⟨_, rfl, rfl⟩, by rfl⟩

/-- HostCommands: a PHASE and an ENDJOB of a job without an open phase, and of one whose open phase has a running node; and CANCELs of its
levels and of its launch. -/
theorem meets_HostCommands_levels : let c := hostCmd 2 0 0;
    (let st := withQueue (plain 0 0 0);
      Takes st c 0 ∧ (st.part 0).waiting = [] ∧ (st.part 0).openPhase (word c 1) = none ∧ (st.part 0).ckHolds (word c 1) = false) ∧
    (let st := withGraph .running;
      Takes st c 0 ∧ (st.part 0).waiting = [] ∧ (st.part 0).openPhase (word c 1) = some 0 ∧
      (∃ v, (st.part 0).phases.get? (word c 1, 0) = some v ∧ v.state ≠ .cancelled ∧ v.closed = false) ∧
      (∃ g ∈ (st.part 0).graphsOf (word c 1) 0, (1, LevelState.running) ∈ g.nodes ∧ g.level.closed = false ∧ g.level.state ≠ .cancelled) ∧
      (∃ j, (st.part 0).jobs.get? (word c 1) = some j ∧ j.level.closed = false ∧ j.level.state ≠ .cancelled) ∧
      st.slotsOf 0 (word c 1) (word c 4) (word c 5 % 65536) = [0] ∧ (∃ la, st.launches.get? (0, 0) = some la ∧ la.cancelled = false) ∧
      (∃ tl, st.tile? tile0 = some tl ∧ tl.berth = some 0 ∧ tl.threads ≠ []) ∧ (st.tiles.map (·.1)).Nodup) := by
  refine ⟨⟨⟨by rfl, by rfl⟩, by rfl, by rfl, by rfl⟩, ⟨by rfl, by rfl⟩, by rfl, by rfl, ⟨_, rfl, by decide, rfl⟩, ⟨_, List.mem_singleton.2 rfl, by decide, rfl, by decide⟩,
    ⟨_, rfl, rfl, by decide⟩, by decide +kernel, ⟨_, rfl, rfl⟩, ⟨_, rfl, rfl, by decide⟩, by decide +kernel⟩

/-- A partition of field 0 with free berths, whose job 0 has the first granule as its memory, and a launch that is ready. -/
def admitting : State :=
  let st := withQueue (plain 0 0 0)
  let v : Level := ⟨.running, false, 0, 0, 0⟩
  { (st.modPart 0 fun p => { p with fields := 1, ready := [hostCmd 1 2 0], graphs := [((0, 0), ⟨v, false, some 0, []⟩)] }) with
    roots := [((0, 0), 0x1000)], granules := [(0, 0x4000)], mem := memWrite [] (memKey 2 0 0x1000) 8 0xF000000000000000 }

/-- HostCommands: that launch passes every check when its images fit, and fails one otherwise. -/
theorem meets_HostCommands_admission : let st := admitting; let c := hostCmd 1 2 0;
    (st.part 0).ready = c :: [] ∧ st.freeSlot 0 = some 1 ∧ (∃ g, (st.part 0).graphs.get? (word c 1, word c 4) = some g) ∧
    st.admissionCheck 0 (word c 2 + word c 3 * 2 ^ 32) (word c 1) true = none ∧
    st.admissionCheck 0 (word c 2 + word c 3 * 2 ^ 32) (word c 1) false = some 5 ∧ (st.part 0).parked = [] := by
  refine ⟨by rfl, by decide +kernel, ⟨_, rfl⟩, by decide +kernel, by decide +kernel, by rfl⟩

/-! ## Witnesses: registers and power -/

/-- RegisterWrites: the bounds of the clauses meet values, a partition that is NS and one that is not, a machine with a launch and one without,
a queue with EN set and clear, and an ERR of four bits. -/
theorem meets_RegisterWrites :
    (∀ n, State.reset.part n = Part.reset) ∧ Part.reset.ns = false ∧ ((State.reset.modPart 29 fun p => { p with ns := true }).part 29).ns = true ∧
    Part.reset.capt.length = 16 ∧ Part.reset.ckrgn.length = 8 ∧ State.reset.launches = [] ∧ (plain 0 0 0).launches ≠ [] ∧
    (∃ k la, (plain 0 0 0).launches.get? k = some la ∧ k.1 = 0) ∧ (∀ e ∈ (plain 0 0 0).launches, e.1.1 ≠ 29) ∧
    (State.reset.queue 0).err < 16 ∧ ((withQueue (plain 0 0 0)).queue 3).qctl.getLsbD 31 = true ∧ (State.reset.queue 0).qctl.getLsbD 31 = false ∧
    (∀ b, State.reset.berth b = Berth.reset) ∧
    (let st := withQueue (plain 0 0 0); st.queuePart 3 = some 0 ∧ st.hasFunc 0 5 = true ∧ 3 < st.qcount 0 5 ∧ st.localQueue 0 5 3 = some 3) ∧
    State.reset.queuePart 3 = none ∧ State.reset.hasFunc 0 5 = false :=
  ⟨fun _ => rfl, rfl, rfl, rfl, rfl, rfl, by decide, ⟨(0, 0), _, rfl, rfl⟩, by decide, by decide, by decide, by decide, fun _ => rfl,
    ⟨rfl, by decide, by decide +kernel, by decide +kernel⟩, rfl, by decide⟩

/-- The small machine, whose partition 0 holds field 0, with that partition and that field as given. -/
def powered (p : Part → Part) (f : Field → Field) : State :=
  ((plain 0 0 0).modPart 0 fun q => p { q with fields := 1 }).modField 0 f

/-- The machine after a write of MODCAP. -/
def capped (v : BitVec 16) : State :=
  let st := powered id id
  { st with modRegs := { st.modRegs with modcap := v } }

/-- Power: a write of MODCAP that is stricter and one that is not; a field of the partition. -/
theorem meets_Power_settings :
    ((powered id id).parts.map (·.1)).Nodup ∧ ((powered id id).tiles.map (·.1)).Nodup ∧ ((powered id id).part 0).fields.getLsbD 0 = true ∧
    stricter ((capped 0xFF87#16).inForce 0 0) ((powered id id).inForce 0 0) = false ∧
    stricter ((capped 0xFF86#16).inForce 0 0) ((powered id id).inForce 0 0) = true ∧
    (powered id id).tile? tile0 = some (tileOf (regs 0 0 0) id) ∧ (tileOf (regs 0 0 0) id).berth = some 0 ∧ fieldOf 0 = 0 := by
  have c (v : BitVec 16) : (capped v).inForce 0 0 = combineSettings [0xFF87#16, v] := rfl
  have d : (powered id id).inForce 0 0 = combineSettings [0xFF87#16, 0xFF87#16] := rfl
  have x : combineSettings [0xFF87#16, 0xFF87#16] = 0xFF87#16 := by decide +kernel
  have y : combineSettings [0xFF87#16, 0xFF86#16] = 0xFF86#16 := by decide +kernel
  rw [c, c, d, x, y]
  exact ⟨by decide +kernel, by decide +kernel, by decide +kernel, by decide +kernel, by decide +kernel, rfl, rfl, rfl⟩

/-- A machine with a budget of 10 times 64 W, and this many steps taken. -/
def budgeted (pos : Nat) : State :=
  let st := powered (fun p => { p with budgetPos := pos }) id
  { st with modRegs := { st.modRegs with modcap := 0x0507 } }

/-- Power: a power above the budget of 640 W, one below 576 W, and one at each bound. -/
theorem meets_Power_budgets : ∀ n ∈ [0, 2], let s := (budgeted n).inForce 0 ((budgeted n).part 0).firstField
    s.toNat / 128 = 10 ∧ s.toNat / 128 < 511 ∧ s.toNat / 128 * 64 < 641 ∧ 0 < s.toNat % 8 ∧ 575 * 10 < s.toNat / 128 * 64 * 9 ∧
    640 ≤ s.toNat / 128 * 64 ∧ s.toNat / 128 * 64 * 9 ≤ 576 * 10 := by decide +kernel

/-- Power: a watchdog at 50 ms, and one nanosecond before it. -/
theorem meets_Power_watchdogs : ∀ x ∈ [(-50000000 : Int), -49999999], let st := powered id fun f => { f with fed := x }
    (∃ p, st.parts.find? (fun e => e.2.fields.getLsbD 0) = some p ∧ p.2 = st.part p.1) ∧ (st.field 0).wdog = false ∧
    ((st.field 0).fed + 50000000 ≤ st.now ↔ x = -50000000) := by
  intro x hx
  simp only [List.mem_cons, List.not_mem_nil, or_false] at hx
  rcases hx with rfl | rfl <;> exact ⟨⟨_, rfl, rfl⟩, rfl, by decide +kernel⟩

/-- Readings of 50 degrees and 100 A, the first one as given. -/
def readings (x : Int) : List Int := x :: List.replicate 11 50000 ++ List.replicate 4 100000

/-- Power: readings that are good, and readings of which the first is out of its range. -/
theorem meets_Power_sensors : ReadsWell (plain 0 0 0) 0 (readings 50000) ∧ (plain 0 0 0).partOf 0 = none ∧
    (∀ x ∈ [(-40001 : Int), 150001], (readings x).length = 16 ∧ ((powered id id).field 0).sensors.length = 16 ∧
      ((readings x).getD 0 0 < -40000 ∨ 150000 < (readings x).getD 0 0) ∧ (powered id id).partOf 0 = some 0) := by
  refine ⟨⟨rfl, rfl, ?_, by decide +kernel, ?_⟩, rfl, by decide +kernel⟩
  · decide +kernel
  · intro i r h
    have hi : i < 16 := (List.getElem?_eq_some_iff.1 h).1
    have hr : r = ⟨0, 0, 0, false⟩ := List.eq_of_mem_replicate (List.mem_of_getElem? h)
    subst hr
    revert hi; clear h; revert i
    decide +kernel

/-- Power: currents whose sum is ITRIP. -/
theorem meets_Power_trips : let st := powered id fun f => { f with readings := List.replicate 12 0 ++ List.replicate 4 240000 }
    (st.field 0).current = false ∧ (st.modRegs.itrip : Int) * 1000 ≤ ((st.field 0).readings.drop 12).foldl (· + ·) 0 ∧ st.partOf 0 = some 0 :=
  ⟨rfl, by decide +kernel, rfl⟩

/-- A frame of level 3 with the sequence number 1, and the MAC of it under the key 0. -/
def frame (last : Byte) : List Byte :=
  [0x01, 0x7A, 3, 0, 0, 0, 0, 0, 1, 0, 0, 0, 0, 0, 0, 0, 0x99, 0x17, 0x3B, 0x97, 0xF8, 0xF8, 0x78, 0x89, 0xB6, 0x57, 0x3D, 0x23, 0x30, 0x56, 0x2B,
    last]

/-- A function of a number that is evaluated first. -/
def evaluated (n : Nat) (f : Nat → Nat) : Nat := match n with
  | 0 => f 0
  | m + 1 => f (m + 1)

theorem evaluated_eq (n : Nat) (f : Nat → Nat) : evaluated n f = f n := by cases n <;> rfl

/-- The rounds of AES-128, with the key and the block of each one evaluated before the next. -/
def aesEvaluated : List Nat → Nat → Nat → Nat
  | [], _, s => s
  | r :: rs, k, s => evaluated (aesNextKey k r) fun k => 
      evaluated (number16 (if rs.isEmpty then aesShift (bytes16 s)
        else (List.range 4).flatMap fun c => aesMix (((aesShift (bytes16 s)).drop (4 * c)).take 4)) ^^^ k) fun s => aesEvaluated rs k s

theorem aesEvaluated_eq (rs : List Nat) : ∀ k s, aesEvaluated rs k s = aesRounds rs k s := by
  induction rs with
  | nil => intro k s; rfl
  | cons r rs ih => intro k s; simp only [aesEvaluated, evaluated_eq, ih]; rfl

/-- FIPS 197: AES-128 of the block 0 under the key 0. -/
theorem test_aes : aes128 0 0 = 0x66E94BD4EF8A2C3B884CFA59CA342B2E := by
  rw [aes128, ← aesEvaluated_eq]; decide +kernel

/-- Power: a frame with a good MAC and one with a bad one; and a level of 3 that waits, for a partition of rank 15 and of rank 1. -/
theorem meets_Power_towpath : (plain 0 0 0).modRegs.accepts (frame 0x01) = true ∧ (plain 0 0 0).modRegs.accepts (frame 0x00) = false ∧
    (∀ r ∈ [15, 1], let st := powered (fun p => { p with rank := r }) id
      let s := { st with modRegs := { st.modRegs with towpend := true, towlevel := 3 } };
      s.modRegs.towpend = true ∧ (s.parts.map (·.1)).Nodup ∧ (0, s.part 0) ∈ s.parts ∧
      (0 < s.modRegs.towlevel - (s.part 0).rank ↔ r = 1)) := by
  have z : towKeyNat (plain 0 0 0).modRegs.towkey = 0 := by decide +kernel
  have b : frameBlock (frame 0x01) 0 ^^^ (2 * 0x66E94BD4EF8A2C3B884CFA59CA342B2E) = 0xCCA894A9DF1458771199F4B39468565C := by decide +kernel
  have a : aes128 0 0xCCA894A9DF1458771199F4B39468565C = frameBlock (frame 0x01) 16 := by rw [aes128, ← aesEvaluated_eq]; decide +kernel
  have m : aesCmac (towKeyNat (plain 0 0 0).modRegs.towkey) (frameBlock (frame 0x01) 0) = frameBlock (frame 0x01) 16 := by
    rw [z]; simp only [aesCmac, test_aes]; rw [if_pos (by decide), b, a]
  refine ⟨?_, ?_, fun r hr => ?_⟩
  · rw [Module.accepts, m]; decide +kernel
  · have n : frameBlock (frame 0x00) 0 = frameBlock (frame 0x01) 0 := by decide +kernel
    rw [Module.accepts, n, m]; decide +kernel
  simp only [List.mem_cons, List.not_mem_nil, or_false] at hr
  rcases hr with rfl | rfl <;> exact ⟨rfl, by decide +kernel, List.mem_singleton.2 rfl, by decide +kernel⟩

/-- Power: wake requests, a wake that has had its token for 2,000 ns, a free berth that is powered, and a window at 399 and at 400 ns. -/
theorem meets_Power_segments :
    (let st := powered id fun f => { f with wakes := [(5, 1, 4), (5, 0, 3)], waking := List.replicate 3 (9, 0) };
      (5, 0, 3) ∈ (st.field 0).wakes ∧ (st.field 0).waking.length < 4 ∧ (st.field 0).wakes.Nodup ∧
      ∀ o ∈ (st.field 0).wakes, o ≠ (5, 0, 3) → (5 : Int) < o.1 ∨ ((5 : Int) = o.1 ∧ 0 < o.2.1)) ∧
    (let st := powered id fun f => { f with waking := [(4, 0)], time := 2000 };
      (st.field 0).waking.find? (·.1 = 4) = some (4, 0) ∧ (0 : Int) + 2000 ≤ ((st.field 0).time : Int)) ∧
    ((plain 0 0 0).unused 3 = true ∧ ((plain 0 0 0).berth (3 / 3)).dark.testBit (3 % 3) = false) ∧
    (∀ x ∈ [399, 400], let st := powered id fun f => { f with time := x }; let time := (st.field (fieldOf 0)).time + 25600 - (st.berth 0).edPhase % 25600;
      (time % 25600 < 400 ↔ x = 399) ∧ (400 ≤ time % 25600 ↔ x = 400) ∧ (st.berth 0).window = false) := by
  refine ⟨⟨by decide, by decide, by decide, by decide⟩, ⟨rfl, by decide⟩, ⟨by decide +kernel, by decide⟩, by decide +kernel⟩

/-! ## Witnesses: the Harbourmaster, and the traps that firmware handles -/

/-- The small machine, whose partition 0 holds field 0, with the gang of its launch as given. -/
def harboured (g : Gang → Gang) (tl : Tile → Tile) : State :=
  (small (thread 16) tl fun la => { la with gangs := la.gangs.map g }).modPart 0 fun p => { p with fields := 1 }

/-- A gang that waits since time 3 for source 8. -/
def waitingGang (g : Gang) : Gang := { g with state := .waiting, fault := some (3, 8) }

/-- A gang whose slice is over. -/
def expired (g : Gang) : Gang := { g with slice := -1000000 }

/-- Harbourmaster: a gang at the end of its slice with no other waiting, and with one that waits; and a summons of a gang of one tile, whose
berth is the first free one of field 0. -/
theorem meets_Harbourmaster_places :
    (let st := harboured expired id;
      (∃ la g, st.launches.get? (0, 0) = some la ∧ la.gangs[0]? = some g ∧ g.state = .resident ∧
        g.slice + (la.kernel.sliceMs : Int) * 1000000 ≤ st.now ∧ la.cancelled = false) ∧ st.someWaits 0 = false) ∧
    (let st := harboured expired id
      let s := { st with launches := st.launches ++ [((0, 1), { loadLaunch with gangs := loadLaunch.gangs.map waitingGang })] };
      (∃ la, s.launches.get? (0, 0) = some la ∧ s.gangFree (gangTiles 0 0 la.kernel 0) = true) ∧ s.someWaits 0 = true ∧
      s.tile? tile0 = some (tileOf (thread 16) id)) ∧
    (let st := harboured waitingGang id;
      (∃ la g, st.launches.get? (0, 0) = some la ∧ la.gangs[0]? = some g ∧ g.fault = some (3, 8) ∧
        firstSummons (st.summoned 0) = some (3, 8, 0, 0) ∧ la.kernel.vx ≤ 4096 ∧ la.kernel.pairs = false ∧ g.cls = none ∧
        la.kernel.tilesOfGang 0 = [0] ∧ ∃ v, la.table.get? 0 = some v) ∧
      st.chooseBerths (st.freeBerths 0 false) 1 none = some [2] ∧ ∀ b ∈ [2], st.isDark b 0 = false) := by
  have h : (harboured waitingGang id).chooseBerths ((harboured waitingGang id).freeBerths 0 false) 1 none = some [2] := by decide +kernel
  have m : ∀ b ∈ [2], (harboured waitingGang id).isDark b 0 = false := by decide +kernel
  have t : (harboured expired id).tile? tile0 = some (tileOf (thread 16) id) := by
    rw [show (harboured expired id).tile? tile0 = (small (thread 16) id id).tile? tile0 from rfl]; rfl
  exact ⟨⟨⟨_, _, rfl, rfl, rfl, by decide +kernel, rfl⟩, by decide +kernel⟩, ⟨⟨_, rfl, by decide +kernel⟩, by decide +kernel, t⟩,
    ⟨_, _, rfl, rfl, rfl, by decide +kernel, by decide, rfl, rfl, by decide +kernel, _, rfl⟩, h, m⟩

/-- Harbourmaster: at the expiry the gang's tile has ended its tile cycle, or runs it; the gang has a thread, or has come to its end. -/
theorem meets_Harbourmaster_slices :
    (∃ la, (harboured expired id).launches.get? (0, 0) = some la ∧ (gangTiles 0 0 la.kernel 0).all { harboured expired id with focus := (tile0, 7) }.cycleOver = true ∧
      (gangTiles 0 0 la.kernel 0).all { harboured expired id with focus := (tile0, 3) }.cycleOver = false ∧
      (harboured expired id).gangDone 0 0 la 0 = false ∧
      (harboured expired fun tl => { tl with threads := [] }).gangDone 0 0 la 0 = true) ∧
    ∃ la g, (harboured expired fun tl => { tl with threads := [] }).launches.get? (0, 0) = some la ∧ la.gangs[0]? = some g ∧ g.created = true :=
  ⟨⟨_, rfl, by decide +kernel, by decide +kernel, by decide +kernel, by decide +kernel⟩, _, _, rfl, rfl, by decide +kernel⟩

/-- Harbourmaster: no error has struck the image of the small machine's gang; one has struck its image's location, or none has. -/
theorem meets_Harbourmaster_errors :
    (∀ f g, (harboured f g).imageError 0 0 0 = .clean ∧ (harboured f g).locationBad tile0 = false) ∧
    ∀ f g, { harboured f g with errors := [.location tile0] }.locationBad tile0 = true := ⟨fun _ _ => ⟨rfl, rfl⟩, fun _ _ => rfl⟩

/-- The one tile of a gang of one tile. -/
theorem tilesOf_small {id : TileId} {la : Launch} (h : la.kernel.tilesOfGang 0 = [0]) (hi : TilesOf 0 0 0 la id) : id = tile0 := by
  obtain ⟨p, s, n⟩ := id
  obtain ⟨rfl, rfl, hn⟩ := hi
  rw [h] at hn
  obtain rfl := List.mem_singleton.1 hn
  rfl

/-- Harbourmaster: a saving gang that has drained, with a summons and without one; a restoring gang that was placed before; and one that is
placed for the first time. -/
theorem meets_Harbourmaster_saves :
    (∀ f ∈ [none, some ((3 : Int), 8)], let st := harboured (fun g => { g with state := .saving, fault := f }) id;
      ∃ la g, st.launches.get? (0, 0) = some la ∧ la.gangs[0]? = some g ∧ g.state = .saving ∧ g.fault = f ∧ la.moored = [] ∧
        ∀ id tl, TilesOf 0 0 0 la id → st.tile? id = some tl → st.drained id tl = true ∧ tl.berth = some 0 ∧ tl.threads ≠ []) ∧
    (let st := harboured (fun g => { g with state := .restoring }) id;
      ∃ la g, st.launches.get? (0, 0) = some la ∧ la.gangs[0]? = some g ∧ g.state = .restoring ∧ la.moored = [] ∧ g.created = true ∧
        st.tile? tile0 = some (tileOf (thread 16) id)) ∧
    (let tl := fun tl : Tile => { tl with threads := [], cores := List.replicate 8 Core.reset }
      let st := harboured (fun g => { g with state := .restoring, created := false }) tl;
      ∃ la g, st.launches.get? (0, 0) = some la ∧ la.gangs[0]? = some g ∧ g.state = .restoring ∧ la.moored = [] ∧ g.created = false ∧
        8 ≤ la.kernel.regs ∧ la.kernel.regs ≤ 128 ∧ st.tile? tile0 = some (tileOf (thread 16) tl) ∧ (tileOf (thread 16) tl).threads = [] ∧
        ∀ c ∈ (tileOf (thread 16) tl).cores, ∀ q ∈ c.positions, q.list = []) := by
  refine ⟨fun f hf => ?_, ⟨_, _, rfl, rfl, rfl, rfl, rfl, ?_⟩, _, _, rfl, rfl, rfl, rfl, rfl, by decide, by decide, ?_, rfl, by decide +kernel⟩
  · have t (f : Option (Int × Nat)) : (harboured (fun g => { g with state := .saving, fault := f }) id).tile? tile0 = some (tileOf (thread 16) id) := by
      rw [show (harboured (fun g => { g with state := .saving, fault := f }) id).tile? tile0 = (small (thread 16) id id).tile? tile0 from rfl]; rfl
    have k : loadLaunch.kernel.tilesOfGang 0 = [0] := by decide +kernel
    refine ⟨_, _, rfl, rfl, rfl, rfl, rfl, fun u tl hi ht => ?_⟩
    obtain rfl : u = tile0 := tilesOf_small k hi
    rw [t f] at ht
    injection ht with ht
    subst ht
    simp only [List.mem_cons, List.not_mem_nil, or_false] at hf
    rcases hf with rfl | rfl <;> exact ⟨by decide +kernel, rfl, by decide +kernel⟩
  · rfl
  · rfl

/-- A relocation of the small machine's tile from berth 0 to berth 2, at a stage. -/
def moving (s : RelocStage) (stopped : Bool) (tl : Tile) : Tile := { tl with reloc := some ⟨0, 2, s, []⟩, stopped := stopped }

/-- Harbourmaster: a tile at a berth that is MARGINAL and one that is RETIRE; the stages of a relocation, with the tile running and stopped;
and an acknowledged checkpoint write of the first and last line and the first and last group. -/
theorem meets_Harbourmaster_moves :
    (∀ r m, r = true ∨ m = true → let st := (harboured id id).modBerth 0 fun b => { b with retire := r, marginal := m };
      st.tile? tile0 = some (tileOf (thread 16) id) ∧ (tileOf (thread 16) id).reloc = none ∧
      (∃ la g, st.launchOf tile0 = some la ∧ la.gangs[la.kernel.gangOf 0]? = some g ∧ g.state = .resident ∧ la.cancelled = false ∧
        la.kernel.pairs = false) ∧ st.placeable 0 2 = true ∧ ((st.berth 0).marginal = true ∨ (st.berth 0).retire = true) ∧
      st.isDark 2 0 = false) ∧
    (∀ s ∈ [RelocStage.streaming, .cut, .restored], ∀ b, let st := small (thread 16) (moving s b) id; let tl := tileOf (thread 16) (moving s b);
      st.tile? tile0 = some tl ∧ tl.reloc = some ⟨0, 2, s, []⟩ ∧ tl.stopped = b ∧ st.gangState tile0 = .resident ∧ st.drained tile0 tl = true ∧
      ∃ la v, st.launchOf tile0 = some la ∧ la.kernel.pairs = false ∧ la.table.get? 0 = some v) ∧
    (let st := { plain 0 0 0 with berths := [(0, { Berth.reset with state := .moored, moored := some tile0, ckpt := true })] };
      (st.berth 0).moored = some tile0 ∧ (st.berth 0).ckpt = true ∧ st.gangState tile0 = .resident ∧ st.tile? tile0 = some (tileOf (regs 0 0 0) id) ∧
      (0 < 24576 ∧ 24575 < 24576 ∧ 24576 ≤ 24576 ∧ 24576 ≤ 32767)) := by
  refine ⟨fun r m h => ?_, fun s hs b => ?_, rfl, rfl, rfl, rfl, by decide⟩
  · refine ⟨?_, rfl, ⟨_, _, rfl, rfl, rfl, rfl, rfl⟩, by revert r m; decide +kernel, h.symm, by revert r m; decide +kernel⟩
    rw [show ((harboured id id).modBerth 0 fun b => { b with retire := r, marginal := m }).tile? tile0 = (small (thread 16) id id).tile? tile0 from rfl]
    rfl
  · simp only [List.mem_cons, List.not_mem_nil, or_false] at hs
    rcases hs with rfl | rfl | rfl <;> cases b <;> exact ⟨rfl, rfl, rfl, rfl, by decide +kernel, _, _, rfl, rfl, rfl⟩

/-- The machine of `admitting`, whose thread waits for walk 5 of a page, which is first in the field's queue. -/
def walks (va : Nat) : State :=
  let st := admitting
  { (st.modThread run fun th => { th with walking := some 5 }) with
    fields := [(0, { Field.reset 0 with walks := [⟨5, run, va, true, true, 0, 0⟩] })] }

/-- FirmwareTraps: a walk that finds the leaf of granule 0, and one that finds no entry. -/
theorem meets_FirmwareTraps_walks : ∀ va ∈ [0, 2 ^ 40], let st := walks va;
    ((st.field 0).walks.take 16).find? (·.id = 5) = some ⟨5, run, va, true, true, 0, 0⟩ ∧
    (∃ th, st.thread? run = some th ∧ th.walking = some 5) ∧ (∃ tl, st.tile? tile0 = some tl ∧ tl.berth = some 0) ∧
    (∃ la, st.launchOf tile0 = some la ∧ la.job = 0) ∧ st.roots.get? (0, 0) = some 0x1000 ∧
    (match walk st 0 0x1000 va true true with
      | .ok _ => va == 0
      | .error _ => va != 0) = true := by
  intro va hv
  simp only [List.mem_cons, List.not_mem_nil, or_false] at hv
  rcases hv with rfl | rfl <;> exact ⟨rfl, ⟨_, rfl, rfl⟩, ⟨_, rfl, rfl⟩, ⟨_, rfl, rfl⟩, rfl, by decide +kernel⟩

/-- A parked thread with a poisoned register x1 of entry 6, and this trap. -/
def parked (f : FwTrap) : Thread :=
  { thread 16 with
    regs := (thread 16).regs.set 1 (.pending 6 0 .neutral true), poisons := [(6, [9])], fwTrap := some f
    status := .off .firmware 0 }

/-- FirmwareTraps: a trap of symbol 6, resolved by a clean read, and not resolved otherwise, in a launch with a handler. -/
theorem meets_FirmwareTraps_parked : let f : FwTrap := ⟨.soft, 6, 0, false, false⟩; let th := parked f; let st := small th id withTvec;
    st.thread? run = some th ∧ th.fwTrap = some f ∧ f.cause = .soft ∧ f.tval.toNat < 2048 ∧ (6 : Nat) = f.tval.toNat % 256 ∧
    th.poisons.get? 6 = some [9] ∧ (∃ u th', st.resolveTrap run th f true = some u ∧ u.thread? run = some th') ∧
    st.resolveTrap run th f false = none ∧ (∃ la, st.launchOf tile0 = some la ∧ la.kernel.tvec ≠ 0xFFFFFFFF#32) ∧
    th.tstat.getLsbD 0 = false ∧ th.kill = false ∧ f.cause ≠ .mismatch :=
  ⟨rfl, rfl, rfl, by decide, by decide, rfl, ⟨_, _, rfl, rfl⟩, rfl, ⟨_, rfl, by decide +kernel⟩, rfl, rfl, by decide⟩

/-- The task of a checked pair. -/
def pairTask : Task := ⟨0x2000000001, 3⟩

/-- A thread that runs it for both members, with a trap or without. -/
def checkedThread (f : Option FwTrap) : Thread := { thread 16 with task := some pairTask, paired := some packet, fwTrap := f }

/-- A tile with another thread, and with that task's compared items and mismatches. -/
def mismatched (n : Nat) (tl : Tile) : Tile := { another tl with pairs := [(0x2000000001, (4, n))] }

/-- A tile at a cycle, one of whose pair's members waits since cycle 7. -/
def lonely (n : Nat) (tl : Tile) : Tile := Tile.setTwin { tl with cycle := n } 0 { Twin.same with waits := some (true, 7) }

/-- FirmwareTraps: a pair one of whose members waits, at the end of its time and a cycle before; and one that has parked with its first, second and third mismatch. -/
theorem meets_FirmwareTraps_pairs : let f : FwTrap := ⟨.mismatch, 4, 0, false, false⟩
    (∀ x ∈ [(65542, false), (65543, true)], let th := checkedThread none; (small th (lonely x.1) id).thread? run = some th ∧
      (∃ tl, (small th (lonely x.1) id).tile? tile0 = some tl ∧ (tl.twin 0).waits = some (true, 7) ∧ decide (7 + 65536 ≤ tl.cycle) = x.2) ∧
      th.paired = some packet ∧ th.task = some pairTask ∧ th.fwTrap = none ∧
      th.symSince = none ∧ ∀ f, th.follow = some f → f.leader ≠ 0) ∧
    ∀ n ∈ [0, 1, 2], let th := checkedThread (some f); let st := small th (mismatched n) id;
      st.thread? run = some th ∧ th.fwTrap = some f ∧ (∃ la, st.launchOf tile0 = some la ∧ la.cancelled = false ∧ la.detail = 0) ∧ th.kill = false ∧
      (∃ tl, st.tile? tile0 = some tl ∧ tl.pairs.get? pairTask.id = some (4, n) ∧ ∃ e ∈ tl.threads, e.1 ≠ 0) ∧ st.cmdsOf run = [] ∧
      ∀ b ∈ th.streams, b = none := by
  refine ⟨fun x hx => ?_, fun n hn => ?_⟩
  · simp only [List.mem_cons, List.not_mem_nil, or_false] at hx
    rcases hx with rfl | rfl <;> exact ⟨rfl, ⟨_, rfl, rfl, by decide +kernel⟩, rfl, rfl, rfl, rfl, fun f h => by cases h⟩
  simp only [List.mem_cons, List.not_mem_nil, or_false] at hn
  rcases hn with rfl | rfl | rfl <;>
    exact ⟨rfl, rfl, ⟨_, rfl, rfl, rfl⟩, rfl, ⟨_, rfl, rfl, by decide +kernel⟩, by rfl, by decide +kernel⟩

/-- A tile's core has neither plane record nor reload. -/
theorem no_planes {tl : Tile} (h : ∀ c ∈ tl.cores, c.active.code = 0 ∧ c.shadow.code = 0 ∧ c.reload = []) : PlanesStand tl := by
  refine .inl fun c => ?_
  unfold Tile.core
  rw [List.getD_eq_getElem?_getD]
  cases e : tl.cores[c]? with
  | some x => exact h _ (List.mem_of_getElem? e)
  | none => exact ⟨rfl, rfl, rfl⟩

/-- Harbourmaster: the tiles of the restoring gangs and of the relocation that is cut have no planes, and one has reloaded them. -/
theorem meets_Harbourmaster_planes :
    PlanesStand (tileOf (thread 16) id) ∧ (∀ b, PlanesStand (tileOf (thread 16) (moving .cut b))) ∧
    PlanesStand (tileOf (thread 16) fun tl => { tl with threads := [], cores := List.replicate 8 Core.reset }) ∧
    PlanesStand (tileOf (member 0) (holding [])) :=
  ⟨no_planes (by decide +kernel), fun b => no_planes (by cases b <;> decide +kernel), no_planes (by decide +kernel), .inr ⟨0, rfl, rfl, rfl⟩⟩

/-! ## Witnesses: links, boot, clocks and checkpoints -/

/-- An item of source 7. -/
def linkItem (seq : Word) (d : LinkData) : LinkItem := ⟨7, seq, d⟩

/-- The small machine with an item at link 4, whose source's last number was 9. -/
def receiving (i : LinkItem) : State :=
  { plain 0 0 0 with links := [(4, { Link.reset with rx := [i] })], seqIn := [(7, 9)] }

/-- LinksAndRouters: a write and a message with the number 10, which is ahead of 9, with 9 and with 8, which are not; and an unacknowledged
write. -/
theorem meets_LinksAndRouters_traffic :
    (∀ s ∈ [(8 : Word), 9, 10], ∀ d ∈ [LinkData.write 64 [1, 2], .message tile0 ⟨0, 1, 4, [9], 0, 5⟩], let st := receiving (linkItem s d)
      (st.link 4).rx = linkItem s d :: [] ∧ (st.link 4).failed = false ∧ MemoryOk st ∧ st.seqIn.get? 7 = some 9 ∧
      (s ≠ 9 ∧ (s - 9).toNat < 2 ^ 31 ↔ s = 10) ∧ st.gangState tile0 = .resident ∧ st.tile? tile0 = some (tileOf (regs 0 0 0) id)) ∧
    ((tileOf (regs 0 0 0) id).heap = [] ∧ (tileOf (regs 0 0 0) id).held = [] ∧ (tileOf (regs 0 0 0) id).overflow = [] ∧
      slotsOf (tileOf (regs 0 0 0) id).inbox + (⟨0, 1, 4, [9], 0, 5⟩ : Message).slots ≤ 2048 ∧ (tileOf (regs 0 0 0) id).recvs = []) ∧
    (let r : Remote := ⟨3, run, 5, 4, linkItem 1 (.write 64 [1]), 0, false⟩; let st := { plain 0 0 0 with remotes := [r] };
      st.remotes.find? (·.id = r.id) = some r ∧ r.lost = false) := by
  refine ⟨fun s hs d hd => ?_, ⟨rfl, rfl, rfl, by decide +kernel, rfl⟩, rfl, rfl⟩
  simp only [List.mem_cons, List.not_mem_nil, or_false] at hs hd
  rcases hs with rfl | rfl | rfl <;> rcases hd with rfl | rfl <;> exact ⟨rfl, rfl, rfl, rfl, by decide, rfl, rfl⟩

/-- LinksAndRouters: a link that has sent a flit again for the ninth time, with 7, 4 and 3 lanes; a write at a failed link whose sender is 100 ms
old, of a thread whose launch lives; a quay command. -/
theorem meets_LinksAndRouters_errors :
    (let st := { plain 0 0 0 with links := [(4, { Link.reset with retries := 9 })] };
      (st.link 4).failed = false ∧ 9 ≤ (st.link 4).retries ∧ 4 ≤ 7 ∧ 4 ≤ 4 ∧ 3 < 4) ∧
    (let r : Remote := ⟨3, run, 5, 4, linkItem 1 (.write 64 [1]), -100000000, false⟩
      let st := { plain 0 0 0 with remotes := [r], links := [(4, { Link.reset with failed := true })] };
      st.remotes.find? (·.id = r.id) = some r ∧ r.lost = false ∧ (st.link r.link).failed = true ∧ r.time + 100000000 ≤ st.now ∧
      ∃ la, Living st tile0 la) ∧
    (∃ la tl, Living (plain 0 0 0) tile0 la ∧ (plain 0 0 0).tile? tile0 = some tl ∧ tl.berth = some 0) ∧
    (let st := { plain 0 0 0 with quay := [(2, [(tile0, 9)])] }; st.quay.find? (·.1 = 2) = some (2, [(tile0, 9)])) :=
  ⟨⟨rfl, by decide, by decide, by decide, by decide⟩,
    ⟨rfl, rfl, rfl, by decide, _, rfl, rfl, rfl, by decide +kernel, _, 0, rfl, rfl, by decide +kernel⟩,
    ⟨_, _, ⟨rfl, rfl, rfl, by decide +kernel, _, 0, rfl, rfl, by decide +kernel⟩, rfl, rfl⟩, rfl⟩

/-- The machine at a stage of boot. -/
def booting (n : Nat) : State := { State.reset with boot := { State.reset.boot with stage := n } }

/-- BootAndIdentity: the stages of boot for the first and the last field; and a machine with a berth that is RETIRE. -/
theorem meets_BootAndIdentity_stages :
    (∀ n ∈ [1, 2, 3], ∀ f ∈ [0, 29], AtStage (booting n) (n + 1) f) ∧ (∀ n ∈ [4, 5, 6], (booting n).boot.stage = n) ∧
    (0 ∉ State.reset.cuts ∧ 0 ∈ ({ State.reset with cuts := [0] } : State).cuts) ∧
    (∃ x, (0, x) ∈ ({ State.reset with berths := [(0, { Berth.reset with retire := true })] } : State).berths ∧ x.retire = true) ∧
    ((∀ d ∈ State.reset.defects, d.kind ≠ 2 ∧ d.kind ≠ 3) ∧ State.reset.boot.dark = 0) := by
  refine ⟨fun n hn f hf => ?_, fun n _ => rfl, ⟨by decide, by decide⟩, ⟨_, List.mem_singleton.2 rfl, rfl⟩, nofun, rfl⟩
  simp only [List.mem_cons, List.not_mem_nil, or_false] at hn hf
  rcases hn with rfl | rfl | rfl <;> rcases hf with rfl | rfl <;> exact ⟨by decide, rfl, by decide, by decide⟩

/-- Fields 0, 1 and 6 that count at 1 ms, the last two with a probe. -/
def counting (p : Option Probe) : State :=
  let x (f : Nat) (p : Option Probe) : Field := { Field.reset f with time := 1000000, counting := true, probe := p }
  { State.reset with fields := [(0, x 0 none), (1, x 1 p), (6, x 6 p)] }

/-- BootAndIdentity: such fields without a probe, with one on its way, and with one that has arrived. -/
theorem meets_BootAndIdentity_offsets : ∀ p ∈ [none, some (⟨1000000, 0, 0, false⟩ : Probe), some ⟨1000000, 1000200, 1000200, true⟩], ∀ f ∈ [1, 6],
    ((counting p).field (if f < 6 then f - 1 else f - 6)).counting = true ∧ ((counting p).field f).counting = true ∧
    ((counting p).field f).probe = p ∧ ((counting p).field f).probed < ((counting p).field (if f < 6 then f - 1 else f - 6)).time / 1000000 := by
  decide +kernel

/-- BootAndIdentity: a granule of partition 1 beside the launch of the small machine in partition 0, a withdrawn granule and one that is not. -/
theorem meets_BootAndIdentity_identity :
    (∀ la ∈ (plain 0 0 0).launches, ∀ o ∈ [((plain 0 0 0).granules.get? 5).getD 0, 0x4100#16], o.getLsbD 14 = true → la.1.1 ≠ o.toNat / 256 % 32) ∧
    ((({ State.reset with granules := [(5, 0x2000)] } : State).granules.get? 5).getD 0).getLsbD 13 = true ∧
    ((State.reset.granules.get? 5).getD 0).getLsbD 13 = false ∧
    (∀ la ∈ (plain 0 0 0).launches, la.1.1 ≠ 1) ∧ (∃ la ∈ (plain 0 0 0).launches, la.1.1 = 0) := by
  have l : (plain 0 0 0).launches = [((0, 0), loadLaunch)] := rfl
  rw [l]
  refine ⟨fun la h o ho => ?_, rfl, rfl, fun la h => ?_, _, List.mem_singleton.2 rfl, rfl⟩
  · obtain rfl := List.mem_singleton.1 h
    have g : ((plain 0 0 0).granules.get? 5).getD 0 = 0#16 := rfl
    rw [g] at ho
    simp only [List.mem_cons, List.not_mem_nil, or_false] at ho
    rcases ho with rfl | rfl <;> decide
  · obtain rfl := List.mem_singleton.1 h
    decide

/-- The machine of `admitting` with a checkpoint of job 0 at a step, its slots in the host's memory, and one region of one page. -/
def checkpointing (s : CkStep) (f : Part → Part) : State :=
  { (admitting.modPart 0 fun p => f { p with
      ckctl := 0x80000000, ckstep := s, ckphase := (0, 0), ckslots := [2 ^ 61 + 2 ^ 20, 2 ^ 61 + 2 ^ 21]
      ckrgn := (0, 65536) :: List.replicate 7 (0, 0) }) with flits := [(4, 0, 3, 0, 0)] }

/-- No partition's control region reaches the host's memory, wherever it stands. -/
theorem control (p : Nat) : memKey 2 0 (controlBase p) + 2 ^ 22 ≤ 3 * 2 ^ 96 + 2 ^ 21 := by
  have h : controlBase p < 2 ^ 64 := by unfold controlBase; omega
  unfold memKey
  omega

/-- Checkpoints: a STOP flit; an enabled timer after 1 ms; a checkpoint whose slot is cleared, with a region that is mapped and one that is
not; and one that is written. -/
theorem meets_Checkpoints :
    (checkpointing .idle id).flits.find? (·.1 = 4) = some (4, 0, 3, 0, 0) ∧
    (let st := checkpointing .idle fun p => { p with cktimer := -1000000 }; let p := st.part 0;
      p.ckctl.getLsbD 31 = true ∧ p.ckctl.getLsbD 30 = false ∧ p.ckstep = .idle ∧
      p.cktimer + ((max 1 (p.ckctl.toNat % 2 ^ 24) : Nat) : Int) * 1000000 ≤ st.now) ∧
    (let st := checkpointing .clearing id; let p := st.part 0;
      p.ckstep = .clearing ∧ st.slotKey 0 = some (3 * 2 ^ 96 + 2 ^ 21) ∧ st.checkpointPages 0 0 = some [0] ∧ Memory.wf st.mem = true ∧
      (3 * 2 ^ 96 + 2 ^ 21) / 2 ^ 96 = 3 ∧ 0 + 65536 ≤ 2 ^ 48 ∧ p.openPhase 0 = none) ∧
    (let st := checkpointing .clearing fun p => { p with ckrgn := (2 ^ 40, 65536) :: List.replicate 7 (0, 0) }; st.checkpointPages 0 0 = none) ∧
    (let st := checkpointing .writing id; let p := st.part 0;
      p.ckstep = .writing ∧ MemoryOk st ∧ st.slotKey 0 = some (3 * 2 ^ 96 + 2 ^ 21) ∧ 
      (∀ j ∈ p.jobs, j.2.level.offset + 64 ≤ 2 ^ 22) ∧ (p.nextBlock + 1) * 64 ≤ 2 ^ 22 ∧
      memKey 2 0 (controlBase 0) + 2 ^ 22 ≤ 3 * 2 ^ 96 + 2 ^ 21 ∧ p.openPhase p.ckphase.1 = none) ∧
    (∀ x ∈ [(-1000000000 : Int), -1000000001], let st := checkpointing .stopping fun p => { p with cktimer := x }; let p := st.part 0;
      p.ckstep = .stopping ∧ (p.cktimer + 1000000000 < st.now ↔ x = -1000000001) ∧ p.openPhase p.ckphase.1 = none) := by
  refine ⟨rfl, ⟨by decide +kernel, by decide +kernel, rfl, by decide +kernel⟩,
    ⟨rfl, by decide +kernel, by decide +kernel, by decide +kernel, by decide, by decide, by rfl⟩, by decide +kernel,
    ⟨rfl, (by decide +kernel : Memory.wf _ = true), by decide +kernel, by decide +kernel, by decide +kernel, control 0, by rfl⟩, fun x hx => ?_⟩
  simp only [List.mem_cons, List.not_mem_nil, or_false] at hx
  rcases hx with rfl | rfl <;> exact ⟨rfl, by decide +kernel, by rfl⟩

/-! ## Witnesses: the machine as a whole -/

/-- The machine with a word placed where it fetches next. -/
def fetching (w : Nat) : State := State.reset.withFetchWord 32 w

/-- What a turn of such a machine meets: the core that is next, its first candidate, and what the bytes at its PC decode to. -/
def meetsTurn (st : State) (w : Nat) (good : Bool) : Bool :=
  match st.nextCore with
  | none => false
  | some (tile, core, st1) =>
    let st2 := (st1.openTurn tile core).forgoTurn tile core
    match (st1.openTurn tile core).candidates tile core with
    | [] => false
    | e :: _ =>
      let m := st2.offer tile e
      match m.thread? ⟨tile, e.1⟩, m.launchOf tile with
      | some th, some la =>
        let pc := (th.pc &&& 0xFFFFFFFC#32).toNat
        let bytes := codeBytes m tile pc (if pc + 8 ≤ la.kernel.codeSize then 8 else 4)
        !th.kill && th.paired.isNone && decide (pc < la.kernel.codeSize) && memRead m.mem (codeKey tile.part tile.slot pc) 4 == w &&
          ((match decodeBytes bytes with
            | .ok _ => true
            | .error _ => false) && !modeRejects th.mode w) == good
      | _, _ => false

/-- StepsRunInstructions: a turn whose word is ADDI, and one whose word is ILLEGAL; an input, with and without power, and a taken command. -/
theorem meets_StepsRunInstructions :
    (fetching 0x05140005).held = false ∧ meetsTurn (fetching 0x05140005) 0x05140005 true = true ∧
    meetsTurn (fetching 0x2E000000) 0x2E000000 false = true ∧
    (let s := { State.reset with agenda := [.powerLoss] }; s.agenda = .powerLoss :: [] ∧ s.powered = true) ∧
    (let s := { State.reset with agenda := [.moduleReset true 0], powered := false };
      s.agenda = .moduleReset true 0 :: [] ∧ wakesModule (.moduleReset true 0) = true) ∧
    (let s := { State.reset with taken := [hostCmd 2 0 0] }; s.agenda = [] ∧ s.powered = true ∧ s.taken = hostCmd 2 0 0 :: []) ∧
    State.reset.agenda = [] ∧ State.reset.powered = true ∧ State.reset.taken = [] ∧ State.reset.advance.dueEvents = [] ∧
    (let s := { State.reset with lastNow := 0, lastSource := 5 }; s.lastNow = s.now ∧ 4 < s.lastSource ∧ ¬ 5 < s.lastSource) := by
  refine ⟨by decide +kernel, by decide +kernel, by decide +kernel, ⟨rfl, rfl⟩, ⟨rfl, rfl⟩, ⟨rfl, rfl, rfl⟩, rfl, rfl, rfl, rfl, by decide⟩

/-- StepsRunInstructions: a line of a combining buffer that is due to drain. -/
theorem meets_StepsRunInstructions_due :
    (small buffering (fun tl => { tl with cycle := 512 }) id).advance.dueEvents.isEmpty = false := by decide +kernel

/-- DecodeOfEncode and EncodeOfDecode: a word, and a pair. -/
theorem meets_DecodeOfEncode :
    (∀ i ∈ [Instr.addi 0 10 0 5, .imx 0x48 0x0C180345#32], i.wellFormed = true ∧ i.isEvent = false ∧ ∀ w, i ≠ .illegal w) ∧
    (match decodeBytes [0x05#8, 0x00#8, 0x14#8, 0x05#8, 0x54#8] with
      | .ok (i, rest) => i == .addi 0 10 0 5 && rest == [0x54#8]
      | .error _ => false) = true := by
  have p : (Instr.imx 0x48 0x0C180345#32).wellFormed = true := by decide +kernel
  refine ⟨fun i hi => ?_, by decide +kernel⟩
  simp only [List.mem_cons, List.not_mem_nil, or_false] at hi
  rcases hi with rfl | rfl
  · exact ⟨rfl, rfl, nofun⟩
  · exact ⟨p, rfl, nofun⟩

/-- MemoryStaysCanonical: a state with an input, from which a step goes on. -/
theorem meets_MemoryStaysCanonical : MemoryOk { State.reset with agenda := [.powerLoss] } ∧
    ∃ t, step { State.reset with agenda := [.powerLoss] } = .next t := ⟨rfl, _, rfl⟩

/-- StepsGoOn: the module without power. -/
theorem meets_StepsGoOn : step { State.reset with powered := false } = .fault .poweredOff := rfl

/-- ImxWordsTrap: IMX words with S of 1, with bit 22 set, and good ones; a second word of ADDI's and of STSET's major; and a thread at a PC with
two words of code behind it. -/
theorem meets_ImxWordsTrap :
    (∀ w ∈ [0x7F000000, 0x3F400000], w < 2 ^ 32 ∧ w / 2 ^ 24 % 64 = 0x3F ∧ (w / 2 ^ 30 ≠ 0 ∨ w / 2 ^ 22 % 4 ≠ 0)) ∧
    (0x3F000048 < 2 ^ 32 ∧ 0x3F000048 / 2 ^ 24 % 64 = 0x3F ∧ 0x3F000048 / 2 ^ 22 = 0xFC) ∧
    (let op := (0x1E000000#32).toNat / 2 ^ 24 % 64;
      op ∉ [0x05, 0x06, 0x07, 0x08, 0x09, 0x0A, 0x0B, 0x0C, 0x0F, 0x10, 0x11, 0x12, 0x13, 0x14, 0x15, 0x18]) ∧
    Runs (small (regs 0 0 0) id withTvec) run (regs 0 0 0) ∧
    ∃ la, (plain 0 0 0).launchOf tile0 = some la ∧ (regs 0 0 0).pc.toNat % 4 = 0 ∧ (regs 0 0 0).pc.toNat + 8 ≤ la.kernel.codeSize :=
  ⟨by decide, by decide, by decide, runs _ _ _ rfl fun _ => rfl, _, rfl, by decide, by decide⟩

/-- JalLinks and JalrLinks: a target in x1, a destination x4, the source itself and x0, and a pending source. -/
theorem meets_JalrLinks :
    (let st := plain 0x24 0 0; let th := regs 0x24 0 0
      Runs st run th ∧ NotEarly th [1] ∧ Reads th 1 0x24 th ∧ (∀ d ∈ [(4 : BitVec 7), 1, 0], ∀ w, Puts st run th d w (th.setX d.toNat w)) ∧
      (1#7).toNat < th.alloc ∧ th.reg 1 = .ready 0x24) ∧
    (let th := awaiting .neutral; Runs (small th id id) run th ∧ NotEarly th [1] ∧ (1#7).toNat < th.alloc ∧ Named th 4 ∧
      ∃ e w k, th.reg 1 = .pending e w k false) := by
  refine ⟨⟨runs _ _ _ rfl fun _ => rfl, notEarly rfl _, reads (by decide) rfl, fun d hd w => ?_, by decide, rfl⟩,
    runs _ _ _ rfl fun _ => rfl, notEarly rfl _, (by decide : 1 < 16), .inl (by decide : 4 < 16), _, _, _, rfl⟩
  simp only [List.mem_cons, List.not_mem_nil, or_false] at hd
  rcases hd with rfl | rfl | rfl <;> exact puts (by decide) w

end Sys2Proof.Tests
end

section
/-! SUPPORT. What a step does, one equation for each of its sources (R5; log entry 1). -/

namespace Sys2Proof.Machine

/-! ## The passage of time leaves what a step looks at first -/

theorem State.advance_frame (s : State) :
    s.advance.agenda = s.agenda ∧ s.advance.powered = s.powered ∧ s.advance.taken = s.taken := by
  unfold State.advance
  split <;> exact ⟨rfl, rfl, rfl⟩

@[simp] theorem State.advance_agenda (s : State) : s.advance.agenda = s.agenda := s.advance_frame.1
@[simp] theorem State.advance_powered (s : State) : s.advance.powered = s.powered := s.advance_frame.2.1
@[simp] theorem State.advance_taken (s : State) : s.advance.taken = s.taken := s.advance_frame.2.2

/-! ## A choice by number -/

/-- The place that a remainder names in a list that is not empty holds one of its elements. -/
theorem getD_mod_mem {α : Type} (x : α) (xs : List α) (n : Nat) (d : α) :
    (x :: xs).getD (n % (xs.length + 1)) d ∈ x :: xs := by
  have h : n % (xs.length + 1) < (x :: xs).length := Nat.mod_lt _ (Nat.succ_pos _)
  rw [List.getD_eq_getElem?_getD, List.getElem?_eq_getElem h]
  exact List.getElem_mem h

/-- The choice between a turn and the events is a turn, or one of the events. -/
theorem pickEvent_cases (st : State) (es : List (Nat × Event)) :
    pickEvent st es = happen st.turnSource turn st ∨ ∃ e ∈ es, pickEvent st es = happen e.1 e.2 st := by
  cases es with
  | nil => exact .inl rfl
  | cons e rest =>
    cases hk : Config.schedule st.clock (rest.length + 2) % (rest.length + 2) with
    | zero => exact .inl (by simp only [pickEvent, hk])
    | succ k =>
      have hlt : k < rest.length + 1 := by
        have : k + 1 < rest.length + 2 := hk ▸ Nat.mod_lt _ (by omega)
        omega
      have hmem := getD_mod_mem e rest k e
      rw [Nat.mod_eq_of_lt hlt] at hmem
      exact .inr ⟨_, hmem, by simp only [pickEvent, hk]⟩

/-! ## What a step is, by what waits -/

theorem step_of_input {s : State} {i : Instr} {rest : List Instr} (ha : s.agenda = i :: rest)
    (hp : s.powered = true ∨ wakesModule i = true) :
    step s = happen (inputSource i) (exec i) { s.advance with agenda := rest } := by
  have hon : (s.powered || wakesModule i) = true := by simpa using hp
  simp [step, ha, hon]

theorem step_of_no_input {s : State} (ha : s.agenda = []) (hp : s.powered = true) : step s = proceed s.advance := by
  simp [step, ha, hp]

theorem proceed_of_due {st : State} (h : st.dueEvents ≠ []) : ∃ e ∈ st.dueEvents, proceed st = happen e.1 e.2 st := by
  cases hd : st.dueEvents with
  | nil => exact absurd hd h
  | cons e rest => exact ⟨_, getD_mod_mem e rest (Config.schedule st.clock (rest.length + 1)) e, by simp only [proceed, hd]⟩

theorem proceed_of_taken {st : State} {c : HostCmd} {rest : List HostCmd} (hd : st.dueEvents = []) (ht : st.taken = c :: rest) :
    proceed st = happen (portSource (c.queue / 131072)) (carryOut c) { st with ticked := false, taken := rest } := by
  simp only [proceed, hd, ht]

theorem proceed_of_quiet {st : State} (hd : st.dueEvents = []) (ht : st.taken = []) :
    proceed st = pickEvent { st with ticked := false } { st with ticked := false }.enabledEvents := by
  simp only [proceed, hd, ht]

/-! ## A happening at the time that R5 gives its source -/

/-- A happening goes on as its event does, but for the record of the source that acted last. -/
theorem happen_of_next {source : Nat} {e : Event} {s t : State}
    (h : e (if s.lastNow = s.now ∧ source < s.lastSource then s.later else s) = .next t) :
    ∃ n now, happen source e s = .next { t with lastSource := n, lastNow := now } := by
  simp only [happen]
  generalize (if s.lastNow = s.now ∧ source < s.lastSource then s.later else s) = s0 at h ⊢
  simp only [h]
  split
  · exact ⟨_, _, rfl⟩
  · exact ⟨t.lastSource, t.lastNow, rfl⟩

theorem happen_of_fault {source : Nat} {e : Event} {s : State} {f : Fault}
    (h : e (if s.lastNow = s.now ∧ source < s.lastSource then s.later else s) = .fault f) : happen source e s = .fault f := by
  simp only [happen, h]

end Sys2Proof.Machine
end

section
/-! SUPPORT. Fetch: the bytes of the code section at a PC decode to the instruction that a turn executes (R220, R221, R227, R236). -/

namespace Sys2Proof.Machine

/-! ## Words and bytes of the code section -/

theorem wordOfBytes_memGet (m : List Host.Cell) (a : Nat) :
    wordOfBytes (memGet m a) (memGet m (a + 1)) (memGet m (a + 2)) (memGet m (a + 3)) = memRead m a 4 := by
  simp only [wordOfBytes, memRead, Nat.add_assoc, Nat.reduceAdd]
  omega

/-- The word at an offset of the code section is the little-endian one of the four bytes there. -/
theorem State.codeWord_eq_wordOfBytes (st : State) (tile : TileId) (off : Nat) :
    let k := codeKey tile.part tile.slot off
    st.codeWord tile off = wordOfBytes (memGet st.mem k) (memGet st.mem (k + 1)) (memGet st.mem (k + 2)) (memGet st.mem (k + 3)) :=
  (wordOfBytes_memGet _ _).symm

/-- Eight bytes of the code section are the four of a word and the four of the word behind it. -/
theorem codeBytes_eight (st : State) (tile : TileId) (pc : Nat) :
    codeBytes st tile pc 8 = codeBytes st tile pc 4 ++ codeBytes st tile (pc + 4) 4 := by
  simp [codeBytes, codeKey, memKey, List.range_succ, Nat.add_assoc]

theorem codeBytes_four (st : State) (tile : TileId) (pc : Nat) :
    let k := codeKey tile.part tile.slot pc
    codeBytes st tile pc 4 = [memGet st.mem k, memGet st.mem (k + 1), memGet st.mem (k + 2), memGet st.mem (k + 3)] := by
  simp [codeBytes, List.range_succ]

/-! ## Decoding the bytes at a PC -/

/-- Bytes that begin with a word of its own decode to that word's instruction, whatever follows. -/
theorem decodeBytes_word {st : State} {tile : TileId} {pc : Nat} (h : isImxWord (st.codeWord tile pc) = false) (rest : List Byte) :
    decodeBytes (codeBytes st tile pc 4 ++ rest) = (decodeWord (st.codeWord tile pc)).map fun i => (i, rest) := by
  rw [State.codeWord_eq_wordOfBytes] at h ⊢
  simp [codeBytes_four, decodeBytes, h]

/-- An IMX word decodes with the word behind it. -/
theorem decodeBytes_imx {st : State} {tile : TileId} {pc : Nat} (h : isImxWord (st.codeWord tile pc) = true) :
    decodeBytes (codeBytes st tile pc 8) =
      .ok (.imx (BitVec.ofNat 22 (st.codeWord tile pc)) (BitVec.ofNat 32 (st.codeWord tile (pc + 4))), []) := by
  rw [codeBytes_eight]
  simp only [State.codeWord_eq_wordOfBytes] at h ⊢
  simp [codeBytes_four, decodeBytes, h, bits]

/-- An IMX word with nothing behind it decodes to no instruction. -/
theorem decodeBytes_imx_alone {st : State} {tile : TileId} {pc : Nat} (h : isImxWord (st.codeWord tile pc) = true) :
    decodeBytes (codeBytes st tile pc 4) = .error .imxEndsCode := by
  rw [State.codeWord_eq_wordOfBytes] at h
  simp [codeBytes_four, decodeBytes, h]

/-- No decode mode rejects an IMX word: its S is 0, and its major is none of those that W1 and W2 lack. -/
theorem modeRejects_of_isImxWord {w : Nat} (h : isImxWord w = true) (m : DMode) : modeRejects m w = false := by
  have hw : w / 2 ^ 22 = 252 := by simpa [isImxWord] using h
  have hop : fld w 24 6 = 63 := by unfold fld; omega
  have hs : fld w 30 2 = 0 := by unfold fld; omega
  cases m <;> simp [modeRejects, hop, hs]

/-! ## The instruction of a turn -/

/-- The instruction that a turn executes at an offset of a code section of some size, in a decode mode. -/
def State.instrAt (st : State) (m : DMode) (tile : TileId) (pc size : Nat) : Instr :=
  decodeAt m (st.codeWord tile pc) (if pc + 8 ≤ size then some (st.codeWord tile (pc + 4)) else none)

/-- The bytes that the decoder is given at an offset of a code section of some size: two words where it holds two. -/
def bytesAt (st : State) (tile : TileId) (pc size : Nat) : List Byte := codeBytes st tile pc (if pc + 8 ≤ size then 8 else 4)

/-- A word that is no IMX word decodes alone, whether or not a word stands behind it. -/
theorem decodeBytes_bytesAt_word {st : State} {tile : TileId} {pc : Nat} (size : Nat) (h : isImxWord (st.codeWord tile pc) = false) :
    ∃ rest, decodeBytes (bytesAt st tile pc size) = (decodeWord (st.codeWord tile pc)).map fun i => (i, rest) := by
  unfold bytesAt
  split
  · exact ⟨_, codeBytes_eight st tile pc ▸ decodeBytes_word h _⟩
  · exact ⟨[], by simpa using decodeBytes_word h []⟩

/-- A turn executes what the bytes at the PC decode to, unless the decode mode rejects the word. -/
theorem instrAt_of_decodes {st : State} {m : DMode} {tile : TileId} {pc size : Nat} {i : Instr} {rest : List Byte}
    (h : decodeBytes (bytesAt st tile pc size) = .ok (i, rest)) (hm : modeRejects m (st.codeWord tile pc) = false) :
    st.instrAt m tile pc size = i := by
  unfold State.instrAt
  cases hx : isImxWord (st.codeWord tile pc) with
  | true =>
    unfold bytesAt at h
    split at h
    · rw [decodeBytes_imx hx] at h
      cases h
      simp [decodeAt, *]
    · rw [decodeBytes_imx_alone hx] at h
      cases h
  | false =>
    obtain ⟨_, hd⟩ := decodeBytes_bytesAt_word size hx
    rw [hd] at h
    cases hw : decodeWord (st.codeWord tile pc) with
    | error err => simp [hw, Except.map] at h
    | ok j =>
      obtain ⟨rfl, -⟩ : j = i ∧ _ := by simpa [hw, Except.map] using h
      simp [decodeAt, hx, hm, hw]

/-- A word that the decode mode rejects executes as the illegal word. -/
theorem instrAt_of_modeRejects {st : State} {m : DMode} {tile : TileId} {pc : Nat} (size : Nat)
    (hm : modeRejects m (st.codeWord tile pc) = true) : st.instrAt m tile pc size = .illegal (BitVec.ofNat 32 (st.codeWord tile pc)) := by
  have hx : isImxWord (st.codeWord tile pc) = false :=
    Bool.eq_false_iff.2 fun hx => absurd hm (modeRejects_of_isImxWord hx m ▸ Bool.false_ne_true)
  simp [State.instrAt, decodeAt, hx, hm]

/-- Bytes that decode to nothing execute as the illegal word. -/
theorem instrAt_of_decode_error {st : State} {tile : TileId} {pc size : Nat} {err : DecodeError} (m : DMode)
    (h : decodeBytes (bytesAt st tile pc size) = .error err) :
    st.instrAt m tile pc size = .illegal (BitVec.ofNat 32 (st.codeWord tile pc)) := by
  unfold State.instrAt
  cases hx : isImxWord (st.codeWord tile pc) with
  | true =>
    unfold bytesAt at h
    split at h
    · rw [decodeBytes_imx hx] at h
      cases h
    · simp [decodeAt, *]
  | false =>
    obtain ⟨_, hd⟩ := decodeBytes_bytesAt_word size hx
    rw [hd] at h
    cases hw : decodeWord (st.codeWord tile pc) with
    | ok j => simp [hw, Except.map] at h
    | error => simp [decodeAt, hx, hw]

/-! ## Fetching -/

section fetching
variable {st : State} {t : ThreadId} {th : Thread} {la : Launch} (hla : st.launchOf t.tile = some la)
include hla

theorem fetch_inside (h : (th.pc &&& 0xFFFFFFFC#32).toNat < la.kernel.codeSize) :
    fetch st t th = .ok (st.instrAt th.mode t.tile (th.pc &&& 0xFFFFFFFC#32).toNat la.kernel.codeSize) := by
  simp only [fetch, hla, if_neg (Nat.not_le.2 h)]
  rfl

theorem fetch_outside (h : la.kernel.codeSize ≤ (th.pc &&& 0xFFFFFFFC#32).toNat) :
    fetch st t th = .error (th.pc &&& 0xFFFFFFFC#32) := by
  simp only [fetch, hla, if_pos h]

end fetching

end Sys2Proof.Machine
end

section
/-! SUPPORT. A turn of a core is the turn of its first candidate (R31, R34). -/

namespace Sys2Proof.Machine

theorem turn_of_nextCore {st st1 : State} {tile : TileId} {core : Nat} (h : st.nextCore = some (tile, core, st1)) :
    turn st = tryTurn tile ((st1.openTurn tile core).candidates tile core) ((st1.openTurn tile core).forgoTurn tile core) := by
  simp only [turn, h]

/-- The first candidate keeps the turn when its instruction does not hold it, and leaves it to the next one otherwise. -/
theorem tryTurn_cons {tile : TileId} {e : Nat × Nat} {st t : State} (es : List (Nat × Nat)) (h : runThread tile e st = .next t) :
    (t.held = false → tryTurn tile (e :: es) st = .next t) ∧ (t.held = true → tryTurn tile (e :: es) st = tryTurn tile es st) := by
  constructor <;> intro hh <;> simp [tryTurn, h, hh]

/-- A thread of no checked pair that is not killed executes one instruction, its own. -/
theorem runThread_of_unpaired {tile : TileId} {e : Nat × Nat} {st : State} {th : Thread}
    (ht : (st.offer tile e).thread? ⟨tile, e.1⟩ = some th) (hp : th.paired = none) :
    runThread tile e st = runInstr ⟨tile, e.1⟩ th (st.offer tile e) := by
  cases htl : (st.offer tile e).tile? tile with
  | none => simp [State.thread?, htl] at ht
  | some tl => simp [runThread, ht, htl, hp]

section alive
variable {st : State} {t : ThreadId} {th : Thread} (hk : th.kill = false)
include hk

theorem runInstr_of_fetched {i : Instr} (h : fetch st t th = .ok i) : runInstr t th st = exec i st := by
  simp [runInstr, h, hk]

theorem runInstr_of_unfetched {pc : Word} (h : fetch st t th = .error pc) :
    runInstr t th st = .next (st.takeTrap t .bounds pc pc false) := by
  simp [runInstr, h, hk]

end alive

end Sys2Proof.Machine
end

section
/-! PROOF. The machine as a whole: what a step and a turn are. -/

namespace Sys2Proof.Safety

open Sys2Proof.Machine

theorem stepsChoose : StepsChoose := by
  refine ⟨fun s i rest ha hp => step_of_input ha hp, fun s ha hp hd => ?_, fun s c rest ha hp hd ht => ?_, fun s ha hp hd ht => ?_,
    fun source e s => ⟨fun t h => happen_of_next h, fun f h => happen_of_fault h⟩⟩
  · exact step_of_no_input ha hp ▸ proceed_of_due hd
  · exact step_of_no_input ha hp ▸ proceed_of_taken hd (by simpa using ht)
  · have hq := proceed_of_quiet hd (by simpa using ht)
    rw [step_of_no_input ha hp, hq]
    exact ⟨pickEvent_cases _ _, fun hn => by rw [hn]; rfl⟩

theorem turnsRun : TurnsRun := by
  intro st tile core st1 e es th la hnext _ st2 hcand m hth hkill hpair hla pc w runs
  have hturn : turn st = tryTurn tile (e :: es) st2 := hcand ▸ turn_of_nextCore hnext
  have hrun : runThread tile e st2 = runInstr ⟨tile, e.1⟩ th m := runThread_of_unpaired hth hpair
  have hruns : pc < la.kernel.codeSize → runs (m.instrAt th.mode tile pc la.kernel.codeSize) := by
    intro hin t ht
    have hexec : runThread tile e st2 = .next t := hrun.trans ((runInstr_of_fetched hkill (fetch_inside hla hin)).trans ht)
    exact hturn ▸ tryTurn_cons es hexec
  refine ⟨fun hin => ⟨fun i rest hd hm => ?_, ?_⟩, fun hout t ht hheld => ?_⟩
  · exact instrAt_of_decodes hd hm ▸ hruns hin
  · rintro (hm | ⟨err, hd⟩)
    · exact instrAt_of_modeRejects la.kernel.codeSize hm ▸ hruns hin
    · exact instrAt_of_decode_error th.mode hd ▸ hruns hin
  · have htrap : runThread tile e st2 = .next t := hrun.trans ((runInstr_of_unfetched hkill (fetch_outside hla hout)).trans (by rw [← ht]))
    exact hturn ▸ (tryTurn_cons es htrap).1 hheld

/-- Settles O51: a step is one equation per source, and a turn is the fetch, decode and effect of its first candidate. -/
theorem stepsRunInstructions : Obligations.StepsRunInstructions := ⟨stepsChoose, turnsRun⟩

end Sys2Proof.Safety
end

section
/-! SUPPORT. What the end of following changes (R49), and a trap that goes to TVEC (R359, R360), each said once. -/

namespace Sys2Proof.Safety

open Sys2Proof.Machine

/-! ## The end of following -/

/-- Two states have the same threads, changed by `Followed` only, and differ in nothing outside the tiles. -/
def SameButFollowing (m t : State) : Prop := t = { m with tiles := t.tiles } ∧ ∀ u, Option.Rel Followed (m.thread? u) (t.thread? u)

theorem SameButFollowing.refl (m : State) : SameButFollowing m m := by
  refine ⟨rfl, fun u => ?_⟩
  cases m.thread? u with
  | none => exact .none
  | some o => exact .some (.refl o)

theorem SameButFollowing.trans {a b c : State} (h : SameButFollowing a b) (g : SameButFollowing b c) : SameButFollowing a c := by
  refine ⟨by rw [g.1, h.1], fun u => ?_⟩
  generalize c.thread? u = z, hy : b.thread? u = y, a.thread? u = x, h.2 u = hxy, g.2 u = hyz at *
  cases hxy with
  | none => exact hyz
  | some fxy => cases hyz with
    | some fyz => exact .some (fxy.trans fyz)

/-- A thread that follows no one keeps its context. -/
theorem SameButFollowing.thread_of_leading {m t : State} {u : ThreadId} {o : Thread} (h : SameButFollowing m t)
    (hu : m.thread? u = some o) (ho : o.follow = none) : t.thread? u = some o := by
  have hr := h.2 u
  rw [hu] at hr
  generalize t.thread? u = z at hr ⊢
  cases hr with
  | some f => obtain ⟨-, -, -, -, hkeep⟩ := f; rw [hkeep ho]

theorem SameButFollowing.regs {m t : State} (h : SameButFollowing m t) (u : ThreadId) :
    (t.thread? u).map (·.regs) = (m.thread? u).map (·.regs) := by
  have hr := h.2 u
  generalize t.thread? u = z, m.thread? u = x at hr ⊢
  cases hr with
  | none => rfl
  | some f => obtain ⟨_, _, _, rfl, -⟩ := f; rfl

/-- The end of a thread's following changes that thread only: its following, the bubble at its end and its place on the wheel. -/
theorem sameButFollowing_endFollow (st : State) (t : ThreadId) : SameButFollowing st (st.endFollow t) := by
  unfold State.endFollow
  split
  · exact .refl st
  · rename_i th hth
    split
    · exact .refl st
    · rename_i f hf
      obtain ⟨dealt, dother, dsame⟩ := sameTiles_dealThread (st.modThread t Thread.stopFollow) t
      have hstop : (st.modThread t Thread.stopFollow).thread? t = some th.stopFollow := by
        rw [State.thread?_modThread_same, hth]; rfl
      have followed : ∀ s, Followed th { th.stopFollow with status := s } := fun s =>
        ⟨none, _, s, rfl, fun hn => by rw [hf] at hn; cases hn⟩
      have atOther : ∀ {m : State} {u}, m.thread? u = st.thread? u → Option.Rel Followed (st.thread? u) (m.thread? u) :=
        fun h => h ▸ (SameButFollowing.refl st).2 _
      split
      · refine ⟨rfl, fun u => ?_⟩
        by_cases e : u = t
        · subst e; rw [hstop, hth]; exact .some (followed _)
        · exact atOther (State.thread?_modThread_other _ _ e)
      · refine ⟨by rw [dealt.1]; rfl, fun u => ?_⟩
        by_cases e : u = t
        · subst e
          obtain ⟨s, hs⟩ := dsame _ hstop
          rw [hs, hth]; exact .some (followed s)
        · exact atOther ((dother u e).trans (State.thread?_modThread_other _ _ e))

theorem sameButFollowing_endFollowers (st : State) (t : ThreadId) : SameButFollowing st (st.endFollowers t) := by
  unfold State.endFollowers
  split
  · exact .refl st
  · exact List.foldlRecOn (motive := SameButFollowing st) _ _ (.refl st) fun m hm n _ => hm.trans (sameButFollowing_endFollow m _)

/-! ## A trap that goes to TVEC -/

section traps
variable {st : State} {tid : ThreadId} {th : Thread} {cause : Cause} {tval : Word} {pair : Bool}

/-- A trap that firmware has not forwarded leaves its code alone in TCAUSE (R359). -/
theorem enterTrap_user (th : Thread) (cause : Cause) (tval epc : Word) (fol pair : Bool) (tvec : Word) :
    th.enterTrap cause tval epc fol pair false tvec = { th with
      pc := tvec, tcause := BitVec.ofNat 32 cause.code, tval := tval, tepc := epc
      tstat := BitVec.ofNat 32 (fol.toNat * 8 + th.step.toNat * 4 + pair.toNat * 2 + 1)
      step := false, follow := none, bubble := th.bubble || th.follow.any (·.joined), fence := none, w1Done := false, symSince := none } := by
  simp [Thread.enterTrap, tstatWord]

/-- Outside a handler, in a launch that declares a TVEC, a trap enters the handler, ends the following of the thread's followers, and
deals the thread afresh when it was blocked at a FOLLOW (R49, R359, R362). -/
theorem takeTrap_enters {la : Launch} (hth : st.thread? tid = some th) (hc : cause.toFirmware = false)
    (hla : st.launchOf tid.tile = some la) (htvec : la.kernel.tvec ≠ noTvec) (hinh : th.inh = false) :
    st.takeTrap tid cause tval th.pc pair =
      let m := (st.setThread tid (th.enterTrap cause tval th.pc th.follow.isSome pair false la.kernel.tvec)).endFollowers tid
      if th.joining then m.dealThread tid else m := by
  simp [State.takeTrap, hc, State.userTrap, hth, hla, htvec, hinh]

/-- A trap that finds its launch with a TVEC, outside a handler, is taken (R359). -/
theorem takeTrap_takes (hth : st.thread? tid = some th) (hc : cause.toFirmware = false) :
    TakesTrap st (st.takeTrap tid cause tval th.pc pair) tid th cause tval pair := by
  intro la hla htvec hinh
  have hfol := sameButFollowing_endFollowers
    (st.setThread tid (th.enterTrap cause tval th.pc th.follow.isSome pair false la.kernel.tvec)) tid
  rw [takeTrap_enters hth hc hla htvec hinh]
  simp only
  generalize (st.setThread tid _).endFollowers tid = m at hfol ⊢
  have hmem : m.mem = st.mem := by rw [hfol.1]; rfl
  have hother : ∀ u, u ≠ tid → (m.thread? u).map (·.regs) = (st.thread? u).map (·.regs) := fun u hu => by
    rw [hfol.regs u, State.thread?_setThread_other _ _ hu]
  have hown := hfol.thread_of_leading (State.thread?_setThread_same st _ hth) rfl
  rw [enterTrap_user] at hown
  by_cases hj : th.joining = true
  · obtain ⟨dealt, dother, dsame⟩ := sameTiles_dealThread m tid
    obtain ⟨s, hs⟩ := dsame _ hown
    rw [if_pos hj]
    refine ⟨by rw [dealt.1]; exact hmem, fun u hu => by rw [dother u hu, hother u hu], th.streams, s, fun hn => ?_, hs⟩
    rw [hj] at hn; cases hn
  · rw [if_neg hj]
    exact ⟨hmem, hother, th.streams, th.status, fun _ => rfl, hown⟩

end traps

/-! ## The failure of a launch -/

/-- A launch has been cancelled with a detail and a fault in its record. -/
def HasFailed (st : State) (part slot detail : Nat) (fault : Option FaultRec) : Prop :=
  ∃ la, st.launches.get? (part, slot) = some la ∧ la.cancelled = true ∧ la.detail = detail ∧ la.fault = fault

section failure
variable {st : State} {part slot detail : Nat} {fault : Option FaultRec}

theorem get?_modLaunch_same (st : State) (p n : Nat) (f : Launch → Launch) :
    (st.modLaunch p n f).launches.get? (p, n) = (st.launches.get? (p, n)).map f := AMap.get?_update_same _ _ _

/-- What keeps the cancelled mark, the detail and the fault of every launch keeps a failure. -/
theorem HasFailed.modLaunch {p n : Nat} {f : Launch → Launch} (h : HasFailed st part slot detail fault)
    (hf : ∀ l, (f l).cancelled = l.cancelled ∧ (f l).detail = l.detail ∧ (f l).fault = l.fault) :
    HasFailed (st.modLaunch p n f) part slot detail fault := by
  obtain ⟨la, hla, hcancelled, hdetail, hfault⟩ := h
  by_cases e : (part, slot) = (p, n)
  · obtain ⟨fc, fd, ff⟩ := hf la
    cases e
    exact ⟨f la, by rw [get?_modLaunch_same, hla]; rfl, fc.trans hcancelled, fd.trans hdetail, ff.trans hfault⟩
  · exact ⟨la, (AMap.get?_update_other _ _ e).trans hla, hcancelled, hdetail, hfault⟩

theorem markKill_launches (st : State) (t : ThreadId) : (st.markKill t).launches = st.launches := by
  unfold State.markKill
  split
  · rfl
  · simp only; split <;> rfl

theorem markKills_launches (st : State) (id : TileId) (ths : List (Nat × Thread)) :
    (ths.foldl (fun st th => st.markKill ⟨id, th.1⟩) st).launches = st.launches :=
  List.foldlRecOn (motive := fun m : State => m.launches = st.launches) ths _ rfl fun m hm _ _ => (markKill_launches m _).trans hm

/-- Cancelling a tile of a launch (R52) keeps a failure. -/
theorem HasFailed.cancelTile (h : HasFailed st part slot detail fault) (id : TileId) (tl : Tile) :
    HasFailed (st.cancelTile id tl) part slot detail fault := by
  unfold State.cancelTile
  simp only
  split
  · unfold HasFailed
    rw [markKills_launches]
    exact h
  · exact HasFailed.modLaunch h fun l => ⟨rfl, rfl, rfl⟩

/-- Cancelling a launch (R52) keeps its detail and its fault. -/
theorem hasFailed_cancelLaunch {la : Launch} (hla : st.launches.get? (part, slot) = some la) :
    HasFailed (st.cancelLaunch part slot) part slot la.detail la.fault := by
  unfold State.cancelLaunch
  refine List.foldlRecOn (motive := fun m => HasFailed m part slot la.detail la.fault) _ _ ?_ fun m hm e _ => hm.cancelTile e.1 e.2
  exact ⟨_, (get?_modLaunch_same _ _ _ _).trans (congrArg _ hla), rfl, rfl, rfl⟩

/-- A launch that nothing has cancelled fails with its detail and fault (R360, R437). -/
theorem hasFailed_failLaunch {la : Launch} (hla : st.launches.get? (part, slot) = some la) (hc : la.cancelled = false) :
    HasFailed (st.failLaunch part slot detail fault) part slot detail fault := by
  simp only [State.failLaunch, hla, hc, Bool.false_eq_true, if_false]
  exact hasFailed_cancelLaunch (la := { la with detail := detail, fault := fault })
    (by rw [get?_modLaunch_same, hla]; rfl)

end failure

section traps
variable {st : State} {tid : ThreadId} {th : Thread} {cause : Cause} {tval : Word} {pair : Bool}

/-- A thread's failure is its launch's, whose record names the trap (R360). -/
theorem hasFailed_failThread {la : Launch} {detail : Nat} {epc : Word} (hla : st.launchOf tid.tile = some la) (hc : la.cancelled = false) :
    HasFailed (st.failThread tid detail cause epc tval) tid.tile.part tid.tile.slot detail
      (some ⟨cause, epc, tval, tid.thr, tid.tile.num, st.now⟩) := by
  have h := hasFailed_failLaunch (detail := detail) (fault := some ⟨cause, epc, tval, tid.thr, tid.tile.num, st.now⟩) hla hc
  unfold State.failThread
  simp only
  split <;> exact h

/-- A trap without a TVEC, or in a handler, fails the launch (R359, R360). -/
theorem takeTrap_fails (hth : st.thread? tid = some th) (hc : cause.toFirmware = false) :
    FailsLaunch st (st.takeTrap tid cause tval th.pc pair) tid th cause tval := by
  intro la hla hcancelled _ hwhere
  have hfol := (sameButFollowing_endFollowers st tid).1
  have hla' : (st.endFollowers tid).launchOf tid.tile = some la := by rw [hfol]; exact hla
  have hnow : (st.endFollowers tid).now = st.now := by rw [hfol]
  have htake : st.takeTrap tid cause tval th.pc pair =
      (st.endFollowers tid).failThread tid (if la.kernel.tvec = 0xFFFFFFFF#32 then 1 else 2) cause th.pc tval := by
    simp only [State.takeTrap, hc, State.userTrap, hth, hla, noTvec, Thread.inh, Bool.false_eq_true, if_false]
    split
    · rfl
    · rw [if_pos (hwhere.resolve_left ‹_›)]
  obtain ⟨la', hla', hcancelled', hdetail, hfault⟩ := hasFailed_failThread (cause := cause) (tval := tval)
    (detail := if la.kernel.tvec = 0xFFFFFFFF#32 then 1 else 2) (epc := th.pc) hla' hcancelled
  exact ⟨la', htake ▸ hla', hcancelled', hdetail, hnow ▸ hfault⟩

/-! ## An instruction that traps -/

/-- A trap of which firmware hears nothing leaves FVA and FINFO. -/
theorem setInfo_of_user (hc : cause.toFirmware = false) (info : Option (Nat × Word)) : st.setInfo tid cause info = st := by
  simp [State.setInfo, hc]

/-- An instruction that stops with a trap takes it, or fails its launch by it, with no effect but the drop of held stream faults (R230). -/
theorem issueWith_traps {s : BitVec 2} {len : Nat} {f : ThreadId → Thread → Except Stop Done} (hr : Runs st tid th)
    (hc : cause.toFirmware = false) (hf : f tid th = .error (.trap cause tval)) :
    ∃ t, issueWith pair st s len f = .next t ∧ TakesTrap st t tid th cause tval pair ∧ FailsLaunch st t tid th cause tval := by
  obtain ⟨hcur, hth, -⟩ := hr
  have hm : (st.setThread tid th.dropFaults).thread? tid = some th.dropFaults := State.thread?_setThread_same st _ hth
  refine ⟨(st.setThread tid th.dropFaults).takeTrap tid cause tval th.pc pair, ?_, fun la hla htvec hinh => ?_,
    takeTrap_fails (th := th.dropFaults) hm hc⟩
  · simp only [issueWith, hcur, hth, hf, setInfo_of_user hc]
  · obtain ⟨hmem, hother, streams, status, hstatus, hown⟩ := takeTrap_takes (tval := tval) (pair := pair) hm hc la hla htvec hinh
    exact ⟨hmem, fun u hu => (hother u hu).trans (by rw [State.thread?_setThread_other _ _ hu]), streams, status, hstatus, hown⟩

theorem issue_traps {s : BitVec 2} {f : ThreadId → Thread → Except Stop Done} (hr : Runs st tid th)
    (hc : cause.toFirmware = false) (hf : f tid th = .error (.trap cause tval)) :
    ∃ t, issue st s 4 f = .next t ∧ TakesTrap st t tid th cause tval false ∧ FailsLaunch st t tid th cause tval :=
  issueWith_traps hr hc hf

end traps

end Sys2Proof.Safety
end

section
/-! PROOF. Illegal words, IMX words without a pair, and registers beyond the allocation (R28, R229, R230, R236). -/

namespace Sys2Proof.Safety

open Sys2Proof.Machine

/-! ## The first field beyond the allocation -/

theorem fieldKind_beyond {th : Thread} {c : XField} (h : ¬ Named th c) : fieldKind th.alloc c = .beyond := by
  obtain ⟨hreg, hstream⟩ := not_or.1 h
  rw [fieldKind, if_neg hreg, if_neg hstream]

/-- REGLIMIT names the first field that lies beyond the allocation (R28). -/
theorem checkLimits_beyond {th : Thread} {bad : XField} (hb : ¬ Named th bad) (after : List XField) {before : List XField}
    (hn : ∀ c ∈ before, Named th c) : checkLimits th (before ++ bad :: after) = .error (.trap .regLimit (bad.setWidth 32)) := by
  induction before with
  | nil => rw [List.nil_append, checkLimits, if_pos (fieldKind_beyond hb)]
  | cons c cs ih =>
    obtain ⟨hc, hcs⟩ := List.forall_mem_cons.1 hn
    have hkind : fieldKind th.alloc c ≠ .beyond := by
      rcases hc with hreg | ⟨hfew, hcode⟩
      · simp [fieldKind_reg hreg]
      · simp [fieldKind_stream hfew hcode]
    rw [List.cons_append, checkLimits, if_neg hkind]
    exact ih hcs

theorem generalChecks_beyond {th : Thread} {rs ws before after : List XField} {bad : XField} (hfields : rs ++ ws = before ++ bad :: after)
    (hb : ¬ Named th bad) (hn : ∀ c ∈ before, Named th c) :
    generalChecks th rs ws = .error (.trap .regLimit (bad.setWidth 32)) := by
  rw [generalChecks, hfields, checkLimits_beyond hb after hn]; rfl

/-! ## The two-register integer forms begin with the general checks -/

/-- An instruction whose body stops where the general checks of its fields stop, before it reads or writes any (R230). -/
def ChecksFirst (i : Instr) (s : BitVec 2) (reads writes : List XField) : Prop :=
  ∀ st, ∃ f, exec i st = issue st s 4 f ∧ ∀ tid th stop, generalChecks th reads writes = .error stop → f tid th = .error stop

variable {s : BitVec 2} {d a b : XField} {i : Instr}

theorem checksFirst_of_opNeedNeed {f : Word → Word → FRes} {g : Nat} (h : ∀ st, exec i st = opNeedNeed st s d a b f g) :
    ChecksFirst i s [a, b] [d] :=
  fun st => ⟨_, h st, fun tid th stop hstop => by simp only [hstop]; rfl⟩

theorem checksFirst_of_opStates {f : RegState → RegState → Option RegState} (h : ∀ st, exec i st = opStates st s d a b f) :
    ChecksFirst i s [a, b] [d] :=
  fun st => ⟨_, h st, fun tid th stop hstop => by simp only [hstop]; rfl⟩

theorem checksFirst_wordOps2 : ∀ e ∈ wordOps2, ∀ s d a b, ChecksFirst (e.1 s d a b) s [a, b] [d] := by
  simp only [wordOps2, List.forall_mem_cons, List.not_mem_nil, false_implies, implies_true, and_true]
  exact ⟨
    fun _ _ _ _ => checksFirst_of_opStates exec_add, fun _ _ _ _ => checksFirst_of_opStates exec_sub,
    fun _ _ _ _ => checksFirst_of_opStates exec_mul, fun _ _ _ _ => checksFirst_of_opNeedNeed exec_and,
    fun _ _ _ _ => checksFirst_of_opNeedNeed exec_or, fun _ _ _ _ => checksFirst_of_opNeedNeed exec_xor,
    fun _ _ _ _ => checksFirst_of_opNeedNeed exec_andn, fun _ _ _ _ => checksFirst_of_opNeedNeed exec_slt,
    fun _ _ _ _ => checksFirst_of_opNeedNeed exec_sltn, fun _ _ _ _ => checksFirst_of_opNeedNeed exec_sll,
    fun _ _ _ _ => checksFirst_of_opNeedNeed exec_srl, fun _ _ _ _ => checksFirst_of_opNeedNeed exec_sra,
    fun _ _ _ _ => checksFirst_of_opNeedNeed exec_rotr, fun _ _ _ _ => checksFirst_of_opNeedNeed exec_min,
    fun _ _ _ _ => checksFirst_of_opNeedNeed exec_max, fun _ _ _ _ => checksFirst_of_opNeedNeed exec_minn,
    fun _ _ _ _ => checksFirst_of_opNeedNeed exec_maxn, fun _ _ _ _ => checksFirst_of_opNeedNeed exec_mulh,
    fun _ _ _ _ => checksFirst_of_opNeedNeed exec_mulhn⟩

/-- An instruction that begins with the general checks traps REGLIMIT with its first field beyond the allocation (R28, R230). -/
theorem ChecksFirst.regLimit {reads writes before after : List XField} {bad : XField} (h : ChecksFirst i s reads writes) {st : State}
    {tid : ThreadId} {th : Thread} (hr : Runs st tid th) (hfields : reads ++ writes = before ++ bad :: after) (hb : ¬ Named th bad)
    (hn : ∀ c ∈ before, Named th c) : ∃ t, exec i st = .next t ∧ TakesTrap st t tid th .regLimit (bad.setWidth 32) false := by
  obtain ⟨f, hexec, hstop⟩ := h st
  obtain ⟨t, ht, htakes, -⟩ := issue_traps (s := s) hr rfl (hstop tid th _ (generalChecks_beyond hfields hb hn))
  exact ⟨t, hexec.trans ht, htakes⟩

/-! ## The obligation -/

theorem execIllegal_traps {st : State} {tid : ThreadId} {th : Thread} (hr : Runs st tid th) (w : Word) :
    ∃ t, execIllegal w st = .next t ∧ TakesTrap st t tid th .illegal w false ∧ FailsLaunch st t tid th .illegal w :=
  issue_traps hr rfl rfl

/-- An IMX word before a word that takes none executes as an illegal word (R229). -/
theorem execImx_of_not_acceptsImx {w : Word} (h : acceptsImx w.toNat = false) (hi : BitVec 22) (st : State) :
    execImx hi w st = execIllegal (wordOf (.imx hi w)) st := by
  simp [execImx, h]

/-- Settles O18: the word that failed is the trap's TVAL, and of the operands a, b and d the first that lies beyond the allocation is. -/
theorem illegalWords : Obligations.IllegalWords := by
  refine ⟨fun st w tid th hr => execIllegal_traps hr w, fun st hi w tid th hr himx => ?_, fun e he st s d a b bad tid th hr hbad => ?_⟩
  · obtain ⟨t, ht, htakes, -⟩ := execIllegal_traps hr (wordOf (.imx hi w))
    exact ⟨t, (execImx_of_not_acceptsImx himx hi st).trans ht, htakes⟩
  · have hchecks := checksFirst_wordOps2 e he s d a b
    rcases hbad with ⟨rfl, hb⟩ | ⟨rfl, ha, hb⟩ | ⟨rfl, ha, hb, hd⟩
    · exact hchecks.regLimit hr (before := []) rfl hb (by simp)
    · exact hchecks.regLimit hr (before := [a]) rfl hb (by simpa using ha)
    · exact hchecks.regLimit hr (before := [a, b]) rfl hd (by simpa using ⟨ha, hb⟩)

end Sys2Proof.Safety
end

section
/-! PROOF. The hint words (R247). -/

namespace Sys2Proof.Safety

open Sys2Proof.Machine

/-! ## What the actions leave alone -/

/-- Two states have the same memory and the same tiles. -/
def SameMemAndTiles (m t : State) : Prop := t.mem = m.mem ∧ t.tiles = m.tiles

theorem SameMemAndTiles.thread? {m t : State} (h : SameMemAndTiles m t) (u : ThreadId) : t.thread? u = m.thread? u := by
  simp only [State.thread?, State.tile?, h.2]

theorem sameMemAndTiles_tlbLookup (st : State) (berth root va : Nat) : SameMemAndTiles st (st.tlbLookup berth root va).2 := by
  unfold State.tlbLookup
  split
  · exact ⟨rfl, rfl⟩
  · split <;> exact ⟨rfl, rfl⟩

/-- An engine's translation changes TLBs only (R471). -/
theorem sameMemAndTiles_translateNow {st st' : State} {tile : TileId} {va pa : Nat} {read write : Bool}
    (h : translateNow st tile va read write = .ok (pa, st')) : SameMemAndTiles st st' := by
  unfold translateNow at h
  split at h
  case h_2 => cases h
  split at h
  case h_2 => cases h
  rename_i b root _ _
  have hlook := sameMemAndTiles_tlbLookup st b root va
  split at h
  · rename_i e st1 heq
    rw [heq] at hlook
    split at h <;> cases h
    exact hlook
  · rename_i st1 heq
    rw [heq] at hlook
    split at h <;> cases h
    exact hlook

/-- An action of a hint that leaves memory and every tile, with its threads, alone. -/
def IsHarmless (f : HintAction) : Prop := ∀ st tid t v w, SameMemAndTiles st (f st tid t v w)

theorem isHarmless_prefAction : IsHarmless prefAction := by
  intro st tid t v w
  unfold prefAction
  split
  · simp only
    split
    · exact ⟨rfl, rfl⟩
    · split
      · split
        · rename_i h; exact sameMemAndTiles_translateNow h
        · exact ⟨rfl, rfl⟩
      · exact ⟨rfl, rfl⟩
  · exact ⟨rfl, rfl⟩

theorem isHarmless_tclassAction : IsHarmless tclassAction := by
  intro st tid t v w
  unfold tclassAction
  split <;> exact ⟨rfl, rfl⟩

theorem isHarmless_skip : IsHarmless fun st _ _ _ _ => st := fun _ _ _ _ _ => ⟨rfl, rfl⟩

/-! ## The copy -/

/-- A write of a register makes no read early that was not (R175). -/
theorem isEarly_setReg {th : Thread} {n : Nat} (h : th.isEarly n = false) (m : Nat) (v : RegState) : (th.setReg m v).isEarly n = false := by
  unfold Thread.setReg
  split
  · exact h
  · by_cases hn : n = 0
    · simp [Thread.isEarly, hn]
    · have hnone : ∀ f ∈ th.inflight, f.reg ≠ n := by simpa [Thread.isEarly, hn] using h
      suffices ∀ f ∈ th.inflight, (if f.reg = m then { f with reg := 0 } else f).reg ≠ n by simpa [Thread.isEarly, hn] using this
      intro f hf
      split
      · exact Ne.symm hn
      · exact hnone f hf

/-- The state that a hint's copy and then its action leave, for fields within the allocation (R247, R248). -/
def hintLeaves (st : State) (tid : ThreadId) (th : Thread) (d a b : XField) (action : Option HintAction) : State :=
  let new := th.setReg d.toNat (th.reg a.toNat)
  match action with
  | none => st.setThread tid new
  | some f =>
    if th.alloc ≤ b.toNat then st.setThread tid new
    else match new.reg b.toNat with
      | .ready w => f (st.setThread tid new) tid th (th.reg a.toNat) w
      | _ => st.setThread tid new

section copy
variable {st : State} {s : BitVec 2} {d a b : XField} {tid : ThreadId} {th : Thread} {i : Instr} {action : Option HintAction}

theorem sameMemAndTiles_hintLeaves (hacts : ∀ f ∈ action, IsHarmless f) :
    SameMemAndTiles (st.setThread tid (th.setReg d.toNat (th.reg a.toNat))) (hintLeaves st tid th d a b action) := by
  unfold hintLeaves
  simp only
  split
  · exact ⟨rfl, rfl⟩
  · rename_i f
    split
    · exact ⟨rfl, rfl⟩
    · split
      · exact hacts f rfl _ _ _ _ _
      · exact ⟨rfl, rfl⟩

/-- A hint copies the whole state of a register, and does nothing when a field lies beyond the allocation (R247). -/
theorem hint_copies (hexec : exec i st = opHint st s d a b action) (hr : Runs st tid th) (hacts : ∀ f ∈ action, IsHarmless f)
    (hearly : th.mode = .w1 → th.isEarly a.toNat = false ∧ (action.isSome = true → th.isEarly b.toNat = false)) :
    ∃ m t, exec i st = .next t ∧ m.mem = st.mem ∧
      Completed m t tid (if a.toNat < th.alloc ∧ d.toNat < th.alloc then th.setReg d.toNat (th.reg a.toNat) else th) s 4 .fall := by
  rw [hexec, opHint]
  by_cases hfields : a.toNat < th.alloc ∧ d.toNat < th.alloc
  · rw [if_pos hfields]
    obtain ⟨ha, hd⟩ := hfields
    have hsame := sameMemAndTiles_hintLeaves (st := st) (tid := tid) (th := th) (d := d) (a := a) (b := b) hacts
    have hthread := (hsame.thread? tid).trans (State.thread?_setThread_same st _ hr.2.1)
    refine (issue_completes hr (d := { st := hintLeaves st tid th d a b action }) ?_ rfl hthread).elim
      fun t h => ⟨_, t, h.1, hsame.1, h.2⟩
    have hinside : ¬ (th.alloc ≤ d.toNat ∨ th.alloc ≤ a.toNat) := by omega
    have hearlyA : ¬ (th.mode = .w1 ∧ th.isEarly a.toNat = true) := fun ⟨hm, he⟩ => by simp [(hearly hm).1] at he
    simp only [if_neg hinside, if_neg hearlyA, hintLeaves]
    cases action with
    | none => rfl
    | some f =>
      have hearlyB : ¬ (th.mode = .w1 ∧ (th.setReg d.toNat (th.reg a.toNat)).isEarly b.toNat = true) := fun ⟨hm, he⟩ => by
        simp [isEarly_setReg ((hearly hm).2 rfl)] at he
      simp only [if_neg hearlyB]
      by_cases hb : th.alloc ≤ b.toNat
      · simp only [if_pos hb]
      · simp only [if_neg hb]
        cases (th.setReg d.toNat (th.reg a.toNat)).reg b.toNat <;> rfl
  · rw [if_neg hfields]
    refine (issue_completes hr (d := { st := st }) ?_ rfl hr.2.1).elim fun t h => ⟨st, t, h.1, rfl, h.2⟩
    exact if_pos (by omega)

end copy

/-- Settles O10: each hint word is the one copy, and its action is harmless or absent. -/
theorem hintsCopy : Obligations.HintsCopy := by
  unfold Obligations.HintsCopy
  simp only [hintOps, List.forall_mem_cons, List.not_mem_nil, false_implies, implies_true, and_true]
  refine ⟨?pref, ?tclass, ?brhint, ?low, ?high⟩ <;> intro st s d a b tid th hr hearly
  case pref => exact hint_copies (exec_pref st) hr (by simpa using isHarmless_prefAction) (by simpa using hearly)
  case tclass => exact hint_copies (exec_tclass st) hr (by simpa using isHarmless_tclassAction) (by simpa using hearly)
  case brhint => exact hint_copies (exec_brhint st) hr (by simpa using isHarmless_skip) (by simpa using hearly)
  case low | high => exact hint_copies (exec_hintFallback st) hr (by simp) hearly

end Sys2Proof.Safety
end

section
/-! PROOF. The words of the manual's tables of encodings (R236). -/

namespace Sys2Proof

/-- Settles O52: the decoder and the encoder evaluate to the two sides of each word of the tables. -/
theorem sampleWordsDecode : Obligations.SampleWordsDecode := by
  simp only [Obligations.SampleWordsDecode, sampleWords, List.forall_mem_cons, List.not_mem_nil, false_implies, implies_true, and_true]
  exact ⟨⟨⟨rfl, rfl⟩, ⟨rfl, rfl⟩, ⟨rfl, rfl⟩, ⟨rfl, rfl⟩, ⟨rfl, rfl⟩, ⟨rfl, rfl⟩, ⟨rfl, rfl⟩, ⟨rfl, rfl⟩, ⟨rfl, rfl⟩,
    ⟨rfl, rfl⟩, ⟨rfl, rfl⟩, ⟨rfl, rfl⟩, ⟨rfl, rfl⟩, ⟨rfl, rfl⟩, ⟨rfl, rfl⟩, ⟨rfl, rfl⟩, ⟨rfl, rfl⟩⟩,
    ⟨_, rfl⟩, ⟨_, rfl⟩, ⟨_, rfl⟩, ⟨_, rfl⟩⟩

end Sys2Proof
end
